-- ==== Sys2Proof/Word.lean ====
section
/-!
DEFINITION. Sys2Proof/Word.lean: the word types of the machine and nothing else.
-/

namespace Sys2Proof

/-- One byte of memory. -/
abbrev Byte := BitVec 8

/-- The 64 bits of a scalar register (02 R18). -/
abbrev Word := BitVec 64

/-- The 256 bits of a handle register (02 R19). -/
abbrev HWord := BitVec 256

end Sys2Proof
end

