-- ==== Sys2Proof/Config.lean ====
section
/-!
DEFINITION. Sys2Proof/Config.lean: what one module fixes, and the free values: constants with no body, which nothing
in Lean can evaluate. Each free value has its row in notes/assumptions.
-/

namespace Sys2Proof.Config

/-- The word lysa writes into s4 for a TRAP code it serves; which codes it serves and what it answers is lysa's own
(06 R152 fixes only the answer to a code it does not serve). `none` is such a code. -/
opaque syscallAnswer : (code : Word) → Option Word

/-- STAMP of the n-th reply lysa delivers to a device thread; 07 R170 gives the message's handler and payload only. -/
opaque replyStamp : (n : Nat) → Word

/-- The die whose reserved core sends the n-th reply to a device thread. -/
opaque replyDie : (n : Nat) → Fin 4

/-- The size of an owner's fault log, 64 records times a power of two up to 65,536 (22 R387: "written by lysa"). -/
opaque faultLogScale : (owner : Nat) → Fin 11

/-- Entries of the undo log lysa allocates for a seam domain (23 R400). -/
opaque undoCapacity : Nat

/-- Which core of a target cluster a SPACE 0 handle of a remote matrix command reaches the TCM of; 17 R346 interprets the handle in the
target cluster and names no core. -/
opaque remoteTcm : (cluster requester : Nat) → Fin 8

/-- Whether the n-th word that a faulting chunk of a transfer might have written was written (18 R358: "may have been written"). -/
opaque wordWritten : (n : Nat) → Bool

/-- The n-th byte a peer module answers to a read of its JSL window (24 R424). -/
opaque peerByte : (n : Nat) → Byte

/-- Which of the free frames that would do lysa takes for its n-th allocation (11 R247 states the pool only). -/
opaque framePick : (n : Nat) → Nat

/-- Does the n-th fetch from a line that was written since the instruction cache took it still see the old bytes (06 R154)? -/
opaque staleFetch : (n : Nat) → Bool

/-- Which of the ranks whose windows share a byte leaves its value there, for the n-th such byte (14 R276: "which one is not defined"). -/
opaque sharedWriter : (n : Nat) → Nat

/-- The bytes of the packet that carries a link-path write; 24 R415 gives the flits and not the packets in them. -/
opaque packetBytes : (write : Nat) → List Byte

/-- The SHA-512 digest of the root public key in the fuses; the key and the signature that come with an image, and the bytes that are signed; and the modulus and
exponent that a key gives (24 R425, which lays none of these out). -/
opaque rootDigest : List Byte
opaque imageKey : (image : List Byte) → List Byte
opaque imageSignature : (image : List Byte) → List Byte
opaque signedPart : (image : List Byte) → List Byte
opaque keyNumbers : (key : List Byte) → Nat × Nat

/-- The signature by the module's identity key, which no instruction reads (24 R426). -/
opaque identitySignature : (report : List Byte) → Vector Byte 512

/-- The boot firmware's image, whose digest an attestation reports (24 R426). -/
opaque firmwareImage : List Byte

/-- The boot firmware's security version. -/
opaque firmwareVersion : Nat

/-- The certificate of the module's identity key, signed by the root key, which lysa sends beside an attestation (24 R425). -/
opaque certificate : List Byte

/-- The lysa image the module boots, its security version, and where it is entered (26 R433). -/
opaque bootImage : List Byte
opaque bootVersion : Nat
opaque lysaEntry : Word

/-- The fused security counter (24 R425, 26 R435). -/
opaque fusedVersion : Nat

/-- The administrator credential fused into the module (11 R246). -/
opaque adminCred : Nat

/-- The module id; for each port, the peer module the platform configuration expects; and for each of the four spare JSL ports, the module to whose spare
it is cabled (24 R413, R417). -/
opaque moduleId : BitVec 16
opaque expectedPeer : (port : Nat) → Option Nat
opaque spareCabled : (spare : Nat) → Option Nat

/-- Lysa's map of this module's JSL window: the owner and the virtual 64 KiB page behind a page of the window, where it maps one (24 R424). -/
opaque jslWindow : (page : Nat) → Option (Nat × Nat)

/-- The sequence number that a peer's domain has when it is joined (23 R407). -/
opaque peerSeq : (n : Nat) → BitVec 64

/-- The Ultra Ethernet port that the n-th message or packet takes (24 R419). -/
opaque uePort : (n : Nat) → Fin 4

/-- Which line of a full instruction cache makes room for another (01 R11). -/
opaque l1iVictim : (fresh : Nat) → Nat

/-- Does the patrol scrubber find a correctable error in a line (10 R226)? -/
opaque scrubFinds : (fresh : Nat) → Bool

/-- The retrain limit boot firmware writes (24 R414: "Boot firmware sets RTLIMIT"). -/
opaque bootRtlimit : BitVec 32

end Sys2Proof.Config
end

