-- ==== Sys2Proof/Syntax.lean ====
section
/-!
DEFINITION. Sys2Proof/Syntax.lean: every instruction and event of spec/opcode_table.json as one inductive.
A 32-bit or 16-bit instruction carries the fields its entry names (02 R26 to R42), each at the width the encoding
gives it. An EVENT row (a step of the hardware or of lysa that no word encodes) carries the operands that name what it acts on.
-/

namespace Sys2Proof

/-- A scalar register number, s0 to s15 (02 R18). -/
abbrev Reg := Fin 16

/-- A handle register number, h0 to h7 (02 R19). -/
abbrev HReg := Fin 8

/-- Where a request came from: an endpoint outside the module, or a thread's SEND to the launch endpoint (07 R168, R170). -/
inductive Source where
  | host (endpoint : Nat)
  | device (core owner knum : Nat)
  deriving DecidableEq, Repr

/-- The 64-byte request of 07 R167, field by field; `cred` is the 32-byte credential read little-endian. `arrival` numbers the host requests that wait (the model's
own field); one that has not reached lysa yet has 0. -/
structure Request where
  op : Nat
  mflags : Nat
  owner : Nat
  rcb : Nat
  tag : Nat
  cred : Nat
  chand : Nat
  source : Source
  arrival : Nat := 0
  deriving DecidableEq, Repr

/-- What a packet of a peer says of itself when it arrives (24 R418, R420, R424): the peer module, the port it came by, the sending core and its owner, the
destination core and carry slot, the sequence number of the pair and the payload; for a write into this module's JSL window, the offset there. -/
structure CarryPacket where
  peer : Nat
  port : Nat
  owner : Nat
  srcCore : Nat
  dstCore : Nat
  dstSlot : Nat
  seq : Nat
  bytes : List (BitVec 8)
  window : Option Nat := none
  deriving DecidableEq, Repr

/-- A packet of an RDMA operation (24 R419): its owner, the operation's number, and whether it is the last of the operation to arrive. -/
structure RdmaPacket where
  owner : Nat
  op : Nat
  last : Bool
  deriving DecidableEq, Repr

/-- An access of a core to an address of a classified page (22 R384). -/
structure PageAccess where
  core : Nat
  va : Nat
  write : Bool
  deriving DecidableEq, Repr

/-- What completes of a seam (23 R399, R407): this module's part of a domain's, or another member's step 5 under the tag of its trigger. -/
structure SeamPart where
  domain : Nat
  member : Option Nat := none
  tag : BitVec 64 := 0
  deriving DecidableEq, Repr

/-- The answer that comes back for a carry (24 R420). -/
inductive CarryReply where
  | accepted | full | refused
  deriving DecidableEq, Repr

/-- What an uncorrectable error destroyed (23 R401): state of a core, a line by its physical or local location, in a cache or in the memory itself, the checkpoint
or undo log of a seam domain, a flit at a port, or something of another member of a joined domain (R407). -/
inductive Destroyed where
  | core (core : Nat)
  | line (loc : Nat) (cached : Bool)
  | record (domain : Nat)
  | flit (port : Nat)
  | member (domain : Nat)
  deriving DecidableEq, Repr

/-- The operations and events of spec/opcode_table.json, one constructor per row: the encoded rows in the
table's order, then its events. -/
inductive Instr where
  /-- LB (R110): Loads a sign-extended byte from memory into rd -/
  | lb (rd rs1 : Reg) (imm : BitVec 9) (la : BitVec 4) (acq : Bool)
  /-- LH (R110): Loads a sign-extended halfword into rd -/
  | lh (rd rs1 : Reg) (imm : BitVec 9) (la : BitVec 4) (acq : Bool)
  /-- LW (R110): Loads a sign-extended word into rd -/
  | lw (rd rs1 : Reg) (imm : BitVec 9) (la : BitVec 4) (acq : Bool)
  /-- LD (R110): Loads a doubleword into rd -/
  | ld (rd rs1 : Reg) (imm : BitVec 9) (la : BitVec 4) (acq : Bool)
  /-- LBU (R110): Loads a zero-extended byte into rd -/
  | lbu (rd rs1 : Reg) (imm : BitVec 9) (la : BitVec 4) (acq : Bool)
  /-- LHU (R110): Loads a zero-extended halfword into rd -/
  | lhu (rd rs1 : Reg) (imm : BitVec 9) (la : BitVec 4) (acq : Bool)
  /-- LWU (R110): Loads a zero-extended word into rd -/
  | lwu (rd rs1 : Reg) (imm : BitVec 9) (la : BitVec 4) (acq : Bool)
  /-- SB (R112): Stores the low byte of rs2 -/
  | sb (rs1 rs2 : Reg) (imm : BitVec 14)
  /-- SH (R112): Stores the low halfword of rs2 -/
  | sh (rs1 rs2 : Reg) (imm : BitVec 14)
  /-- SW (R112): Stores the low word of rs2 -/
  | sw (rs1 rs2 : Reg) (imm : BitVec 14)
  /-- SD (R112): Stores the doubleword rs2 -/
  | sd (rs1 rs2 : Reg) (imm : BitVec 14)
  /-- SW.REL (R113): Release store of a word -/
  | swRel (rs1 rs2 : Reg) (imm : BitVec 14)
  /-- SD.REL (R113): Release store of a doubleword -/
  | sdRel (rs1 rs2 : Reg) (imm : BitVec 14)
  /-- SD.FWD (R114): Stores a doubleword and tags the line with CR_FWDTAG -/
  | sdFwd (rs1 rs2 : Reg) (imm : BitVec 14)
  /-- ADDI (R104): Adds a sign-extended immediate to rs1 -/
  | addi (rd rs1 : Reg) (imm : BitVec 14)
  /-- SLLI (R104): Shifts rs1 left by an immediate amount -/
  | slli (rd rs1 : Reg) (shamt : BitVec 6)
  /-- SLTI (R104): Signed compare of rs1 with an immediate -/
  | slti (rd rs1 : Reg) (imm : BitVec 14)
  /-- SLTIU (R104): Unsigned compare of rs1 with an immediate -/
  | sltiu (rd rs1 : Reg) (imm : BitVec 14)
  /-- XORI (R104): XORs rs1 with an immediate -/
  | xori (rd rs1 : Reg) (imm : BitVec 14)
  /-- SRLI (R104): Logical right shift by an immediate -/
  | srli (rd rs1 : Reg) (shamt : BitVec 6)
  /-- SRAI (R104): Arithmetic right shift by an immediate -/
  | srai (rd rs1 : Reg) (shamt : BitVec 6)
  /-- ORI (R104): ORs rs1 with an immediate -/
  | ori (rd rs1 : Reg) (imm : BitVec 14)
  /-- ANDI (R104): ANDs rs1 with an immediate -/
  | andi (rd rs1 : Reg) (imm : BitVec 14)
  /-- ADD (R105): Adds two registers -/
  | add (rd rs1 rs2 : Reg)
  /-- SUB (R105): Subtracts two registers -/
  | sub (rd rs1 rs2 : Reg)
  /-- SLL (R105): Shifts left by a register amount -/
  | sll (rd rs1 rs2 : Reg)
  /-- SLT (R105): Signed less-than compare -/
  | slt (rd rs1 rs2 : Reg)
  /-- SLTU (R105): Unsigned less-than compare -/
  | sltu (rd rs1 rs2 : Reg)
  /-- XOR (R105): Bitwise XOR of two registers -/
  | xor (rd rs1 rs2 : Reg)
  /-- SRL (R105): Logical right shift by a register amount -/
  | srl (rd rs1 rs2 : Reg)
  /-- SRA (R105): Arithmetic right shift by a register amount -/
  | sra (rd rs1 rs2 : Reg)
  /-- OR (R105): Bitwise OR of two registers -/
  | or (rd rs1 rs2 : Reg)
  /-- AND (R105): Bitwise AND of two registers -/
  | and (rd rs1 rs2 : Reg)
  /-- MIN (R105): Signed minimum -/
  | min (rd rs1 rs2 : Reg)
  /-- MAX (R105): Signed maximum -/
  | max (rd rs1 rs2 : Reg)
  /-- MINU (R105): Unsigned minimum -/
  | minu (rd rs1 rs2 : Reg)
  /-- MAXU (R105): Unsigned maximum -/
  | maxu (rd rs1 rs2 : Reg)
  /-- MUL (R105): Low 64 bits of the product -/
  | mul (rd rs1 rs2 : Reg)
  /-- MULH (R105): High 64 bits of the signed product -/
  | mulh (rd rs1 rs2 : Reg)
  /-- MULHU (R105): High 64 bits of the unsigned product -/
  | mulhu (rd rs1 rs2 : Reg)
  /-- CLZ (R105): Counts leading zero bits -/
  | clz (rd rs1 : Reg)
  /-- CTZ (R105): Counts trailing zero bits -/
  | ctz (rd rs1 : Reg)
  /-- POPC (R105): Counts one bits -/
  | popc (rd rs1 : Reg)
  /-- BREV (R105): Reverses the bit order -/
  | brev (rd rs1 : Reg)
  /-- SEQ (R105): Sets rd if the registers are equal -/
  | seq (rd rs1 rs2 : Reg)
  /-- SNE (R105): Sets rd if the registers differ -/
  | sne (rd rs1 rs2 : Reg)
  /-- ADDW (R105): 32-bit add, sign-extended -/
  | addw (rd rs1 rs2 : Reg)
  /-- SUBW (R105): 32-bit subtract, sign-extended -/
  | subw (rd rs1 rs2 : Reg)
  /-- LUI (R106): Writes a shifted upper immediate -/
  | lui (rd : Reg) (imm : BitVec 21)
  /-- AUIPC (R106): Adds a shifted upper immediate to PC -/
  | auipc (rd : Reg) (imm : BitVec 21)
  /-- BEQ (R108): Branches if equal -/
  | beq (rs1 rs2 : Reg) (imm : BitVec 14)
  /-- BNE (R108): Branches if not equal -/
  | bne (rs1 rs2 : Reg) (imm : BitVec 14)
  /-- BLT (R108): Branches if signed less -/
  | blt (rs1 rs2 : Reg) (imm : BitVec 14)
  /-- BGE (R108): Branches if signed greater or equal -/
  | bge (rs1 rs2 : Reg) (imm : BitVec 14)
  /-- BLTU (R108): Branches if unsigned less -/
  | bltu (rs1 rs2 : Reg) (imm : BitVec 14)
  /-- BGEU (R108): Branches if unsigned greater or equal -/
  | bgeu (rs1 rs2 : Reg) (imm : BitVec 14)
  /-- JAL (R109): Jumps PC-relative and writes the link -/
  | jal (rd : Reg) (imm : BitVec 21)
  /-- JALR (R109): Jumps to a register plus offset and writes the link -/
  | jalr (rd rs1 : Reg) (imm : BitVec 14)
  /-- DIV (R107): Signed division -/
  | div (rd rs1 rs2 : Reg) (w32 : Bool) (la : BitVec 4)
  /-- DIVU (R107): Unsigned division -/
  | divu (rd rs1 rs2 : Reg) (w32 : Bool) (la : BitVec 4)
  /-- REM (R107): Signed remainder -/
  | rem (rd rs1 rs2 : Reg) (w32 : Bool) (la : BitVec 4)
  /-- REMU (R107): Unsigned remainder -/
  | remu (rd rs1 rs2 : Reg) (w32 : Bool) (la : BitVec 4)
  /-- FADD.S.RNE (R117): Floating-point add -/
  | fadd (rd rs1 rs2 : Reg) (rm : BitVec 3) (fmt : BitVec 2)
  /-- FSUB.S.RNE (R117): Floating-point subtract -/
  | fsub (rd rs1 rs2 : Reg) (rm : BitVec 3) (fmt : BitVec 2)
  /-- FMUL.S.RNE (R117): Floating-point multiply -/
  | fmul (rd rs1 rs2 : Reg) (rm : BitVec 3) (fmt : BitVec 2)
  /-- FMIN.S (R118): Floating-point minimum -/
  | fmin (rd rs1 rs2 : Reg) (fmt : BitVec 2)
  /-- FMAX.S (R118): Floating-point maximum -/
  | fmax (rd rs1 rs2 : Reg) (fmt : BitVec 2)
  /-- FSGNJ.S.J (R119): Sign injection -/
  | fsgnj (rd rs1 rs2 : Reg) (j fmt : BitVec 2)
  /-- FEQ.S (R119): Floating-point equality compare -/
  | feq (rd rs1 rs2 : Reg) (fmt : BitVec 2)
  /-- FLT.S (R119): Floating-point less-than compare -/
  | flt (rd rs1 rs2 : Reg) (fmt : BitVec 2)
  /-- FLE.S (R119): Floating-point less-or-equal compare -/
  | fle (rd rs1 rs2 : Reg) (fmt : BitVec 2)
  /-- FCLASS.S (R119): Writes the class word of x -/
  | fclass (rd rs1 : Reg) (fmt : BitVec 2)
  /-- FCVT.F.I.S.W (R120): Converts an integer to floating point -/
  | fcvtFI (rd rs1 : Reg) (w32 uns : Bool) (rm : BitVec 3) (fmt : BitVec 2)
  /-- FCVT.I.F.S.W (R120): Converts floating point to a saturated integer -/
  | fcvtIF (rd rs1 : Reg) (w32 uns : Bool) (rm : BitVec 3) (fmt : BitVec 2)
  /-- FCVT.F.F.D (R120): Converts between FP32 and FP64 -/
  | fcvtFF (rd rs1 : Reg) (rm : BitVec 3) (fmt : BitVec 2)
  /-- FMAC.S.RNE (R117): Fused multiply-add into rd -/
  | fmac (rd rs1 rs2 : Reg) (rm : BitVec 3) (fmt : BitVec 2)
  /-- FDIV.D.RNE (R121): Floating-point division -/
  | fdiv (rd rs1 rs2 : Reg) (rm : BitVec 3) (dbl : Bool) (la : BitVec 4)
  /-- FSQRT.S.RUP (R121): Floating-point square root -/
  | fsqrt (rd rs1 : Reg) (rm : BitVec 3) (dbl : Bool) (la : BitVec 4)
  /-- AMO.ADD.D (R212): Atomic add -/
  | amoAdd (rd rs1 rs2 : Reg) (ord : BitVec 2) (dbl : Bool) (la : BitVec 4)
  /-- AMO.AND.D (R212): Atomic AND -/
  | amoAnd (rd rs1 rs2 : Reg) (ord : BitVec 2) (dbl : Bool) (la : BitVec 4)
  /-- AMO.OR.D (R212): Atomic OR -/
  | amoOr (rd rs1 rs2 : Reg) (ord : BitVec 2) (dbl : Bool) (la : BitVec 4)
  /-- AMO.XOR.D (R212): Atomic XOR -/
  | amoXor (rd rs1 rs2 : Reg) (ord : BitVec 2) (dbl : Bool) (la : BitVec 4)
  /-- AMO.MIN.D (R212): Atomic signed minimum -/
  | amoMin (rd rs1 rs2 : Reg) (ord : BitVec 2) (dbl : Bool) (la : BitVec 4)
  /-- AMO.MAX.D (R212): Atomic signed maximum -/
  | amoMax (rd rs1 rs2 : Reg) (ord : BitVec 2) (dbl : Bool) (la : BitVec 4)
  /-- AMO.MINU.D (R212): Atomic unsigned minimum -/
  | amoMinu (rd rs1 rs2 : Reg) (ord : BitVec 2) (dbl : Bool) (la : BitVec 4)
  /-- AMO.MAXU.D (R212): Atomic unsigned maximum -/
  | amoMaxu (rd rs1 rs2 : Reg) (ord : BitVec 2) (dbl : Bool) (la : BitVec 4)
  /-- AMO.SWAP.D (R212): Atomic swap -/
  | amoSwap (rd rs1 rs2 : Reg) (ord : BitVec 2) (dbl : Bool) (la : BitVec 4)
  /-- AMO.CAS.D (R212): Atomic compare-and-swap against rd -/
  | amoCas (rd rs1 rs2 : Reg) (ord : BitVec 2) (dbl : Bool) (la : BitVec 4)
  /-- AMO.FADD.W (R212): Atomic FP32 add rounded RNE -/
  | amoFadd (rd rs1 rs2 : Reg) (ord : BitVec 2) (la : BitVec 4)
  /-- FENCE.KIND.SCOPE (R216): Waits for the thread's chunks and applies SWM and link fence effects -/
  | fence (kind : BitVec 2) (scope : BitVec 3)
  /-- FENCE.X (R217): Records a cross-path ordering condition -/
  | fenceX (link : Bool) (later earlier : BitVec 4)
  /-- CHUNK (R218): Ends the current chunk -/
  | chunk
  /-- SEAM (R411): Triggers or joins a seam of the domain and waits until it commits -/
  | seam (rs1 : Reg)
  /-- WATCH (R219): Arms a watch entry on a line -/
  | watch (rd rs1 : Reg)
  /-- SLEEP (R220): Waits for a watch entry to fire or a timeout -/
  | sleep (rd rs1 : Reg)
  /-- UNWATCH (R221): Frees a watch entry -/
  | unwatch (rs1 : Reg)
  /-- HLD (R122): Loads a 32-byte handle -/
  | hld (hd : HReg) (rs1 : Reg) (imm : BitVec 8)
  /-- HST (R122): Stores a 32-byte handle -/
  | hst (hd : HReg) (rs1 : Reg) (imm : BitVec 8)
  /-- HSET.FIELD (R122): Writes one handle field from rs2 -/
  | hset (hd : HReg) (rs2 : Reg) (fld : BitVec 8)
  /-- HGET.FIELD (R122): Reads one handle field into rs2 -/
  | hget (hd : HReg) (rs2 : Reg) (fld : BitVec 8)
  /-- HMOV (R122): Copies a handle register -/
  | hmov (hd hk : HReg)
  /-- HADV (R122): Advances the window origin -/
  | hadv (hd : HReg) (rs1 rs2 : Reg)
  /-- HZERO (R122): Writes a null handle -/
  | hzero (hd : HReg)
  /-- REP (R127): Runs a short body a counted number of passes with register renaming -/
  | rep (rs1 : Reg) (len : BitVec 5) (hstride sstride span : BitVec 3)
  /-- VADD.m (R313): Elementwise add -/
  | vadd (hd ha hb : HReg) (rm : BitVec 3) (la : BitVec 4)
  /-- VSUB.m (R313): Elementwise subtract -/
  | vsub (hd ha hb : HReg) (rm : BitVec 3) (la : BitVec 4)
  /-- VMUL.m (R313): Elementwise multiply -/
  | vmul (hd ha hb : HReg) (rm : BitVec 3) (la : BitVec 4)
  /-- VFMA.m (R313): Elementwise fused multiply-add -/
  | vfma (hd ha hb hc : HReg) (rm : BitVec 3) (la : BitVec 4)
  /-- VMIN.m (R313): Elementwise minimum -/
  | vmin (hd ha hb : HReg) (rm : BitVec 3) (la : BitVec 4)
  /-- VMAX.m (R313): Elementwise maximum -/
  | vmax (hd ha hb : HReg) (rm : BitVec 3) (la : BitVec 4)
  /-- VABS.m (R313): Elementwise absolute value -/
  | vabs (hd ha : HReg) (rm : BitVec 3) (la : BitVec 4)
  /-- VNEG.m (R313): Elementwise negation -/
  | vneg (hd ha : HReg) (rm : BitVec 3) (la : BitVec 4)
  /-- VAND (R314): Bitwise AND of element patterns -/
  | vand (hd ha hb : HReg) (la : BitVec 4)
  /-- VOR (R314): Bitwise OR of element patterns -/
  | vor (hd ha hb : HReg) (la : BitVec 4)
  /-- VXOR (R314): Bitwise XOR of element patterns -/
  | vxor (hd ha hb : HReg) (la : BitVec 4)
  /-- VSHL (R314): Elementwise left shift -/
  | vshl (hd ha hb : HReg) (la : BitVec 4)
  /-- VSHR (R314): Elementwise logical right shift -/
  | vshr (hd ha hb : HReg) (la : BitVec 4)
  /-- VSRA (R314): Elementwise arithmetic right shift -/
  | vsra (hd ha hb : HReg) (la : BitVec 4)
  /-- VSEL (R315): Selects ha or hb patterns by hc -/
  | vsel (hd ha hb hc : HReg) (la : BitVec 4)
  /-- VCMPEQ (R315): Elementwise equality compare -/
  | vcmpeq (hd ha hb : HReg) (la : BitVec 4)
  /-- VCMPLT (R315): Elementwise less-than compare -/
  | vcmplt (hd ha hb : HReg) (la : BitVec 4)
  /-- VCMPLE (R315): Elementwise less-or-equal compare -/
  | vcmple (hd ha hb : HReg) (la : BitVec 4)
  /-- VSET.m (R316): Fills hd with one rounded value -/
  | vset (hd ha : HReg) (rm : BitVec 3) (la : BitVec 4)
  /-- VCOPY (R316): Copies element patterns and MX scales -/
  | vcopy (hd ha : HReg) (la : BitVec 4)
  /-- VRCP.m (R317): Elementwise reciprocal -/
  | vrcp (hd ha : HReg) (rm : BitVec 3) (la : BitVec 4)
  /-- VRSQ.m (R317): Elementwise reciprocal square root -/
  | vrsq (hd ha : HReg) (rm : BitVec 3) (la : BitVec 4)
  /-- VSQRT.m (R317): Elementwise square root -/
  | vsqrt (hd ha : HReg) (rm : BitVec 3) (la : BitVec 4)
  /-- VDIV.m (R317): Elementwise division -/
  | vdiv (hd ha hb : HReg) (rm : BitVec 3) (la : BitVec 4)
  /-- VEXP2.m (R317): Elementwise 2^x -/
  | vexp2 (hd ha : HReg) (rm : BitVec 3) (la : BitVec 4)
  /-- VLOG2.m (R317): Elementwise log2 -/
  | vlog2 (hd ha : HReg) (rm : BitVec 3) (la : BitVec 4)
  /-- VTANH.m (R317): Elementwise tanh -/
  | vtanh (hd ha : HReg) (rm : BitVec 3) (la : BitVec 4)
  /-- VSIGM.m (R317): Elementwise sigmoid -/
  | vsigm (hd ha : HReg) (rm : BitVec 3) (la : BitVec 4)
  /-- VSINPI.m (R317): Elementwise sin(pi x) -/
  | vsinpi (hd ha : HReg) (rm : BitVec 3) (la : BitVec 4)
  /-- VCOSPI.m (R317): Elementwise cos(pi x) -/
  | vcospi (hd ha : HReg) (rm : BitVec 3) (la : BitVec 4)
  /-- VCVT.m (R318): Converts elements between formats -/
  | vcvt (hd ha : HReg) (rm : BitVec 3) (la : BitVec 4)
  /-- VQSPLIT.m (R319): Splits a tile into a narrow residue and a BF16 outlier tile -/
  | vqsplit (hd ha hb hc : HReg) (rm : BitVec 3)
  /-- VSCALE.m (R320): Multiplies elements by a power of two -/
  | vscale (hd ha hb : HReg) (rm : BitVec 3) (la : BitVec 4)
  /-- VIOTA.m (R320): Writes an arithmetic sequence -/
  | viota (hd ha hb : HReg) (rm : BitVec 3) (la : BitVec 4)
  /-- VRED.ROW.ADD.m (R322): Tree sum of each row -/
  | vredRowAdd (hd ha : HReg) (rm : BitVec 2) (la : BitVec 4)
  /-- VRED.ROW.MAX (R322): Tree maximum of each row -/
  | vredRowMax (hd ha : HReg) (la : BitVec 4)
  /-- VRED.ROW.MIN (R322): Tree minimum of each row -/
  | vredRowMin (hd ha : HReg) (la : BitVec 4)
  /-- VRED.COL.ADD.m (R322): Tree sum of each column -/
  | vredColAdd (hd ha : HReg) (rm : BitVec 2) (la : BitVec 4)
  /-- VRED.COL.MAX (R322): Tree maximum of each column -/
  | vredColMax (hd ha : HReg) (la : BitVec 4)
  /-- VRED.COL.MIN (R322): Tree minimum of each column -/
  | vredColMin (hd ha : HReg) (la : BitVec 4)
  /-- VSCAN.ROW.ADD.EXCL.m (R323): Brent-Kung add scan along each row -/
  | vscanRowAdd (hd ha : HReg) (rm : BitVec 2) (excl : Bool) (la : BitVec 4)
  /-- VSCAN.ROW.AFF.EXCL.m (R323): Affine scan along each row, A components to hc -/
  | vscanRowAff (hd ha hb hc : HReg) (rm : BitVec 2) (excl : Bool)
  /-- VSCAN.COL.ADD.EXCL.m (R323): Add scan along each column -/
  | vscanColAdd (hd ha : HReg) (rm : BitVec 2) (excl : Bool) (la : BitVec 4)
  /-- VSCAN.COL.AFF.EXCL.m (R323): Affine scan along each column -/
  | vscanColAff (hd ha hb hc : HReg) (rm : BitVec 2) (excl : Bool)
  /-- VSCAN.ROW.MAX.EXCL (R323): Maximum scan along each row -/
  | vscanRowMax (hd ha : HReg) (excl : Bool) (la : BitVec 4)
  /-- VGATHER (R324): Reads ha elements by index -/
  | vgather (hd ha hb : HReg) (la : BitVec 4)
  /-- VSCATTER (R324): Writes ha elements into hd by index -/
  | vscatter (hd ha hb : HReg) (la : BitVec 4)
  /-- VTRN (R325): Transposes a window -/
  | vtrn (hd ha : HReg) (la : BitVec 4)
  /-- VBCAST.ROW (R325): Broadcasts one row down the window -/
  | vbcastRow (hd ha : HReg) (la : BitVec 4)
  /-- VBCAST.COL (R325): Broadcasts one column across the window -/
  | vbcastCol (hd ha : HReg) (la : BitVec 4)
  /-- VPACK (R326): Writes elements at a stride -/
  | vpack (hd ha hb : HReg) (la : BitVec 4)
  /-- VUNPACK (R326): Reads elements at a stride -/
  | vunpack (hd ha hb : HReg) (la : BitVec 4)
  /-- MCTX.m (R340): Sets the requester's matrix format context at acceptance -/
  | mctx (ha hb : HReg) (rm : BitVec 3)
  /-- MBLD (R341): Queues a B-slot load from a canonical tile -/
  | mbld (hd ha : HReg) (la : BitVec 4)
  /-- MMUL.FIRST.LAST (R342): Queues a block multiply-accumulate into a slot -/
  | mmul (hd ha hb hc : HReg) (last first : Bool) (la : BitVec 4)
  /-- MDRAIN.RELEASE (R342): Queues a drain of a READY slot -/
  | mdrain (hd ha : HReg) (rel : Bool) (la : BitVec 4)
  /-- MZERO (R341): Queues taking and emptying an accumulation slot -/
  | mzero (hd : HReg) (la : BitVec 4)
  /-- MWAIT (R343): Waits for the core's matrix commands and folds matrix flags -/
  | mwait
  /-- MREM.k (R346): Issues a capability-checked command to another cluster's matrix unit -/
  | mrem (hd ha hb hc : HReg) (kind : BitVec 3)
  /-- GSCAN.ADD.EXCL.RNE (R280): Add scan across the group's ranks -/
  | gscanAdd (hd ha : HReg) (rm : BitVec 2) (excl : Bool) (la : BitVec 4)
  /-- GSCAN.AFF.EXCL.RNE (R280): Affine scan across ranks -/
  | gscanAff (hd ha hb : HReg) (rm : BitVec 2) (excl : Bool) (la : BitVec 4)
  /-- GSCAN.MAX.EXCL (R280): Maximum scan across ranks -/
  | gscanMax (hd ha : HReg) (excl : Bool) (la : BitVec 4)
  /-- GRED.ADD.RNE (R280): Tree sum across ranks -/
  | gredAdd (hd ha : HReg) (rm : BitVec 2) (la : BitVec 4)
  /-- GRED.MAX (R280): Tree maximum across ranks -/
  | gredMax (hd ha : HReg) (la : BitVec 4)
  /-- GBCAST (R280): Broadcasts the root rank's tile -/
  | gbcast (hd ha hb : HReg) (la : BitVec 4)
  /-- GSYNC (R282): Group barrier moving no data -/
  | gsync
  /-- XSET.FIELD (R361): Sets one copy shadow field -/
  | xset (rs1 : Reg) (fld la : BitVec 4)
  /-- XGO (R362): Launches a transfer from the shadow fields -/
  | xgo (rd : Reg) (la : BitVec 4)
  /-- XWAIT (R363): Waits for a transfer's retirement or landing bits -/
  | xwait (rd rs1 rs2 : Reg) (word : BitVec 3) (la : BitVec 4)
  /-- XTEST (R364): Reads a transfer's status -/
  | xtest (rd rs1 : Reg) (la : BitVec 4)
  /-- XCANCEL (R365): Cancels a transfer and waits for it to retire -/
  | xcancel (rd rs1 : Reg) (la : BitVec 4)
  /-- XSTAT.SEL (R364): Reads a transfer detail chosen by selector -/
  | xstat (rd rs1 : Reg) (sel : BitVec 3) (la : BitVec 4)
  /-- BINIT (R373): Initialises a barrier object -/
  | binit (rd rs1 rs2 : Reg) (la : BitVec 4)
  /-- BARRIVE (R373): Arrives at a barrier with a count -/
  | barrive (rd rs1 rs2 : Reg) (la : BitVec 4)
  /-- BEXPECT (R373): Adds expected bytes to a barrier phase -/
  | bexpect (rd rs1 rs2 : Reg) (la : BitVec 4)
  /-- BWAIT (R374): Waits for a barrier phase -/
  | bwait (rd rs1 rs2 : Reg) (la : BitVec 4)
  /-- BTRY (R374): Tests a barrier phase without waiting -/
  | btry (rd rs1 rs2 : Reg) (la : BitVec 4)
  /-- BARRIVE.EXP (R373): Arrives and expects bytes in one update -/
  | barriveExp (rd rs1 rs2 : Reg) (la : BitVec 4)
  /-- SEND (R190): Sends a message to one core or the launch endpoint -/
  | send (rd rs1 rs2 : Reg) (la : BitVec 4)
  /-- SENDM (R190): Sends a message to each core of the multicast mask -/
  | sendm (rd rs1 rs2 : Reg) (la : BitVec 4)
  /-- SPAWN (R190): Sends a task to a drawn held core -/
  | spawn (rd rs1 rs2 : Reg) (la : BitVec 4)
  /-- DONE (R191): Retires the context -/
  | done
  /-- QSTAT.SEL (R193): Reads a queue statistic chosen by selector -/
  | qstat (rd : Reg) (sel : BitVec 3) (la : BitVec 4)
  /-- CARRY (R422): Sends TCM bytes to a carry slot on a peer module -/
  | carry (rd rs1 rs2 : Reg) (la : BitVec 4)
  /-- CARRYW (R423): Waits for a carry slot and copies it to TCM -/
  | carryw (rd rs1 rs2 : Reg) (la : BitVec 4)
  /-- YIELD (R192): Gives up the issuing slot -/
  | yield (rd : Reg)
  /-- RESEED.q (R263): Sets the kernel or owner seed and relocates or flushes caches -/
  | reseed (rd rs1 rs2 : Reg) (ownerForm remap : Bool) (la : BitVec 4)
  /-- DRAW (R264): Returns a PROG-class draw -/
  | draw (rd rs1 : Reg) (la : BitVec 4)
  /-- EXQ.q (R265): Returns an exceedance figure -/
  | exq (rd rs1 : Reg) (align cur : Bool) (la : BitVec 4)
  /-- EXCURVE.q (R265): Writes 32 exceedance figures to memory -/
  | excurve (rd rs1 rs2 : Reg) (align cur : Bool) (la : BitVec 4)
  /-- PLQ.q (R266): Returns a placement of an address -/
  | plq (rd rs1 : Reg) (sel : BitVec 3) (la : BitVec 4)
  /-- XLPIN.DATA (R392): Locks a region's translations and optionally pins its lines -/
  | xlpin (rd rs1 rs2 : Reg) (pinData : Bool) (la : BitVec 4)
  /-- XLUNPIN (R392): Unlocks a locked region -/
  | xlunpin (rd rs1 : Reg) (la : BitVec 4)
  /-- PCLASS.q (R393): Queries or sets a page's class -/
  | pclass (rd rs1 : Reg) (sel : BitVec 3) (la : BitVec 4)
  /-- RANGEQ (R241): Reports the range governing an address -/
  | rangeq (rd rs1 : Reg) (la : BitVec 4)
  /-- REGSW (R242): Switches a range between coherent and SWM slots -/
  | regsw (rd rs1 rs2 : Reg) (la : BitVec 4)
  /-- PLOAD (R243): Checks and loads a protocol table into a slot -/
  | pload (rd rs1 rs2 : Reg) (la : BitVec 4)
  /-- REPLAY (R394): Releases the contexts and transfers waiting on a fault batch -/
  | replay (rd rs1 rs2 : Reg) (la : BitVec 4)
  /-- MIGRATE (R394): Moves a page to a new frame and home -/
  | migrate (rd rs1 rs2 : Reg) (la : BitVec 4)
  /-- SHOOT.FLUSH (R395): Shoots down translations of a range, optionally flushing it -/
  | shoot (rd rs1 rs2 : Reg) (doFlush : Bool) (la : BitVec 4)
  /-- COMPOSE.n (R295): Binds neighbour cores into a cloak -/
  | compose (rd : Reg) (n : BitVec 2)
  /-- RELEASE (R296): Releases the cloak -/
  | release (rd : Reg)
  /-- CSTAT (R297): Reads the cloak state -/
  | cstat (rd : Reg) (la : BitVec 4)
  /-- CRR (R151): Reads a control register -/
  | crr (rd : Reg) (cr : BitVec 9)
  /-- CRW (R151): Writes a control register and returns the old value -/
  | crw (rd rs1 : Reg) (cr : BitVec 9)
  /-- CRS (R151): Sets control-register bits -/
  | crs (rd rs1 : Reg) (cr : BitVec 9)
  /-- CRC (R151): Clears control-register bits -/
  | crc (rd rs1 : Reg) (cr : BitVec 9)
  /-- TRAP (R152): Raises SYSCALL and parks the context for lysa -/
  | trap (rs1 : Reg)
  /-- ERET (R153): Returns from a trap handler -/
  | eret
  /-- BRK (R152): Raises BREAK with a code -/
  | brk (code : BitVec 9)
  /-- NOP (R154): Does nothing -/
  | nop
  /-- SYNCI (R154): Invalidates the core's instruction cache over a range -/
  | synci (rs1 rs2 : Reg)
  /-- CARVE (R155): Requests a new context-store carve-out -/
  | carve (rd rs1 : Reg)
  /-- CAPMINT (R346): Computes a matrix capability tag -/
  | capmint (rd rs1 : Reg)
  /-- WFI (R156): Waits for a message, a watch fire or a timeout -/
  | wfi (rd : Reg)
  /-- C.LW (R42): 16-bit form of LW -/
  | cLw (rd rs1 : Reg) (n : BitVec 3)
  /-- C.LD (R42): 16-bit form of LD -/
  | cLd (rd rs1 : Reg) (n : BitVec 3)
  /-- C.SW (R42): 16-bit form of SW -/
  | cSw (rs1 rs2 : Reg) (n : BitVec 3)
  /-- C.SD (R42): 16-bit form of SD -/
  | cSd (rs1 rs2 : Reg) (n : BitVec 3)
  /-- C.BEQZ (R42): 16-bit form of BEQ against s0 -/
  | cBeqz (rs1 : Reg) (imm : BitVec 7)
  /-- C.BNEZ (R42): 16-bit form of BNE against s0 -/
  | cBnez (rs1 : Reg) (imm : BitVec 7)
  /-- C.J (R42): 16-bit unconditional jump -/
  | cJ (imm : BitVec 11)
  /-- C.JR (R42): 16-bit form of JALR rs1, rs1, 0 -/
  | cJr (rs1 : Reg)
  /-- C.MV (R42): 16-bit register move -/
  | cMv (rd rs1 : Reg)
  /-- C.ADD (R42): 16-bit ADD rd, rd, rs -/
  | cAdd (rd rs1 : Reg)
  /-- C.SUB (R42): 16-bit SUB rd, rd, rs -/
  | cSub (rd rs1 : Reg)
  /-- C.AND (R42): 16-bit AND rd, rd, rs -/
  | cAnd (rd rs1 : Reg)
  /-- C.OR (R42): 16-bit OR rd, rd, rs -/
  | cOr (rd rs1 : Reg)
  /-- C.XOR (R42): 16-bit XOR rd, rd, rs -/
  | cXor (rd rs1 : Reg)
  /-- C.ADDI (R42): 16-bit add immediate -/
  | cAddi (rd : Reg) (imm : BitVec 7)
  /-- C.LI (R42): 16-bit load immediate via s0 -/
  | cLi (rd : Reg) (imm : BitVec 7)
  /-- C.SLLI (R42): 16-bit left shift immediate -/
  | cSlli (rd : Reg) (shamt : BitVec 6)
  /-- C.SRLI (R42): 16-bit logical right shift immediate -/
  | cSrli (rd : Reg) (shamt : BitVec 6)
  /-- C.SRAI (R42): 16-bit arithmetic right shift immediate -/
  | cSrai (rd : Reg) (shamt : BitVec 6)
  /-- C.NOP (R42): 16-bit NOP -/
  | cNop
  /-- C.DONE (R42): 16-bit DONE -/
  | cDone
  /-- RESERVED_ENCODING (R28): Executing an encoding that is not an instruction raises ILLEGAL with its bits in CR_TVAL -/
  | reservedEncoding (bits : BitVec 32) (short : Bool)
  /-- FETCH_FROM_ADDRESS_ZERO (R134): A user-level fetch from virtual address 0 performs DONE instead of faulting -/
  | fetchFromAddressZero
  /-- INSTRUCTION_FETCH_FAULT (R386): A fetch that faults (PAGEFAULT, or PROTECT in the window region) traps at the target and, for PAGEFAULT, forms a one-record batch of KIND 2 -/
  | instructionFetchFault (cause va : Nat)
  /-- SLOT_SELECTION (R132): A READY context is chosen by arbitration draws into a free issuing slot and becomes RUNNING -/
  | slotSelection (core slot : Nat)
  /-- CHUNK_COMMIT (R197): A chunk takes its commit grants, makes its writes visible at once and squashes conflicting chunks -/
  | chunkCommit (core slot : Nat)
  /-- FAULT_BATCH_WRITE (R387): A fault batch is written to the owner's fault log once it has room -/
  | faultBatchWrite (owner batch : Nat)
  /-- FAULT_BATCH_SERVICE (R387): Lysa serves a written batch or forwards it to the host driver -/
  | faultBatchService (owner batch : Nat)
  /-- SYSCALL_SERVICE (R152): Lysa serves a TRAP code, writes s4 and resumes the context -/
  | syscallService (core slot : Nat)
  /-- LOG_FULL (R398): The undo log reaching LOGFULL triggers a seam -/
  | logFull (domain : Nat)
  /-- MESSAGE_ARRIVAL (R177): An arriving message is refused, NACKed or enqueued at the receiving core -/
  | messageArrival (src dst : Nat)
  /-- MESSAGE_RESEND (R178): The back-off of a replay-window entry expires and the copy is resent -/
  | messageResend (core entry : Nat)
  /-- MESSAGE_DISPATCH (R179): A queued entry gets a context and payload block and starts its handler -/
  | messageDispatch (core : Nat)
  /-- LAUNCH (R168): A launch request reads the RCB chain and queues a numbered kernel -/
  | launch (r : Request)
  /-- ABORT (R168): An abort request stops a kernel and ends it ABORTED -/
  | abort (r : Request)
  /-- PREEMPT (R168): A pre-empt request with RESUME clear pre-empts a running kernel -/
  | preempt (r : Request)
  /-- PREEMPT_RESUME (R168): A pre-empt request with RESUME set resumes a PREEMPTED or FAULTED kernel -/
  | preemptResume (r : Request)
  /-- QUERY (R168): A query request is answered with the kernel's state -/
  | query (r : Request)
  /-- BADOP_REQUEST (R167): A request with an unassigned OP is answered BADOP -/
  | badopRequest (r : Request) (admin : Bool)
  /-- MAP (R247): Writes valid leaves and assigns frames over a range -/
  | map (r : Request)
  /-- UNMAP (R247): Clears leaves, shoots down and frees frames over a range -/
  | unmap (r : Request)
  /-- POPULATE (R247): Gives frames to mapped leaves with P clear -/
  | populate (r : Request)
  /-- WINDOW (R247): Registers, replaces or removes an RDMA window -/
  | window (r : Request)
  /-- RANGES (R247): Applies .ranges entries as range-table entries -/
  | ranges (r : Request)
  /-- FAULTANS (R247): The host driver's answer makes lysa issue REPLAY for a batch -/
  | faultans (r : Request)
  /-- OWNER_CREATE (R246): Creates an owner from a 192-byte record -/
  | ownerCreate (r : Request) (ownerRecord : List (BitVec 8))
  /-- OWNER_RETIRE (R246): Retires an owner and returns its partition -/
  | ownerRetire (r : Request)
  /-- PARTITION_READY (R245): A created owner's partition finishes zeroing and the owner becomes ACTIVE -/
  | partitionReady (owner : Nat)
  /-- SEAMJOIN (R407): Joins a seam domain with one on a peer module -/
  | seamjoin (r : Request)
  /-- ATTESTATION_REQUEST (R426): Answers a nonce with a signed report of image and table digests -/
  | attestationRequest (r : Request)
  /-- RDMA_WRITE (R419): An RDMA write packet is checked against windows and rights and performed -/
  | rdmaWrite (packet : RdmaPacket) (va : Nat) (bytes : List (BitVec 8))
  /-- RDMA_READ (R419): An RDMA read packet is checked and served -/
  | rdmaRead (packet : RdmaPacket) (va n : Nat)
  /-- KERNEL_PLACEMENT (R165): A queued kernel whose cores are available latches its seed, is placed and has its threads started -/
  | kernelPlacement (owner knum : Nat)
  /-- PRIORITY_PREEMPTION (R162): Lysa pre-empts lower-priority kernels of the owner to place a queued kernel -/
  | priorityPreemption (owner knum : Nat)
  /-- GANG_PREEMPTION (R149): Lysa stops a group, squashes chunks, drains copies and parks or spills its contexts -/
  | gangPreemption (owner knum : Nat)
  /-- KERNEL_RESUME (R168): A priority-pre-empted kernel resumes on its own core ids once they are free -/
  | kernelResume (owner knum : Nat)
  /-- TRANSFER_START (R348): The copy engine starts a LAUNCHED transfer -/
  | transferStart (core tid : Nat)
  /-- TRANSFER_CHUNK_LANDING (R354): A destination chunk is performed and its bit, LANDED and barrier count are updated -/
  | transferChunkLanding (core tid chunk : Nat)
  /-- TRANSFER_CANCELLATION (R359): A cancellation reaching the engine stops the transfer as CANCELLED -/
  | transferCancellation (core tid : Nat)
  /-- MZERO_EXECUTE (R341): The matrix unit empties and takes an accumulation slot -/
  | mzeroExecute (unit core : Nat)
  /-- MBLD_EXECUTE (R341): The matrix unit loads a B slot -/
  | mbldExecute (unit core : Nat)
  /-- MMUL_EXECUTE (R342): The matrix unit pushes block sums and folds on LAST -/
  | mmulExecute (unit core : Nat)
  /-- MDRAIN_EXECUTE (R342): The matrix unit rounds the slot roots into the destination -/
  | mdrainExecute (unit core : Nat)
  /-- REMOTE_MATRIX_COMMAND (R346): A target unit checks a capability and accepts or refuses a remote command -/
  | remoteMatrixCommand (unit core : Nat)
  /-- COLLECTIVE_COMPLETE (R275): The last rank's arrival completes a collective instance at every rank -/
  | collectiveComplete (owner knum group : Nat)
  /-- COLLECTIVE_TIMEOUT (R277): CR_BTMO expires and a rank withdraws with TIMEOUT -/
  | collectiveTimeout (core slot : Nat)
  /-- BWAIT_TIMEOUT (R374): CR_BTMO expires for a waiting BWAIT -/
  | bwaitTimeout (core slot : Nat)
  /-- SLEEP_TIMEOUT (R220): A SLEEP's timeout expires -/
  | sleepTimeout (core slot : Nat)
  /-- WFI_TIMEOUT (R156): CR_WAITTMO expires for a WFI -/
  | wfiTimeout (core slot : Nat)
  /-- XWAIT_TIMEOUT (R363): CR_XTMO expires for an XWAIT -/
  | xwaitTimeout (core slot : Nat)
  /-- CARRYW_TIMEOUT (R423): CR_WAITTMO expires for a CARRYW -/
  | carrywTimeout (core slot : Nat)
  /-- LEASE_EXPIRY (R237): A leased read copy expires and its L1D drops it -/
  | leaseExpiry (core line : Nat)
  /-- REMOTE_PACKED_STORE (R205): The owning core performs a packed-element store carried to its TCM or scratchpad -/
  | remotePackedStore (core : Nat)
  /-- ARBITRATION_ROUND (R253): A free shared arbiter forms a round and serves it by ticket -/
  | arbitrationRound (cls arbiter : Nat)
  /-- GETS (R234): Home handles a read-copy request by its action word -/
  | gets (core line : Nat)
  /-- GETM (R234): Home handles an ownership-and-data request -/
  | getm (core line : Nat)
  /-- UPGRADE (R234): Home handles an ownership request without data -/
  | upgrade (core line : Nat)
  /-- PUTS (R234): Home handles a dropped clean copy -/
  | puts (core line : Nat)
  /-- PUTM (R234): Home handles a dirty write-back -/
  | putm (core line : Nat)
  /-- ATOMIC (R234): Home handles an atomic arriving there -/
  | atomic (core line : Nat)
  /-- WRITE (R238): Home handles a committed write without an owned copy -/
  | write (core line : Nat)
  /-- DIR_EVICT (R234): Home recalls a line whose directory entry is evicted -/
  | dirEvict (line : Nat)
  /-- RECALL (R234): Home recalls a line from every die -/
  | recallLine (line : Nat)
  /-- FLUSH (R234): Home flushes a line for a page or range flush -/
  | flush (line : Nat)
  /-- RECLASSIFY (R384): A conflicting access to a classified page flushes it and makes it SHARED -/
  | reclassify (access : PageAccess)
  /-- FWDTAG_CONSUME (R229): The consumer's read becomes final and the tagged line is dropped unwritten -/
  | fwdtagConsume (core line : Nat)
  /-- INV (R234): A die invalidates its copies on an INV message -/
  | inv (die line : Nat)
  /-- FWD_S (R270): The owner die sends data to the requester and keeps a copy -/
  | fwdS (die line : Nat)
  /-- FWD_M (R270): The owner die sends data and gives up its copy -/
  | fwdM (die line : Nat)
  /-- UPDATE (R238): A sharer applies committed write data -/
  | update (die line : Nat)
  /-- DIE_RECALL (R234): A die writes back and drops a recalled line -/
  | dieRecall (die line : Nat)
  /-- ACK (R234): A protocol acknowledgement reaches home or requester -/
  | ack (die line : Nat)
  /-- DATA (R234): Line data reach the requesting die with the granted class -/
  | data (die line : Nat)
  /-- SEAM_INTERVAL_EXPIRY (R398): INTERVAL ticks pass and a seam is triggered -/
  | seamIntervalExpiry (domain : Nat)
  /-- SEAM_COMMIT (R399): A seam brings engines to a seam point, writes the checkpoint and releases held outputs -/
  | seamCommit (part : SeamPart)
  /-- UNCORRECTABLE_ERROR (R401): An uncorrectable error is handled by what it destroyed -/
  | uncorrectableError (what : Destroyed)
  /-- ROLLBACK (R402): The domain is restored to its last committed seam -/
  | rollback (domain : Nat)
  /-- DIRECTORY_ENTRY_ERROR (R405): A directory entry error poisons and rebuilds the entry by recall -/
  | directoryEntryError (line : Nat) (recallError : Bool)
  /-- PATROL_SCRUB (R226): The scrubber reads a line and writes back corrected data -/
  | patrolScrub (loc : Nat)
  /-- REFRESH_MANAGEMENT (R226): A bank's activate counter reaches threshold and a refresh-management command is issued -/
  | refreshManagement (stack bank : Nat)
  /-- CORE_SPARING (R408): The cluster's spare core takes a failed core's id -/
  | coreSparing (core : Nat)
  /-- SLICE_SPARING (R408): A spare L2 slice takes a failed slice's number -/
  | sliceSparing (die slice : Nat)
  /-- PSEUDO_CHANNEL_SPARING (R408): A failed pseudo-channel's frames are migrated away -/
  | pseudoChannelSparing (pc : Nat)
  /-- LYSA_UPDATE (R409): A new lysa image is checked and started from a handoff record -/
  | lysaUpdate (image : List (BitVec 8)) (version : Nat)
  /-- PARTNER_DETECTED (R412): A DOWN port detects a partner and starts TRAINING -/
  | partnerDetected (port : Nat)
  /-- LINK_TRAINED (R412): Training ends with two lanes (UP) or one (DEGRADED) -/
  | linkTrained (port lanes : Nat)
  /-- LINK_FAULT (R413): A fault moves a port to RETRAINING, binding a spare if the physical port failed -/
  | linkFault (port : Nat) (physical : Bool)
  /-- RTLIMIT_EXPIRY (R412): RTLIMIT ticks pass without a trained lane -/
  | rtlimitExpiry (port : Nat)
  /-- LINK_REPAIR (R412): Lysa repairs a FAILED port and it trains again -/
  | linkRepair (port : Nat)
  /-- UE_PORT_FAULT (R412): An Ultra Ethernet port fault moves it to DOWN -/
  | uePortFault (port : Nat)
  /-- DATA_FLIT (R416): A received data flit is CRC-checked and passed on once in SEQ order -/
  | dataFlit (port : Nat) (flit : List (BitVec 8))
  /-- ACK_FLIT (R415): An ACK frees acknowledged flits from the replay buffer -/
  | ackFlit (port : Nat) (flit : List (BitVec 8))
  /-- NAK_FLIT (R415): A NAK makes the sender resend every kept flit after ASEQ -/
  | nakFlit (port : Nat) (flit : List (BitVec 8))
  /-- TRAINING_FLIT (R417): A training flit reports the peer id and port, checked against the platform configuration -/
  | trainingFlit (port : Nat) (flit : List (BitVec 8))
  /-- FLIT_RESEND_LIMIT (R415): A flit resent 8 times without ACK sends the port to RETRAINING -/
  | flitResendLimit (port : Nat)
  /-- CARRY_ARRIVAL (R420): A carry is refused, placed, queued or answered busy at its destination -/
  | carryArrival (packet : CarryPacket)
  /-- CARRY_RESEND (R420): A busy-answered carry is resent after back-off -/
  | carryResend (core entry : Nat)
  /-- CARRY_ACKNOWLEDGEMENT (R420): A carry or link write is acknowledged to its writer -/
  | carryAcknowledgement (core entry : Nat) (reply : CarryReply)
  /-- POWER_ON (R433): Bring-up runs from rails to lysa and port training -/
  | powerOn
  /-- RAIL_FAULT (R429): A rail leaving regulation holds or puts the module in reset -/
  | railFault (rail : Nat)
  /-- POWER_LIMIT (R430): The 10 ms average reaches 2,000 W and the core clock steps down -/
  | powerLimit
  /-- POWER_RECOVERY (R430): The average falls below 1,900 W and the clock steps up -/
  | powerRecovery
  /-- THERMAL_THROTTLE (R432): A die passes 95 °C and the clock steps down -/
  | thermalThrottle (temp : Nat)
  /-- THERMAL_RECOVERY (R432): The hottest die falls below 92 °C and the clock steps up -/
  | thermalRecovery (temp : Nat)
  /-- THERMAL_TRIP (R432): A die passes 105 °C and every rail but VAUX is turned off -/
  | thermalTrip (temp : Nat)
  /-- WATCHDOG_EXPIRY (R434): A die's watchdog count reaches PERIOD and the module restarts bring-up -/
  | watchdogExpiry (die : Nat)
  /-- WDOG_KICK (R434): Writing KICK restarts the die's watchdog count -/
  | wdogKick (core value : Nat)
  /-- PLB_FLUSH (R378): Writing FLUSH drops every entry of the core's PLB -/
  | plbFlush (core : Nat)
  /-- BM_RESET (R435): Writing RESET over I3C starts bring-up from step 1 -/
  | bmReset
  /-- BYPASS (R436): IEEE 1149.1 BYPASS instruction -/
  | bypass
  /-- IDCODE (R436): IEEE 1149.1 IDCODE instruction returning 0x1A51_2D3F -/
  | idcode
  /-- SAMPLE_PRELOAD (R436): IEEE 1149.1 SAMPLE/PRELOAD of boundary cells -/
  | samplePreload (cells : List Bool)
  /-- EXTEST (R436): IEEE 1149.1 EXTEST of boundary cells -/
  | extest (cells : List Bool)
  /-- PARTNER_LOST (R412): A port in TRAINING that loses its partner returns to DOWN -/
  | partnerLost (port : Nat)
  /-- IDLE_FLIT (R415): A received idle flit returns its CREDIT to the sender -/
  | idleFlit (port : Nat) (flit : List (BitVec 8))
  deriving DecidableEq, Repr

end Sys2Proof
end

