-- ==== Sys2Proof/WellFormed.lean ====
section
/-!
DEFINITION. Sys2Proof/WellFormed.lean: which terms of Instr are instructions or events of the part.
An encoded instruction is well formed when no field holds a code that 02 R31 to R41 call reserved; an event is well
formed when what it names exists on the module (01 R9: 512 cores, 4 dies, 64 clusters).
-/

namespace Sys2Proof

/-- The rounding-mode codes an FP instruction may carry: 5 and 6 are reserved (02 R34). -/
abbrev rmFpOk (rm : BitVec 3) : Prop := rm.toNat ≠ 5 ∧ rm.toNat ≠ 6

/-- No field of the instruction holds a reserved code, and every named object exists; a Bool, so that the decoder and a test can run it. -/
def Instr.wellFormed : Instr → Bool
  | .lb _ _ _ _ _ => true
  | .lh _ _ _ _ _ => true
  | .lw _ _ _ _ _ => true
  | .ld _ _ _ _ _ => true
  | .lbu _ _ _ _ _ => true
  | .lhu _ _ _ _ _ => true
  | .lwu _ _ _ _ _ => true
  | .sb _ _ _ => true
  | .sh _ _ _ => true
  | .sw _ _ _ => true
  | .sd _ _ _ => true
  | .swRel _ _ _ => true
  | .sdRel _ _ _ => true
  | .sdFwd _ _ _ => true
  | .addi _ _ _ => true
  | .slli _ _ _ => true
  | .slti _ _ _ => true
  | .sltiu _ _ _ => true
  | .xori _ _ _ => true
  | .srli _ _ _ => true
  | .srai _ _ _ => true
  | .ori _ _ _ => true
  | .andi _ _ _ => true
  | .add _ _ _ => true
  | .sub _ _ _ => true
  | .sll _ _ _ => true
  | .slt _ _ _ => true
  | .sltu _ _ _ => true
  | .xor _ _ _ => true
  | .srl _ _ _ => true
  | .sra _ _ _ => true
  | .or _ _ _ => true
  | .and _ _ _ => true
  | .min _ _ _ => true
  | .max _ _ _ => true
  | .minu _ _ _ => true
  | .maxu _ _ _ => true
  | .mul _ _ _ => true
  | .mulh _ _ _ => true
  | .mulhu _ _ _ => true
  | .clz _ _ => true
  | .ctz _ _ => true
  | .popc _ _ => true
  | .brev _ _ => true
  | .seq _ _ _ => true
  | .sne _ _ _ => true
  | .addw _ _ _ => true
  | .subw _ _ _ => true
  | .lui _ _ => true
  | .auipc _ _ => true
  | .beq _ _ _ => true
  | .bne _ _ _ => true
  | .blt _ _ _ => true
  | .bge _ _ _ => true
  | .bltu _ _ _ => true
  | .bgeu _ _ _ => true
  | .jal _ _ => true
  | .jalr _ _ _ => true
  | .div _ _ _ _ _ => true
  | .divu _ _ _ _ _ => true
  | .rem _ _ _ _ _ => true
  | .remu _ _ _ _ _ => true
  | .fadd _ _ _ rm fmt => decide (rmFpOk rm ∧ fmt.toNat ≤ 1)
  | .fsub _ _ _ rm fmt => decide (rmFpOk rm ∧ fmt.toNat ≤ 1)
  | .fmul _ _ _ rm fmt => decide (rmFpOk rm ∧ fmt.toNat ≤ 1)
  | .fmin _ _ _ fmt => decide (fmt.toNat ≤ 1)
  | .fmax _ _ _ fmt => decide (fmt.toNat ≤ 1)
  | .fsgnj _ _ _ j fmt => decide (fmt.toNat ≤ 1 ∧ j.toNat ≤ 2)
  | .feq _ _ _ fmt => decide (fmt.toNat ≤ 1)
  | .flt _ _ _ fmt => decide (fmt.toNat ≤ 1)
  | .fle _ _ _ fmt => decide (fmt.toNat ≤ 1)
  | .fclass _ _ fmt => decide (fmt.toNat ≤ 1)
  | .fcvtFI _ _ _ _ rm fmt => decide (rmFpOk rm ∧ fmt.toNat ≤ 1)
  | .fcvtIF _ _ _ _ rm fmt => decide (rmFpOk rm ∧ fmt.toNat ≤ 1)
  | .fcvtFF _ _ rm fmt => decide (rmFpOk rm ∧ fmt.toNat ≤ 1)
  | .fmac _ _ _ rm fmt => decide (rmFpOk rm ∧ fmt.toNat ≤ 1)
  | .fdiv _ _ _ rm _ _ => decide (rmFpOk rm)
  | .fsqrt _ _ rm _ _ => decide (rmFpOk rm)
  | .amoAdd _ _ _ _ _ _ => true
  | .amoAnd _ _ _ _ _ _ => true
  | .amoOr _ _ _ _ _ _ => true
  | .amoXor _ _ _ _ _ _ => true
  | .amoMin _ _ _ _ _ _ => true
  | .amoMax _ _ _ _ _ _ => true
  | .amoMinu _ _ _ _ _ _ => true
  | .amoMaxu _ _ _ _ _ _ => true
  | .amoSwap _ _ _ _ _ _ => true
  | .amoCas _ _ _ _ _ _ => true
  | .amoFadd _ _ _ _ _ => true
  | .fence kind scope => decide (kind.toNat ≤ 2 ∧ scope.toNat ≤ 4)
  | .fenceX _ _ _ => true
  | .chunk => true
  | .seam _ => true
  | .watch _ _ => true
  | .sleep _ _ => true
  | .unwatch _ => true
  | .hld _ _ _ => true
  | .hst _ _ _ => true
  | .hset _ _ fld => decide (fld.toNat ≤ 11)
  | .hget _ _ fld => decide (fld.toNat ≤ 11)
  | .hmov _ _ => true
  | .hadv _ _ _ => true
  | .hzero _ => true
  | .rep _ _ _ _ span => decide (span.toNat ≤ 6)
  | .vadd _ _ _ _ _ => true
  | .vsub _ _ _ _ _ => true
  | .vmul _ _ _ _ _ => true
  | .vfma _ _ _ _ _ _ => true
  | .vmin _ _ _ _ _ => true
  | .vmax _ _ _ _ _ => true
  | .vabs _ _ _ _ => true
  | .vneg _ _ _ _ => true
  | .vand _ _ _ _ => true
  | .vor _ _ _ _ => true
  | .vxor _ _ _ _ => true
  | .vshl _ _ _ _ => true
  | .vshr _ _ _ _ => true
  | .vsra _ _ _ _ => true
  | .vsel _ _ _ _ _ => true
  | .vcmpeq _ _ _ _ => true
  | .vcmplt _ _ _ _ => true
  | .vcmple _ _ _ _ => true
  | .vset _ _ _ _ => true
  | .vcopy _ _ _ => true
  | .vrcp _ _ _ _ => true
  | .vrsq _ _ _ _ => true
  | .vsqrt _ _ _ _ => true
  | .vdiv _ _ _ _ _ => true
  | .vexp2 _ _ _ _ => true
  | .vlog2 _ _ _ _ => true
  | .vtanh _ _ _ _ => true
  | .vsigm _ _ _ _ => true
  | .vsinpi _ _ _ _ => true
  | .vcospi _ _ _ _ => true
  | .vcvt _ _ _ _ => true
  | .vqsplit _ _ _ _ _ => true
  | .vscale _ _ _ _ _ => true
  | .viota _ _ _ _ _ => true
  | .vredRowAdd _ _ _ _ => true
  | .vredRowMax _ _ _ => true
  | .vredRowMin _ _ _ => true
  | .vredColAdd _ _ _ _ => true
  | .vredColMax _ _ _ => true
  | .vredColMin _ _ _ => true
  | .vscanRowAdd _ _ _ _ _ => true
  | .vscanRowAff _ _ _ _ _ _ => true
  | .vscanColAdd _ _ _ _ _ => true
  | .vscanColAff _ _ _ _ _ _ => true
  | .vscanRowMax _ _ _ _ => true
  | .vgather _ _ _ _ => true
  | .vscatter _ _ _ _ => true
  | .vtrn _ _ _ => true
  | .vbcastRow _ _ _ => true
  | .vbcastCol _ _ _ => true
  | .vpack _ _ _ _ => true
  | .vunpack _ _ _ _ => true
  | .mctx _ _ _ => true
  | .mbld _ _ _ => true
  | .mmul _ _ _ _ _ _ _ => true
  | .mdrain _ _ _ _ => true
  | .mzero _ _ => true
  | .mwait => true
  | .mrem _ _ _ _ kind => decide (kind.toNat ≤ 6)
  | .gscanAdd _ _ _ _ _ => true
  | .gscanAff _ _ _ _ _ _ => true
  | .gscanMax _ _ _ _ => true
  | .gredAdd _ _ _ _ => true
  | .gredMax _ _ _ => true
  | .gbcast _ _ _ _ => true
  | .gsync => true
  | .xset _ fld _ => decide (fld.toNat ≤ 12)
  | .xgo _ _ => true
  | .xwait _ _ _ _ _ => true
  | .xtest _ _ _ => true
  | .xcancel _ _ _ => true
  | .xstat _ rs1 sel _ => decide (sel.toNat ≤ 4 ∧ (sel ≠ 4 ∨ rs1 = 0))
  | .binit _ _ _ _ => true
  | .barrive _ _ _ _ => true
  | .bexpect _ _ _ _ => true
  | .bwait _ _ _ _ => true
  | .btry _ _ _ _ => true
  | .barriveExp _ _ _ _ => true
  | .send _ _ _ _ => true
  | .sendm _ _ _ _ => true
  | .spawn _ _ _ _ => true
  | .done => true
  | .qstat _ _ _ => true
  | .carry _ _ _ _ => true
  | .carryw _ _ _ _ => true
  | .yield _ => true
  | .reseed _ _ rs2 ownerForm _ _ => decide ((ownerForm = true ∨ rs2 = 0))
  | .draw _ _ _ => true
  | .exq _ _ _ _ _ => true
  | .excurve _ _ _ _ _ _ => true
  | .plq _ _ sel _ => decide (sel.toNat ≤ 3)
  | .xlpin _ _ _ _ _ => true
  | .xlunpin _ _ _ => true
  | .pclass _ _ sel _ => decide (sel.toNat ≤ 3)
  | .rangeq _ _ _ => true
  | .regsw _ _ _ _ => true
  | .pload _ _ _ _ => true
  | .replay _ _ _ _ => true
  | .migrate _ _ _ _ => true
  | .shoot _ _ _ _ _ => true
  | .compose _ n => decide (n ≠ 0)
  | .release _ => true
  | .cstat _ _ => true
  | .crr _ _ => true
  | .crw _ _ _ => true
  | .crs _ _ _ => true
  | .crc _ _ _ => true
  | .trap _ => true
  | .eret => true
  | .brk _ => true
  | .nop => true
  | .synci _ _ => true
  | .carve _ _ => true
  | .capmint _ _ => true
  | .wfi _ => true
  | .cLw rd rs1 n => decide (¬ (rd = 0 ∧ rs1 = 0 ∧ n = 0))
  | .cLd _ _ _ => true
  | .cSw _ _ _ => true
  | .cSd _ _ _ => true
  | .cBeqz _ _ => true
  | .cBnez _ _ => true
  | .cJ _ => true
  | .cJr _ => true
  | .cMv _ _ => true
  | .cAdd _ _ => true
  | .cSub _ _ => true
  | .cAnd _ _ => true
  | .cOr _ _ => true
  | .cXor _ _ => true
  | .cAddi _ _ => true
  | .cLi _ _ => true
  | .cSlli _ _ => true
  | .cSrli _ _ => true
  | .cSrai _ _ => true
  | .cNop => true
  | .cDone => true
  | .reservedEncoding _ _ => true
  | .fetchFromAddressZero => true
  | .instructionFetchFault _ _ => true
  | .slotSelection core slot => decide (core < 512 ∧ slot < 64)
  | .chunkCommit core slot => decide (core < 512 ∧ slot < 64)
  | .faultBatchWrite _ _ => true
  | .faultBatchService _ _ => true
  | .syscallService core slot => decide (core < 512 ∧ slot < 64)
  | .logFull _ => true
  | .messageArrival src dst => decide (src ≤ 512 ∧ dst < 512)
  | .messageResend core _ => decide (core < 512)
  | .messageDispatch core => decide (core < 512)
  | .launch _ => true
  | .abort _ => true
  | .preempt _ => true
  | .preemptResume _ => true
  | .query _ => true
  | .badopRequest _ _ => true
  | .map _ => true
  | .unmap _ => true
  | .populate _ => true
  | .window _ => true
  | .ranges _ => true
  | .faultans _ => true
  | .ownerCreate _ _ => true
  | .ownerRetire _ => true
  | .partitionReady _ => true
  | .seamjoin _ => true
  | .attestationRequest _ => true
  | .rdmaWrite _ _ _ => true
  | .rdmaRead _ _ _ => true
  | .kernelPlacement _ _ => true
  | .priorityPreemption _ _ => true
  | .gangPreemption _ _ => true
  | .kernelResume _ _ => true
  | .transferStart core _ => decide (core < 512)
  | .transferChunkLanding core _ _ => decide (core < 512)
  | .transferCancellation core _ => decide (core < 512)
  | .mzeroExecute unit core => decide (unit < 64 ∧ core < 512)
  | .mbldExecute unit core => decide (unit < 64 ∧ core < 512)
  | .mmulExecute unit core => decide (unit < 64 ∧ core < 512)
  | .mdrainExecute unit core => decide (unit < 64 ∧ core < 512)
  | .remoteMatrixCommand unit core => decide (unit < 64 ∧ core < 512)
  | .collectiveComplete _ _ _ => true
  | .collectiveTimeout core slot => decide (core < 512 ∧ slot < 64)
  | .bwaitTimeout core slot => decide (core < 512 ∧ slot < 64)
  | .sleepTimeout core slot => decide (core < 512 ∧ slot < 64)
  | .wfiTimeout core slot => decide (core < 512 ∧ slot < 64)
  | .xwaitTimeout core slot => decide (core < 512 ∧ slot < 64)
  | .carrywTimeout core slot => decide (core < 512 ∧ slot < 64)
  | .leaseExpiry core _ => decide (core < 512)
  | .remotePackedStore core => decide (core < 512)
  | .arbitrationRound _ _ => true
  | .gets core _ => decide (core < 512)
  | .getm core _ => decide (core < 512)
  | .upgrade core _ => decide (core < 512)
  | .puts core _ => decide (core < 512)
  | .putm core _ => decide (core < 512)
  | .atomic core _ => decide (core < 512)
  | .write core _ => decide (core < 512)
  | .dirEvict _ => true
  | .recallLine _ => true
  | .flush _ => true
  | .reclassify access => decide (access.core < 512)
  | .fwdtagConsume core _ => decide (core < 512)
  | .inv die _ => decide (die < 4)
  | .fwdS die _ => decide (die < 4)
  | .fwdM die _ => decide (die < 4)
  | .update die _ => decide (die < 4)
  | .dieRecall die _ => decide (die < 4)
  | .ack die _ => decide (die < 4)
  | .data die _ => decide (die < 4)
  | .seamIntervalExpiry _ => true
  | .seamCommit _ => true
  | .uncorrectableError _ => true
  | .rollback _ => true
  | .directoryEntryError _ _ => true
  | .patrolScrub _ => true
  | .refreshManagement _ _ => true
  | .coreSparing core => decide (core < 512)
  | .sliceSparing die slice => decide (die < 4 ∧ slice < 64)
  | .pseudoChannelSparing _ => true
  | .lysaUpdate _ _ => true
  | .partnerDetected port => decide (port < 100)
  | .linkTrained port _ => decide (port < 100)
  | .linkFault port _ => decide (port < 96)
  | .rtlimitExpiry port => decide (port < 100)
  | .linkRepair port => decide (port < 96)
  | .uePortFault port => decide (port < 4)
  | .dataFlit port _ => decide (port < 96)
  | .ackFlit port _ => decide (port < 96)
  | .nakFlit port _ => decide (port < 96)
  | .trainingFlit port _ => decide (port < 96)
  | .flitResendLimit port => decide (port < 96)
  | .carryArrival _ => true
  | .carryResend core _ => decide (core < 512)
  | .carryAcknowledgement core _ _ => decide (core < 512)
  | .powerOn => true
  | .railFault _ => true
  | .powerLimit => true
  | .powerRecovery => true
  | .thermalThrottle _ => true
  | .thermalRecovery _ => true
  | .thermalTrip _ => true
  | .watchdogExpiry die => decide (die < 4)
  | .wdogKick core _ => decide (core < 512)
  | .plbFlush core => decide (core < 512)
  | .bmReset => true
  | .bypass => true
  | .idcode => true
  | .samplePreload _ => true
  | .extest _ => true
  | .partnerLost port => decide (port < 100)
  | .idleFlit port _ => decide (port < 96)

/-- The same, as a proposition. -/
abbrev Instr.WellFormed (i : Instr) : Prop := i.wellFormed = true

end Sys2Proof
end

