-- ==== Sys2Proof/Decode.lean ====
section
/-!
DEFINITION. Sys2Proof/Decode.lean: from bytes to an instruction or a named rejection (02 R24 to R42), and the encoder.
Words are handled as natural numbers, bit 0 the least significant bit of the first halfword.
-/

namespace Sys2Proof

/-- The n bits of w from bit lo upward. -/
def fld (w lo n : Nat) : Nat := w / 2 ^ lo % 2 ^ n

/-- The scalar register number in the 4 bits from lo. -/
def regAt (w lo : Nat) : Reg := ⟨w / 2 ^ lo % 16, Nat.mod_lt _ (by decide)⟩

/-- The handle register number in the 3 bits from lo. -/
def hregAt (w lo : Nat) : HReg := ⟨w / 2 ^ lo % 8, Nat.mod_lt _ (by decide)⟩

/-- The flag in bit lo. -/
def bitAt (w lo : Nat) : Bool := w / 2 ^ lo % 2 == 1

/-- The immediate in the n bits from lo. -/
def immAt (w lo n : Nat) : BitVec n := BitVec.ofNat n (w / 2 ^ lo)

/-- Why bytes are no instruction. Every case but the first raises ILLEGAL (02 R28). -/
inductive DecodeError where
  /-- Fewer bytes than the length bit asks for. -/
  | truncated
  /-- A 32-bit word whose bits [1:0] are 0b01 (02 R24). -/
  | reservedLength (w : Nat)
  /-- Majors 28 to 31 (02 R30). -/
  | reservedMajor (w : Nat)
  /-- A reserved code, or an unused field that is not zero (02 R28). -/
  | reservedCode (w : Nat)
  /-- A halfword that is no 16-bit form (02 R41). -/
  | reservedShort (h : Nat)
  deriving DecidableEq, Repr

/-- The LOAD major (02 R31): the instruction the word would be, before the range checks of WellFormed. -/
def decLoad (w : Nat) : Option Instr :=
  match fld w 16 3 with
  | 0 => some (.lb (regAt w 7) (regAt w 11) (immAt w 23 9) (immAt w 19 4) (bitAt w 15))
  | 1 => some (.lh (regAt w 7) (regAt w 11) (immAt w 23 9) (immAt w 19 4) (bitAt w 15))
  | 2 => some (.lw (regAt w 7) (regAt w 11) (immAt w 23 9) (immAt w 19 4) (bitAt w 15))
  | 3 => some (.ld (regAt w 7) (regAt w 11) (immAt w 23 9) (immAt w 19 4) (bitAt w 15))
  | 4 => some (.lbu (regAt w 7) (regAt w 11) (immAt w 23 9) (immAt w 19 4) (bitAt w 15))
  | 5 => some (.lhu (regAt w 7) (regAt w 11) (immAt w 23 9) (immAt w 19 4) (bitAt w 15))
  | 6 => some (.lwu (regAt w 7) (regAt w 11) (immAt w 23 9) (immAt w 19 4) (bitAt w 15))
  | _ => none

/-- The STORE major (02 R31): the instruction the word would be, before the range checks of WellFormed. -/
def decStore (w : Nat) : Option Instr :=
  match fld w 15 3 with
  | 0 => some (.sb (regAt w 11) (regAt w 7) (immAt w 18 14))
  | 1 => some (.sh (regAt w 11) (regAt w 7) (immAt w 18 14))
  | 2 => some (.sw (regAt w 11) (regAt w 7) (immAt w 18 14))
  | 3 => some (.sd (regAt w 11) (regAt w 7) (immAt w 18 14))
  | 4 => some (.swRel (regAt w 11) (regAt w 7) (immAt w 18 14))
  | 5 => some (.sdRel (regAt w 11) (regAt w 7) (immAt w 18 14))
  | 6 => some (.sdFwd (regAt w 11) (regAt w 7) (immAt w 18 14))
  | _ => none

/-- The OPI major (02 R31): the instruction the word would be, before the range checks of WellFormed. -/
def decOpi (w : Nat) : Option Instr :=
  match fld w 15 3 with
  | 0 => some (.addi (regAt w 7) (regAt w 11) (immAt w 18 14))
  | 1 => if fld w 24 8 = 0 then some (.slli (regAt w 7) (regAt w 11) (immAt w 18 6)) else none
  | 2 => some (.slti (regAt w 7) (regAt w 11) (immAt w 18 14))
  | 3 => some (.sltiu (regAt w 7) (regAt w 11) (immAt w 18 14))
  | 4 => some (.xori (regAt w 7) (regAt w 11) (immAt w 18 14))
  | 5 =>
    if fld w 24 8 = 0 then some (.srli (regAt w 7) (regAt w 11) (immAt w 18 6))
    else if fld w 24 8 = 128 then some (.srai (regAt w 7) (regAt w 11) (immAt w 18 6))
    else none
  | 6 => some (.ori (regAt w 7) (regAt w 11) (immAt w 18 14))
  | 7 => some (.andi (regAt w 7) (regAt w 11) (immAt w 18 14))
  | _ => none

/-- The OP major (02 R32): the instruction the word would be, before the range checks of WellFormed. -/
def decOp (w : Nat) : Option Instr :=
  match fld w 19 4 with
  | 0 => if fld w 23 9 = 0 then some (.add (regAt w 7) (regAt w 11) (regAt w 15)) else none
  | 1 => if fld w 23 9 = 0 then some (.sub (regAt w 7) (regAt w 11) (regAt w 15)) else none
  | 2 => if fld w 23 9 = 0 then some (.sll (regAt w 7) (regAt w 11) (regAt w 15)) else none
  | 3 => if fld w 23 9 = 0 then some (.slt (regAt w 7) (regAt w 11) (regAt w 15)) else none
  | 4 => if fld w 23 9 = 0 then some (.sltu (regAt w 7) (regAt w 11) (regAt w 15)) else none
  | 5 => if fld w 23 9 = 0 then some (.xor (regAt w 7) (regAt w 11) (regAt w 15)) else none
  | 6 => if fld w 23 9 = 0 then some (.srl (regAt w 7) (regAt w 11) (regAt w 15)) else none
  | 7 => if fld w 23 9 = 0 then some (.sra (regAt w 7) (regAt w 11) (regAt w 15)) else none
  | 8 => if fld w 23 9 = 0 then some (.or (regAt w 7) (regAt w 11) (regAt w 15)) else none
  | 9 => if fld w 23 9 = 0 then some (.and (regAt w 7) (regAt w 11) (regAt w 15)) else none
  | 10 => if fld w 23 9 = 0 then some (.min (regAt w 7) (regAt w 11) (regAt w 15)) else none
  | 11 => if fld w 23 9 = 0 then some (.max (regAt w 7) (regAt w 11) (regAt w 15)) else none
  | 12 => if fld w 23 9 = 0 then some (.minu (regAt w 7) (regAt w 11) (regAt w 15)) else none
  | 13 => if fld w 23 9 = 0 then some (.maxu (regAt w 7) (regAt w 11) (regAt w 15)) else none
  | 14 =>
    if fld w 23 9 = 0 then some (.mul (regAt w 7) (regAt w 11) (regAt w 15))
    else if fld w 23 9 = 1 then some (.mulh (regAt w 7) (regAt w 11) (regAt w 15))
    else if fld w 23 9 = 2 then some (.mulhu (regAt w 7) (regAt w 11) (regAt w 15))
    else if fld w 15 4 = 0 ∧ fld w 23 9 = 3 then some (.clz (regAt w 7) (regAt w 11))
    else if fld w 15 4 = 0 ∧ fld w 23 9 = 4 then some (.ctz (regAt w 7) (regAt w 11))
    else if fld w 15 4 = 0 ∧ fld w 23 9 = 5 then some (.popc (regAt w 7) (regAt w 11))
    else if fld w 15 4 = 0 ∧ fld w 23 9 = 6 then some (.brev (regAt w 7) (regAt w 11))
    else none
  | 15 =>
    if fld w 23 9 = 0 then some (.seq (regAt w 7) (regAt w 11) (regAt w 15))
    else if fld w 23 9 = 1 then some (.sne (regAt w 7) (regAt w 11) (regAt w 15))
    else if fld w 23 9 = 2 then some (.addw (regAt w 7) (regAt w 11) (regAt w 15))
    else if fld w 23 9 = 3 then some (.subw (regAt w 7) (regAt w 11) (regAt w 15))
    else none
  | _ => none

/-- The LUI major (02 R33): the instruction the word would be, before the range checks of WellFormed. -/
def decLui (w : Nat) : Option Instr :=
  some (.lui (regAt w 7) (immAt w 11 21))

/-- The AUIPC major (02 R33): the instruction the word would be, before the range checks of WellFormed. -/
def decAuipc (w : Nat) : Option Instr :=
  some (.auipc (regAt w 7) (immAt w 11 21))

/-- The BRANCH major (02 R33): the instruction the word would be, before the range checks of WellFormed. -/
def decBranch (w : Nat) : Option Instr :=
  match fld w 15 3 with
  | 0 => some (.beq (regAt w 11) (regAt w 7) (immAt w 18 14))
  | 1 => some (.bne (regAt w 11) (regAt w 7) (immAt w 18 14))
  | 4 => some (.blt (regAt w 11) (regAt w 7) (immAt w 18 14))
  | 5 => some (.bge (regAt w 11) (regAt w 7) (immAt w 18 14))
  | 6 => some (.bltu (regAt w 11) (regAt w 7) (immAt w 18 14))
  | 7 => some (.bgeu (regAt w 11) (regAt w 7) (immAt w 18 14))
  | _ => none

/-- The JAL major (02 R33): the instruction the word would be, before the range checks of WellFormed. -/
def decJal (w : Nat) : Option Instr :=
  some (.jal (regAt w 7) (immAt w 11 21))

/-- The JALR major (02 R33): the instruction the word would be, before the range checks of WellFormed. -/
def decJalr (w : Nat) : Option Instr :=
  match fld w 15 3 with
  | 0 => some (.jalr (regAt w 7) (regAt w 11) (immAt w 18 14))
  | _ => none

/-- The MULDIV major (02 R34): the instruction the word would be, before the range checks of WellFormed. -/
def decMuldiv (w : Nat) : Option Instr :=
  match fld w 26 6 with
  | 0 => if fld w 24 2 = 0 then some (.div (regAt w 7) (regAt w 11) (regAt w 15) (bitAt w 23) (immAt w 19 4)) else none
  | 1 => if fld w 24 2 = 0 then some (.divu (regAt w 7) (regAt w 11) (regAt w 15) (bitAt w 23) (immAt w 19 4)) else none
  | 2 => if fld w 24 2 = 0 then some (.rem (regAt w 7) (regAt w 11) (regAt w 15) (bitAt w 23) (immAt w 19 4)) else none
  | 3 => if fld w 24 2 = 0 then some (.remu (regAt w 7) (regAt w 11) (regAt w 15) (bitAt w 23) (immAt w 19 4)) else none
  | _ => none

/-- The FP major (02 R34): the instruction the word would be, before the range checks of WellFormed. -/
def decFp (w : Nat) : Option Instr :=
  match fld w 19 4 with
  | 0 => if fld w 28 4 = 0 then some (.fadd (regAt w 7) (regAt w 11) (regAt w 15) (immAt w 25 3) (immAt w 23 2)) else none
  | 1 => if fld w 28 4 = 0 then some (.fsub (regAt w 7) (regAt w 11) (regAt w 15) (immAt w 25 3) (immAt w 23 2)) else none
  | 2 => if fld w 28 4 = 0 then some (.fmul (regAt w 7) (regAt w 11) (regAt w 15) (immAt w 25 3) (immAt w 23 2)) else none
  | 3 => if fld w 25 7 = 0 then some (.fmin (regAt w 7) (regAt w 11) (regAt w 15) (immAt w 23 2)) else none
  | 4 => if fld w 25 7 = 0 then some (.fmax (regAt w 7) (regAt w 11) (regAt w 15) (immAt w 23 2)) else none
  | 5 => if fld w 25 3 = 0 ∧ fld w 30 2 = 0 then some (.fsgnj (regAt w 7) (regAt w 11) (regAt w 15) (immAt w 28 2) (immAt w 23 2)) else none
  | 6 => if fld w 25 7 = 0 then some (.feq (regAt w 7) (regAt w 11) (regAt w 15) (immAt w 23 2)) else none
  | 7 => if fld w 25 7 = 0 then some (.flt (regAt w 7) (regAt w 11) (regAt w 15) (immAt w 23 2)) else none
  | 8 => if fld w 25 7 = 0 then some (.fle (regAt w 7) (regAt w 11) (regAt w 15) (immAt w 23 2)) else none
  | 9 => if fld w 15 4 = 0 ∧ fld w 25 7 = 0 then some (.fclass (regAt w 7) (regAt w 11) (immAt w 23 2)) else none
  | 10 => if fld w 15 4 = 0 ∧ fld w 30 2 = 0 then some (.fcvtFI (regAt w 7) (regAt w 11) (bitAt w 29) (bitAt w 28) (immAt w 25 3) (immAt w 23 2)) else none
  | 11 => if fld w 15 4 = 0 ∧ fld w 30 2 = 0 then some (.fcvtIF (regAt w 7) (regAt w 11) (bitAt w 29) (bitAt w 28) (immAt w 25 3) (immAt w 23 2)) else none
  | 12 => if fld w 15 4 = 0 ∧ fld w 28 4 = 0 then some (.fcvtFF (regAt w 7) (regAt w 11) (immAt w 25 3) (immAt w 23 2)) else none
  | 13 => if fld w 28 4 = 0 then some (.fmac (regAt w 7) (regAt w 11) (regAt w 15) (immAt w 25 3) (immAt w 23 2)) else none
  | _ => none

/-- The FPL major (02 R35): the instruction the word would be, before the range checks of WellFormed. -/
def decFpl (w : Nat) : Option Instr :=
  match fld w 26 3 with
  | 0 => if fld w 24 2 = 0 then some (.fdiv (regAt w 7) (regAt w 11) (regAt w 15) (immAt w 29 3) (bitAt w 23) (immAt w 19 4)) else none
  | 1 => if fld w 15 4 = 0 ∧ fld w 24 2 = 0 then some (.fsqrt (regAt w 7) (regAt w 11) (immAt w 29 3) (bitAt w 23) (immAt w 19 4)) else none
  | _ => none

/-- The ATOM major (02 R35): the instruction the word would be, before the range checks of WellFormed. -/
def decAtom (w : Nat) : Option Instr :=
  match fld w 26 4 with
  | 0 => if fld w 24 2 = 0 then some (.amoAdd (regAt w 7) (regAt w 11) (regAt w 15) (immAt w 30 2) (bitAt w 23) (immAt w 19 4)) else none
  | 1 => if fld w 24 2 = 0 then some (.amoAnd (regAt w 7) (regAt w 11) (regAt w 15) (immAt w 30 2) (bitAt w 23) (immAt w 19 4)) else none
  | 2 => if fld w 24 2 = 0 then some (.amoOr (regAt w 7) (regAt w 11) (regAt w 15) (immAt w 30 2) (bitAt w 23) (immAt w 19 4)) else none
  | 3 => if fld w 24 2 = 0 then some (.amoXor (regAt w 7) (regAt w 11) (regAt w 15) (immAt w 30 2) (bitAt w 23) (immAt w 19 4)) else none
  | 4 => if fld w 24 2 = 0 then some (.amoMin (regAt w 7) (regAt w 11) (regAt w 15) (immAt w 30 2) (bitAt w 23) (immAt w 19 4)) else none
  | 5 => if fld w 24 2 = 0 then some (.amoMax (regAt w 7) (regAt w 11) (regAt w 15) (immAt w 30 2) (bitAt w 23) (immAt w 19 4)) else none
  | 6 => if fld w 24 2 = 0 then some (.amoMinu (regAt w 7) (regAt w 11) (regAt w 15) (immAt w 30 2) (bitAt w 23) (immAt w 19 4)) else none
  | 7 => if fld w 24 2 = 0 then some (.amoMaxu (regAt w 7) (regAt w 11) (regAt w 15) (immAt w 30 2) (bitAt w 23) (immAt w 19 4)) else none
  | 8 => if fld w 24 2 = 0 then some (.amoSwap (regAt w 7) (regAt w 11) (regAt w 15) (immAt w 30 2) (bitAt w 23) (immAt w 19 4)) else none
  | 9 => if fld w 24 2 = 0 then some (.amoCas (regAt w 7) (regAt w 11) (regAt w 15) (immAt w 30 2) (bitAt w 23) (immAt w 19 4)) else none
  | 10 => if fld w 23 3 = 0 then some (.amoFadd (regAt w 7) (regAt w 11) (regAt w 15) (immAt w 30 2) (immAt w 19 4)) else none
  | _ => none

/-- The SYNC major (02 R36): the instruction the word would be, before the range checks of WellFormed. -/
def decSync (w : Nat) : Option Instr :=
  match fld w 19 4 with
  | 0 => if fld w 7 12 = 0 ∧ fld w 28 4 = 0 then some (.fence (immAt w 26 2) (immAt w 23 3)) else none
  | 1 => if fld w 7 12 = 0 then some (.fenceX (bitAt w 31) (immAt w 27 4) (immAt w 23 4)) else none
  | 2 => if fld w 7 12 = 0 ∧ fld w 23 9 = 0 then some (.chunk) else none
  | 3 => if fld w 7 4 = 0 ∧ fld w 15 4 = 0 ∧ fld w 23 9 = 0 then some (.seam (regAt w 11)) else none
  | 4 => if fld w 15 4 = 0 ∧ fld w 23 9 = 0 then some (.watch (regAt w 7) (regAt w 11)) else none
  | 5 => if fld w 15 4 = 0 ∧ fld w 23 9 = 0 then some (.sleep (regAt w 7) (regAt w 11)) else none
  | 6 => if fld w 7 4 = 0 ∧ fld w 15 4 = 0 ∧ fld w 23 9 = 0 then some (.unwatch (regAt w 11)) else none
  | _ => none

/-- The HANDLE major (02 R37): the instruction the word would be, before the range checks of WellFormed. -/
def decHandle (w : Nat) : Option Instr :=
  match fld w 27 5 with
  | 0 => if fld w 10 1 = 0 ∧ fld w 15 4 = 0 then some (.hld (hregAt w 7) (regAt w 11) (immAt w 19 8)) else none
  | 1 => if fld w 10 1 = 0 ∧ fld w 15 4 = 0 then some (.hst (hregAt w 7) (regAt w 11) (immAt w 19 8)) else none
  | 2 => if fld w 10 5 = 0 then some (.hset (hregAt w 7) (regAt w 15) (immAt w 19 8)) else none
  | 3 => if fld w 10 5 = 0 then some (.hget (hregAt w 7) (regAt w 15) (immAt w 19 8)) else none
  | 4 => if fld w 10 9 = 0 ∧ fld w 22 5 = 0 then some (.hmov (hregAt w 7) (hregAt w 19)) else none
  | 5 => if fld w 10 1 = 0 ∧ fld w 19 8 = 0 then some (.hadv (hregAt w 7) (regAt w 11) (regAt w 15)) else none
  | 6 => if fld w 10 17 = 0 then some (.hzero (hregAt w 7)) else none
  | _ => none

/-- The VEC0 major (02 R38): the instruction the word would be, before the range checks of WellFormed. -/
def decVec0 (w : Nat) : Option Instr :=
  match fld w 23 6 with
  | 0 => if fld w 16 3 = 0 then some (.vadd (hregAt w 7) (hregAt w 10) (hregAt w 13) (immAt w 29 3) (immAt w 19 4)) else none
  | 1 => if fld w 16 3 = 0 then some (.vsub (hregAt w 7) (hregAt w 10) (hregAt w 13) (immAt w 29 3) (immAt w 19 4)) else none
  | 2 => if fld w 16 3 = 0 then some (.vmul (hregAt w 7) (hregAt w 10) (hregAt w 13) (immAt w 29 3) (immAt w 19 4)) else none
  | 3 => some (.vfma (hregAt w 7) (hregAt w 10) (hregAt w 13) (hregAt w 16) (immAt w 29 3) (immAt w 19 4))
  | 4 => if fld w 16 3 = 0 then some (.vmin (hregAt w 7) (hregAt w 10) (hregAt w 13) (immAt w 29 3) (immAt w 19 4)) else none
  | 5 => if fld w 16 3 = 0 then some (.vmax (hregAt w 7) (hregAt w 10) (hregAt w 13) (immAt w 29 3) (immAt w 19 4)) else none
  | 6 => if fld w 13 6 = 0 then some (.vabs (hregAt w 7) (hregAt w 10) (immAt w 29 3) (immAt w 19 4)) else none
  | 7 => if fld w 13 6 = 0 then some (.vneg (hregAt w 7) (hregAt w 10) (immAt w 29 3) (immAt w 19 4)) else none
  | 8 => if fld w 16 3 = 0 ∧ fld w 29 3 = 0 then some (.vand (hregAt w 7) (hregAt w 10) (hregAt w 13) (immAt w 19 4)) else none
  | 9 => if fld w 16 3 = 0 ∧ fld w 29 3 = 0 then some (.vor (hregAt w 7) (hregAt w 10) (hregAt w 13) (immAt w 19 4)) else none
  | 10 => if fld w 16 3 = 0 ∧ fld w 29 3 = 0 then some (.vxor (hregAt w 7) (hregAt w 10) (hregAt w 13) (immAt w 19 4)) else none
  | 11 => if fld w 16 3 = 0 ∧ fld w 29 3 = 0 then some (.vshl (hregAt w 7) (hregAt w 10) (hregAt w 13) (immAt w 19 4)) else none
  | 12 => if fld w 16 3 = 0 ∧ fld w 29 3 = 0 then some (.vshr (hregAt w 7) (hregAt w 10) (hregAt w 13) (immAt w 19 4)) else none
  | 13 => if fld w 16 3 = 0 ∧ fld w 29 3 = 0 then some (.vsra (hregAt w 7) (hregAt w 10) (hregAt w 13) (immAt w 19 4)) else none
  | 14 => if fld w 29 3 = 0 then some (.vsel (hregAt w 7) (hregAt w 10) (hregAt w 13) (hregAt w 16) (immAt w 19 4)) else none
  | 15 => if fld w 16 3 = 0 ∧ fld w 29 3 = 0 then some (.vcmpeq (hregAt w 7) (hregAt w 10) (hregAt w 13) (immAt w 19 4)) else none
  | 16 => if fld w 16 3 = 0 ∧ fld w 29 3 = 0 then some (.vcmplt (hregAt w 7) (hregAt w 10) (hregAt w 13) (immAt w 19 4)) else none
  | 17 => if fld w 16 3 = 0 ∧ fld w 29 3 = 0 then some (.vcmple (hregAt w 7) (hregAt w 10) (hregAt w 13) (immAt w 19 4)) else none
  | 18 => if fld w 13 6 = 0 then some (.vset (hregAt w 7) (hregAt w 10) (immAt w 29 3) (immAt w 19 4)) else none
  | 19 => if fld w 13 6 = 0 ∧ fld w 29 3 = 0 then some (.vcopy (hregAt w 7) (hregAt w 10) (immAt w 19 4)) else none
  | _ => none

/-- The VEC1 major (02 R38): the instruction the word would be, before the range checks of WellFormed. -/
def decVec1 (w : Nat) : Option Instr :=
  match fld w 23 6 with
  | 0 => if fld w 13 6 = 0 then some (.vrcp (hregAt w 7) (hregAt w 10) (immAt w 29 3) (immAt w 19 4)) else none
  | 1 => if fld w 13 6 = 0 then some (.vrsq (hregAt w 7) (hregAt w 10) (immAt w 29 3) (immAt w 19 4)) else none
  | 2 => if fld w 13 6 = 0 then some (.vsqrt (hregAt w 7) (hregAt w 10) (immAt w 29 3) (immAt w 19 4)) else none
  | 3 => if fld w 16 3 = 0 then some (.vdiv (hregAt w 7) (hregAt w 10) (hregAt w 13) (immAt w 29 3) (immAt w 19 4)) else none
  | 4 => if fld w 13 6 = 0 then some (.vexp2 (hregAt w 7) (hregAt w 10) (immAt w 29 3) (immAt w 19 4)) else none
  | 5 => if fld w 13 6 = 0 then some (.vlog2 (hregAt w 7) (hregAt w 10) (immAt w 29 3) (immAt w 19 4)) else none
  | 6 => if fld w 13 6 = 0 then some (.vtanh (hregAt w 7) (hregAt w 10) (immAt w 29 3) (immAt w 19 4)) else none
  | 7 => if fld w 13 6 = 0 then some (.vsigm (hregAt w 7) (hregAt w 10) (immAt w 29 3) (immAt w 19 4)) else none
  | 8 => if fld w 13 6 = 0 then some (.vsinpi (hregAt w 7) (hregAt w 10) (immAt w 29 3) (immAt w 19 4)) else none
  | 9 => if fld w 13 6 = 0 then some (.vcospi (hregAt w 7) (hregAt w 10) (immAt w 29 3) (immAt w 19 4)) else none
  | 10 => if fld w 13 6 = 0 then some (.vcvt (hregAt w 7) (hregAt w 10) (immAt w 29 3) (immAt w 19 4)) else none
  | 11 => if fld w 19 4 = 0 then some (.vqsplit (hregAt w 7) (hregAt w 10) (hregAt w 13) (hregAt w 16) (immAt w 29 3)) else none
  | 12 => if fld w 16 3 = 0 then some (.vscale (hregAt w 7) (hregAt w 10) (hregAt w 13) (immAt w 29 3) (immAt w 19 4)) else none
  | 13 => if fld w 16 3 = 0 then some (.viota (hregAt w 7) (hregAt w 10) (hregAt w 13) (immAt w 29 3) (immAt w 19 4)) else none
  | _ => none

/-- The VEC2 major (02 R38): the instruction the word would be, before the range checks of WellFormed. -/
def decVec2 (w : Nat) : Option Instr :=
  match fld w 23 6 with
  | 0 => if fld w 13 6 = 0 ∧ fld w 29 1 = 0 then some (.vredRowAdd (hregAt w 7) (hregAt w 10) (immAt w 30 2) (immAt w 19 4)) else none
  | 1 => if fld w 13 6 = 0 ∧ fld w 29 3 = 0 then some (.vredRowMax (hregAt w 7) (hregAt w 10) (immAt w 19 4)) else none
  | 2 => if fld w 13 6 = 0 ∧ fld w 29 3 = 0 then some (.vredRowMin (hregAt w 7) (hregAt w 10) (immAt w 19 4)) else none
  | 3 => if fld w 13 6 = 0 ∧ fld w 29 1 = 0 then some (.vredColAdd (hregAt w 7) (hregAt w 10) (immAt w 30 2) (immAt w 19 4)) else none
  | 4 => if fld w 13 6 = 0 ∧ fld w 29 3 = 0 then some (.vredColMax (hregAt w 7) (hregAt w 10) (immAt w 19 4)) else none
  | 5 => if fld w 13 6 = 0 ∧ fld w 29 3 = 0 then some (.vredColMin (hregAt w 7) (hregAt w 10) (immAt w 19 4)) else none
  | 6 => if fld w 13 6 = 0 then some (.vscanRowAdd (hregAt w 7) (hregAt w 10) (immAt w 30 2) (bitAt w 29) (immAt w 19 4)) else none
  | 7 => if fld w 19 4 = 0 then some (.vscanRowAff (hregAt w 7) (hregAt w 10) (hregAt w 13) (hregAt w 16) (immAt w 30 2) (bitAt w 29)) else none
  | 8 => if fld w 13 6 = 0 then some (.vscanColAdd (hregAt w 7) (hregAt w 10) (immAt w 30 2) (bitAt w 29) (immAt w 19 4)) else none
  | 9 => if fld w 19 4 = 0 then some (.vscanColAff (hregAt w 7) (hregAt w 10) (hregAt w 13) (hregAt w 16) (immAt w 30 2) (bitAt w 29)) else none
  | 10 => if fld w 13 6 = 0 ∧ fld w 30 2 = 0 then some (.vscanRowMax (hregAt w 7) (hregAt w 10) (bitAt w 29) (immAt w 19 4)) else none
  | 11 => if fld w 16 3 = 0 ∧ fld w 29 3 = 0 then some (.vgather (hregAt w 7) (hregAt w 10) (hregAt w 13) (immAt w 19 4)) else none
  | 12 => if fld w 16 3 = 0 ∧ fld w 29 3 = 0 then some (.vscatter (hregAt w 7) (hregAt w 10) (hregAt w 13) (immAt w 19 4)) else none
  | 13 => if fld w 13 6 = 0 ∧ fld w 29 3 = 0 then some (.vtrn (hregAt w 7) (hregAt w 10) (immAt w 19 4)) else none
  | 14 => if fld w 13 6 = 0 ∧ fld w 29 3 = 0 then some (.vbcastRow (hregAt w 7) (hregAt w 10) (immAt w 19 4)) else none
  | 15 => if fld w 13 6 = 0 ∧ fld w 29 3 = 0 then some (.vbcastCol (hregAt w 7) (hregAt w 10) (immAt w 19 4)) else none
  | 16 => if fld w 16 3 = 0 ∧ fld w 29 3 = 0 then some (.vpack (hregAt w 7) (hregAt w 10) (hregAt w 13) (immAt w 19 4)) else none
  | 17 => if fld w 16 3 = 0 ∧ fld w 29 3 = 0 then some (.vunpack (hregAt w 7) (hregAt w 10) (hregAt w 13) (immAt w 19 4)) else none
  | _ => none

/-- The MAT major (02 R38): the instruction the word would be, before the range checks of WellFormed. -/
def decMat (w : Nat) : Option Instr :=
  match fld w 23 6 with
  | 0 => if fld w 7 3 = 0 ∧ fld w 16 7 = 0 then some (.mctx (hregAt w 10) (hregAt w 13) (immAt w 29 3)) else none
  | 1 => if fld w 13 6 = 0 ∧ fld w 29 3 = 0 then some (.mbld (hregAt w 7) (hregAt w 10) (immAt w 19 4)) else none
  | 2 => if fld w 31 1 = 0 then some (.mmul (hregAt w 7) (hregAt w 10) (hregAt w 13) (hregAt w 16) (bitAt w 30) (bitAt w 29) (immAt w 19 4)) else none
  | 3 => if fld w 13 6 = 0 ∧ fld w 30 2 = 0 then some (.mdrain (hregAt w 7) (hregAt w 10) (bitAt w 29) (immAt w 19 4)) else none
  | 4 => if fld w 10 9 = 0 ∧ fld w 29 3 = 0 then some (.mzero (hregAt w 7) (immAt w 19 4)) else none
  | 5 => if fld w 7 16 = 0 ∧ fld w 29 3 = 0 then some (.mwait) else none
  | 6 => if fld w 19 4 = 0 then some (.mrem (hregAt w 7) (hregAt w 10) (hregAt w 13) (hregAt w 16) (immAt w 29 3)) else none
  | _ => none

/-- The XFER major (02 R39): the instruction the word would be, before the range checks of WellFormed. -/
def decXfer (w : Nat) : Option Instr :=
  if fld w 30 2 = 0 then (if fld w 7 4 = 0 ∧ fld w 15 4 = 0 ∧ fld w 23 3 = 0 then some (.xset (regAt w 11) (immAt w 26 4) (immAt w 19 4)) else none) else
  match fld w 26 6 with
  | 16 => if fld w 11 8 = 0 ∧ fld w 23 3 = 0 then some (.xgo (regAt w 7) (immAt w 19 4)) else none
  | 17 => some (.xwait (regAt w 7) (regAt w 11) (regAt w 15) (immAt w 23 3) (immAt w 19 4))
  | 18 => if fld w 15 4 = 0 ∧ fld w 23 3 = 0 then some (.xtest (regAt w 7) (regAt w 11) (immAt w 19 4)) else none
  | 19 => if fld w 15 4 = 0 ∧ fld w 23 3 = 0 then some (.xcancel (regAt w 7) (regAt w 11) (immAt w 19 4)) else none
  | 20 => if fld w 15 4 = 0 then some (.xstat (regAt w 7) (regAt w 11) (immAt w 23 3) (immAt w 19 4)) else none
  | _ => none

/-- The BARR major (02 R39): the instruction the word would be, before the range checks of WellFormed. -/
def decBarr (w : Nat) : Option Instr :=
  match fld w 26 6 with
  | 0 => if fld w 23 3 = 0 then some (.binit (regAt w 7) (regAt w 11) (regAt w 15) (immAt w 19 4)) else none
  | 1 => if fld w 23 3 = 0 then some (.barrive (regAt w 7) (regAt w 11) (regAt w 15) (immAt w 19 4)) else none
  | 2 => if fld w 23 3 = 0 then some (.bexpect (regAt w 7) (regAt w 11) (regAt w 15) (immAt w 19 4)) else none
  | 3 => if fld w 23 3 = 0 then some (.bwait (regAt w 7) (regAt w 11) (regAt w 15) (immAt w 19 4)) else none
  | 4 => if fld w 23 3 = 0 then some (.btry (regAt w 7) (regAt w 11) (regAt w 15) (immAt w 19 4)) else none
  | 5 => if fld w 23 3 = 0 then some (.barriveExp (regAt w 7) (regAt w 11) (regAt w 15) (immAt w 19 4)) else none
  | _ => none

/-- The MSG major (02 R39): the instruction the word would be, before the range checks of WellFormed. -/
def decMsg (w : Nat) : Option Instr :=
  match fld w 26 6 with
  | 0 => if fld w 23 3 = 0 then some (.send (regAt w 7) (regAt w 11) (regAt w 15) (immAt w 19 4)) else none
  | 1 => if fld w 23 3 = 0 then some (.sendm (regAt w 7) (regAt w 11) (regAt w 15) (immAt w 19 4)) else none
  | 2 => if fld w 23 3 = 0 then some (.spawn (regAt w 7) (regAt w 11) (regAt w 15) (immAt w 19 4)) else none
  | 3 => if fld w 7 19 = 0 then some (.done) else none
  | 4 => if fld w 11 8 = 0 then some (.qstat (regAt w 7) (immAt w 23 3) (immAt w 19 4)) else none
  | 5 => if fld w 23 3 = 0 then some (.carry (regAt w 7) (regAt w 11) (regAt w 15) (immAt w 19 4)) else none
  | 6 => if fld w 23 3 = 0 then some (.carryw (regAt w 7) (regAt w 11) (regAt w 15) (immAt w 19 4)) else none
  | 7 => if fld w 11 15 = 0 then some (.yield (regAt w 7)) else none
  | _ => none

/-- The GRP major (02 R38): the instruction the word would be, before the range checks of WellFormed. -/
def decGrp (w : Nat) : Option Instr :=
  match fld w 23 6 with
  | 0 => if fld w 13 6 = 0 then some (.gscanAdd (hregAt w 7) (hregAt w 10) (immAt w 30 2) (bitAt w 29) (immAt w 19 4)) else none
  | 1 => if fld w 16 3 = 0 then some (.gscanAff (hregAt w 7) (hregAt w 10) (hregAt w 13) (immAt w 30 2) (bitAt w 29) (immAt w 19 4)) else none
  | 2 => if fld w 13 6 = 0 ∧ fld w 30 2 = 0 then some (.gscanMax (hregAt w 7) (hregAt w 10) (bitAt w 29) (immAt w 19 4)) else none
  | 3 => if fld w 13 6 = 0 ∧ fld w 29 1 = 0 then some (.gredAdd (hregAt w 7) (hregAt w 10) (immAt w 30 2) (immAt w 19 4)) else none
  | 4 => if fld w 13 6 = 0 ∧ fld w 29 3 = 0 then some (.gredMax (hregAt w 7) (hregAt w 10) (immAt w 19 4)) else none
  | 5 => if fld w 16 3 = 0 ∧ fld w 29 3 = 0 then some (.gbcast (hregAt w 7) (hregAt w 10) (hregAt w 13) (immAt w 19 4)) else none
  | 6 => if fld w 7 16 = 0 ∧ fld w 29 3 = 0 then some (.gsync) else none
  | _ => none

/-- The OWN major (02 R39): the instruction the word would be, before the range checks of WellFormed. -/
def decOwn (w : Nat) : Option Instr :=
  match fld w 26 6 with
  | 0 => if fld w 25 1 = 0 then some (.reseed (regAt w 7) (regAt w 11) (regAt w 15) (bitAt w 24) (bitAt w 23) (immAt w 19 4)) else none
  | 1 => if fld w 15 4 = 0 ∧ fld w 23 3 = 0 then some (.draw (regAt w 7) (regAt w 11) (immAt w 19 4)) else none
  | 2 => if fld w 15 4 = 0 ∧ fld w 25 1 = 0 then some (.exq (regAt w 7) (regAt w 11) (bitAt w 24) (bitAt w 23) (immAt w 19 4)) else none
  | 3 => if fld w 25 1 = 0 then some (.excurve (regAt w 7) (regAt w 11) (regAt w 15) (bitAt w 24) (bitAt w 23) (immAt w 19 4)) else none
  | 4 => if fld w 15 4 = 0 then some (.plq (regAt w 7) (regAt w 11) (immAt w 23 3) (immAt w 19 4)) else none
  | _ => none

/-- The MEMSYS major (02 R39): the instruction the word would be, before the range checks of WellFormed. -/
def decMemsys (w : Nat) : Option Instr :=
  match fld w 26 6 with
  | 0 => if fld w 24 2 = 0 then some (.xlpin (regAt w 7) (regAt w 11) (regAt w 15) (bitAt w 23) (immAt w 19 4)) else none
  | 1 => if fld w 15 4 = 0 ∧ fld w 23 3 = 0 then some (.xlunpin (regAt w 7) (regAt w 11) (immAt w 19 4)) else none
  | 2 => if fld w 15 4 = 0 then some (.pclass (regAt w 7) (regAt w 11) (immAt w 23 3) (immAt w 19 4)) else none
  | 3 => if fld w 15 4 = 0 ∧ fld w 23 3 = 0 then some (.rangeq (regAt w 7) (regAt w 11) (immAt w 19 4)) else none
  | 4 => if fld w 23 3 = 0 then some (.regsw (regAt w 7) (regAt w 11) (regAt w 15) (immAt w 19 4)) else none
  | 5 => if fld w 23 3 = 0 then some (.pload (regAt w 7) (regAt w 11) (regAt w 15) (immAt w 19 4)) else none
  | 6 => if fld w 23 3 = 0 then some (.replay (regAt w 7) (regAt w 11) (regAt w 15) (immAt w 19 4)) else none
  | 7 => if fld w 23 3 = 0 then some (.migrate (regAt w 7) (regAt w 11) (regAt w 15) (immAt w 19 4)) else none
  | 8 => if fld w 24 2 = 0 then some (.shoot (regAt w 7) (regAt w 11) (regAt w 15) (bitAt w 23) (immAt w 19 4)) else none
  | _ => none

/-- The SYS major (02 R40): the instruction the word would be, before the range checks of WellFormed. -/
def decSys (w : Nat) : Option Instr :=
  match fld w 19 4 with
  | 0 => if fld w 11 8 = 0 then some (.crr (regAt w 7) (immAt w 23 9)) else none
  | 1 => if fld w 15 4 = 0 then some (.crw (regAt w 7) (regAt w 11) (immAt w 23 9)) else none
  | 2 => if fld w 15 4 = 0 then some (.crs (regAt w 7) (regAt w 11) (immAt w 23 9)) else none
  | 3 => if fld w 15 4 = 0 then some (.crc (regAt w 7) (regAt w 11) (immAt w 23 9)) else none
  | 4 => if fld w 7 4 = 0 ∧ fld w 15 4 = 0 ∧ fld w 23 9 = 0 then some (.trap (regAt w 11)) else none
  | 5 => if fld w 7 12 = 0 ∧ fld w 23 9 = 0 then some (.eret) else none
  | 6 => if fld w 7 12 = 0 then some (.brk (immAt w 23 9)) else none
  | 7 => if fld w 7 12 = 0 ∧ fld w 23 9 = 0 then some (.nop) else none
  | 8 => if fld w 7 4 = 0 ∧ fld w 23 9 = 0 then some (.synci (regAt w 11) (regAt w 15)) else none
  | 9 => if fld w 15 4 = 0 ∧ fld w 23 9 = 0 then some (.carve (regAt w 7) (regAt w 11)) else none
  | 10 => if fld w 15 4 = 0 ∧ fld w 23 9 = 0 then some (.capmint (regAt w 7) (regAt w 11)) else none
  | 11 => if fld w 11 8 = 0 ∧ fld w 23 9 = 0 then some (.wfi (regAt w 7)) else none
  | _ => none

/-- The LOOP major (02 R40): the instruction the word would be, before the range checks of WellFormed. -/
def decLoop (w : Nat) : Option Instr :=
  if fld w 7 4 = 0 ∧ fld w 15 3 = 0 then some (.rep (regAt w 11) (immAt w 27 5) (immAt w 24 3) (immAt w 21 3) (immAt w 18 3)) else none

/-- The CLOAK major (02 R39): the instruction the word would be, before the range checks of WellFormed. -/
def decCloak (w : Nat) : Option Instr :=
  match fld w 26 6 with
  | 0 => if fld w 11 12 = 0 ∧ fld w 25 1 = 0 then some (.compose (regAt w 7) (immAt w 23 2)) else none
  | 1 => if fld w 11 15 = 0 then some (.release (regAt w 7)) else none
  | 2 => if fld w 11 8 = 0 ∧ fld w 23 3 = 0 then some (.cstat (regAt w 7) (immAt w 19 4)) else none
  | _ => none

/-- Group 00 of the 16-bit forms (02 R41). -/
def decShort0 (w : Nat) : Option Instr :=
  match fld w 13 3 with
  | 0 => some (.cLw (regAt w 9) (regAt w 5) (immAt w 2 3))
  | 1 => some (.cLd (regAt w 9) (regAt w 5) (immAt w 2 3))
  | 2 => some (.cSw (regAt w 5) (regAt w 9) (immAt w 2 3))
  | 3 => some (.cSd (regAt w 5) (regAt w 9) (immAt w 2 3))
  | 4 => some (.cBeqz (regAt w 9) (immAt w 2 7))
  | 5 => some (.cBnez (regAt w 9) (immAt w 2 7))
  | 6 => some (.cJ (immAt w 2 11))
  | 7 => if fld w 2 7 = 0 then some (.cJr (regAt w 9)) else none
  | _ => none

/-- Group 10 of the 16-bit forms (02 R41). -/
def decShort1 (w : Nat) : Option Instr :=
  match fld w 13 3 with
  | 0 =>
    match fld w 2 3 with
    | 0 => some (.cMv (regAt w 9) (regAt w 5))
    | 1 => some (.cAdd (regAt w 9) (regAt w 5))
    | 2 => some (.cSub (regAt w 9) (regAt w 5))
    | 3 => some (.cAnd (regAt w 9) (regAt w 5))
    | 4 => some (.cOr (regAt w 9) (regAt w 5))
    | 5 => some (.cXor (regAt w 9) (regAt w 5))
    | _ => none
  | 1 => some (.cAddi (regAt w 9) (immAt w 2 7))
  | 2 => some (.cLi (regAt w 9) (immAt w 2 7))
  | 3 => if fld w 2 1 = 0 then some (.cSlli (regAt w 9) (immAt w 3 6)) else none
  | 4 => if fld w 2 1 = 0 then some (.cSrli (regAt w 9) (immAt w 3 6)) else none
  | 5 => if fld w 2 1 = 0 then some (.cSrai (regAt w 9) (immAt w 3 6)) else none
  | 6 => if fld w 2 11 = 0 then some (.cNop) else none
  | 7 => if fld w 2 11 = 0 then some (.cDone) else none
  | _ => none

/-- The major opcode table (02 R30), before the range checks. -/
def decMajor (w : Nat) : Option Instr :=
    match fld w 2 5 with
    | 0 => decLoad w
    | 1 => decStore w
    | 2 => decOpi w
    | 3 => decOp w
    | 4 => decLui w
    | 5 => decAuipc w
    | 6 => decBranch w
    | 7 => decJal w
    | 8 => decJalr w
    | 9 => decMuldiv w
    | 10 => decFp w
    | 11 => decFpl w
    | 12 => decAtom w
    | 13 => decSync w
    | 14 => decHandle w
    | 15 => decVec0 w
    | 16 => decVec1 w
    | 17 => decVec2 w
    | 18 => decMat w
    | 19 => decXfer w
    | 20 => decBarr w
    | 21 => decMsg w
    | 22 => decGrp w
    | 23 => decOwn w
    | 24 => decMemsys w
    | 25 => decSys w
    | 26 => decLoop w
    | 27 => decCloak w
    | _ => none

/-- The instruction that passes the range checks, or none. -/
def checked (c : Option Instr) : Option Instr :=
  match c with
  | some i => if i.wellFormed then some i else none
  | none => none

/-- A 32-bit word whose bit 0 is 1 (02 R24, R26, R28). -/
def decodeLong (w : Nat) : Except DecodeError Instr :=
  if fld w 1 1 = 0 then .error (.reservedLength w)
  else if 28 ≤ fld w 2 5 then .error (.reservedMajor w)
  else match checked (decMajor w) with
    | some i => .ok i
    | none => .error (.reservedCode w)

/-- A halfword whose bit 0 is 0 (02 R41). -/
def decodeShort (h : Nat) : Except DecodeError Instr :=
  match checked (if fld h 1 1 = 0 then decShort0 h else decShort1 h) with
  | some i => .ok i
  | none => .error (.reservedShort h)

/-- Decode the instruction at the head of the bytes, little-endian halfwords (02 R24); the rest of the bytes with it. -/
def decode : List Byte → Except DecodeError (Instr × List Byte)
  | b0 :: b1 :: rest =>
    let h := b0.toNat + 256 * b1.toNat
    if fld h 0 1 = 0 then
      match decodeShort h with
      | .ok i => .ok (i, rest)
      | .error e => .error e
    else
      match rest with
      | b2 :: b3 :: rest' =>
        match decodeLong (h + 65536 * (b2.toNat + 256 * b3.toNat)) with
        | .ok i => .ok (i, rest')
        | .error e => .error e
      | _ => .error .truncated
  | _ => .error .truncated

/-- The bytes of an instruction of `nbytes` bytes whose bits are w, as the part stores them (02 R24). -/
def wordBytes : (nbytes w : Nat) → List Byte
  | 0, _ => []
  | n + 1, w => BitVec.ofNat 8 w :: wordBytes n (w / 256)

/-- The longest instruction is four bytes (02 R24). -/
def longestBytes : Nat := 4

/-- The instruction the decoder reads from a row of spec/opcode_table.json of `nbits` bits; the bits above are zero. -/
def decodeTableWord (nbits w : Nat) : Option Instr :=
  match decode (wordBytes longestBytes (w % 2 ^ nbits)) with
  | .ok (i, _) => some i
  | .error _ => none

/-- How many bytes the instruction's encoding takes; 0 for an event, which has none (02 R24, R41). -/
def Instr.len : Instr → Nat
  | .lb _ _ _ _ _ => 4
  | .lh _ _ _ _ _ => 4
  | .lw _ _ _ _ _ => 4
  | .ld _ _ _ _ _ => 4
  | .lbu _ _ _ _ _ => 4
  | .lhu _ _ _ _ _ => 4
  | .lwu _ _ _ _ _ => 4
  | .sb _ _ _ => 4
  | .sh _ _ _ => 4
  | .sw _ _ _ => 4
  | .sd _ _ _ => 4
  | .swRel _ _ _ => 4
  | .sdRel _ _ _ => 4
  | .sdFwd _ _ _ => 4
  | .addi _ _ _ => 4
  | .slli _ _ _ => 4
  | .slti _ _ _ => 4
  | .sltiu _ _ _ => 4
  | .xori _ _ _ => 4
  | .srli _ _ _ => 4
  | .srai _ _ _ => 4
  | .ori _ _ _ => 4
  | .andi _ _ _ => 4
  | .add _ _ _ => 4
  | .sub _ _ _ => 4
  | .sll _ _ _ => 4
  | .slt _ _ _ => 4
  | .sltu _ _ _ => 4
  | .xor _ _ _ => 4
  | .srl _ _ _ => 4
  | .sra _ _ _ => 4
  | .or _ _ _ => 4
  | .and _ _ _ => 4
  | .min _ _ _ => 4
  | .max _ _ _ => 4
  | .minu _ _ _ => 4
  | .maxu _ _ _ => 4
  | .mul _ _ _ => 4
  | .mulh _ _ _ => 4
  | .mulhu _ _ _ => 4
  | .clz _ _ => 4
  | .ctz _ _ => 4
  | .popc _ _ => 4
  | .brev _ _ => 4
  | .seq _ _ _ => 4
  | .sne _ _ _ => 4
  | .addw _ _ _ => 4
  | .subw _ _ _ => 4
  | .lui _ _ => 4
  | .auipc _ _ => 4
  | .beq _ _ _ => 4
  | .bne _ _ _ => 4
  | .blt _ _ _ => 4
  | .bge _ _ _ => 4
  | .bltu _ _ _ => 4
  | .bgeu _ _ _ => 4
  | .jal _ _ => 4
  | .jalr _ _ _ => 4
  | .div _ _ _ _ _ => 4
  | .divu _ _ _ _ _ => 4
  | .rem _ _ _ _ _ => 4
  | .remu _ _ _ _ _ => 4
  | .fadd _ _ _ _ _ => 4
  | .fsub _ _ _ _ _ => 4
  | .fmul _ _ _ _ _ => 4
  | .fmin _ _ _ _ => 4
  | .fmax _ _ _ _ => 4
  | .fsgnj _ _ _ _ _ => 4
  | .feq _ _ _ _ => 4
  | .flt _ _ _ _ => 4
  | .fle _ _ _ _ => 4
  | .fclass _ _ _ => 4
  | .fcvtFI _ _ _ _ _ _ => 4
  | .fcvtIF _ _ _ _ _ _ => 4
  | .fcvtFF _ _ _ _ => 4
  | .fmac _ _ _ _ _ => 4
  | .fdiv _ _ _ _ _ _ => 4
  | .fsqrt _ _ _ _ _ => 4
  | .amoAdd _ _ _ _ _ _ => 4
  | .amoAnd _ _ _ _ _ _ => 4
  | .amoOr _ _ _ _ _ _ => 4
  | .amoXor _ _ _ _ _ _ => 4
  | .amoMin _ _ _ _ _ _ => 4
  | .amoMax _ _ _ _ _ _ => 4
  | .amoMinu _ _ _ _ _ _ => 4
  | .amoMaxu _ _ _ _ _ _ => 4
  | .amoSwap _ _ _ _ _ _ => 4
  | .amoCas _ _ _ _ _ _ => 4
  | .amoFadd _ _ _ _ _ => 4
  | .fence _ _ => 4
  | .fenceX _ _ _ => 4
  | .chunk => 4
  | .seam _ => 4
  | .watch _ _ => 4
  | .sleep _ _ => 4
  | .unwatch _ => 4
  | .hld _ _ _ => 4
  | .hst _ _ _ => 4
  | .hset _ _ _ => 4
  | .hget _ _ _ => 4
  | .hmov _ _ => 4
  | .hadv _ _ _ => 4
  | .hzero _ => 4
  | .rep _ _ _ _ _ => 4
  | .vadd _ _ _ _ _ => 4
  | .vsub _ _ _ _ _ => 4
  | .vmul _ _ _ _ _ => 4
  | .vfma _ _ _ _ _ _ => 4
  | .vmin _ _ _ _ _ => 4
  | .vmax _ _ _ _ _ => 4
  | .vabs _ _ _ _ => 4
  | .vneg _ _ _ _ => 4
  | .vand _ _ _ _ => 4
  | .vor _ _ _ _ => 4
  | .vxor _ _ _ _ => 4
  | .vshl _ _ _ _ => 4
  | .vshr _ _ _ _ => 4
  | .vsra _ _ _ _ => 4
  | .vsel _ _ _ _ _ => 4
  | .vcmpeq _ _ _ _ => 4
  | .vcmplt _ _ _ _ => 4
  | .vcmple _ _ _ _ => 4
  | .vset _ _ _ _ => 4
  | .vcopy _ _ _ => 4
  | .vrcp _ _ _ _ => 4
  | .vrsq _ _ _ _ => 4
  | .vsqrt _ _ _ _ => 4
  | .vdiv _ _ _ _ _ => 4
  | .vexp2 _ _ _ _ => 4
  | .vlog2 _ _ _ _ => 4
  | .vtanh _ _ _ _ => 4
  | .vsigm _ _ _ _ => 4
  | .vsinpi _ _ _ _ => 4
  | .vcospi _ _ _ _ => 4
  | .vcvt _ _ _ _ => 4
  | .vqsplit _ _ _ _ _ => 4
  | .vscale _ _ _ _ _ => 4
  | .viota _ _ _ _ _ => 4
  | .vredRowAdd _ _ _ _ => 4
  | .vredRowMax _ _ _ => 4
  | .vredRowMin _ _ _ => 4
  | .vredColAdd _ _ _ _ => 4
  | .vredColMax _ _ _ => 4
  | .vredColMin _ _ _ => 4
  | .vscanRowAdd _ _ _ _ _ => 4
  | .vscanRowAff _ _ _ _ _ _ => 4
  | .vscanColAdd _ _ _ _ _ => 4
  | .vscanColAff _ _ _ _ _ _ => 4
  | .vscanRowMax _ _ _ _ => 4
  | .vgather _ _ _ _ => 4
  | .vscatter _ _ _ _ => 4
  | .vtrn _ _ _ => 4
  | .vbcastRow _ _ _ => 4
  | .vbcastCol _ _ _ => 4
  | .vpack _ _ _ _ => 4
  | .vunpack _ _ _ _ => 4
  | .mctx _ _ _ => 4
  | .mbld _ _ _ => 4
  | .mmul _ _ _ _ _ _ _ => 4
  | .mdrain _ _ _ _ => 4
  | .mzero _ _ => 4
  | .mwait => 4
  | .mrem _ _ _ _ _ => 4
  | .gscanAdd _ _ _ _ _ => 4
  | .gscanAff _ _ _ _ _ _ => 4
  | .gscanMax _ _ _ _ => 4
  | .gredAdd _ _ _ _ => 4
  | .gredMax _ _ _ => 4
  | .gbcast _ _ _ _ => 4
  | .gsync => 4
  | .xset _ _ _ => 4
  | .xgo _ _ => 4
  | .xwait _ _ _ _ _ => 4
  | .xtest _ _ _ => 4
  | .xcancel _ _ _ => 4
  | .xstat _ _ _ _ => 4
  | .binit _ _ _ _ => 4
  | .barrive _ _ _ _ => 4
  | .bexpect _ _ _ _ => 4
  | .bwait _ _ _ _ => 4
  | .btry _ _ _ _ => 4
  | .barriveExp _ _ _ _ => 4
  | .send _ _ _ _ => 4
  | .sendm _ _ _ _ => 4
  | .spawn _ _ _ _ => 4
  | .done => 4
  | .qstat _ _ _ => 4
  | .carry _ _ _ _ => 4
  | .carryw _ _ _ _ => 4
  | .yield _ => 4
  | .reseed _ _ _ _ _ _ => 4
  | .draw _ _ _ => 4
  | .exq _ _ _ _ _ => 4
  | .excurve _ _ _ _ _ _ => 4
  | .plq _ _ _ _ => 4
  | .xlpin _ _ _ _ _ => 4
  | .xlunpin _ _ _ => 4
  | .pclass _ _ _ _ => 4
  | .rangeq _ _ _ => 4
  | .regsw _ _ _ _ => 4
  | .pload _ _ _ _ => 4
  | .replay _ _ _ _ => 4
  | .migrate _ _ _ _ => 4
  | .shoot _ _ _ _ _ => 4
  | .compose _ _ => 4
  | .release _ => 4
  | .cstat _ _ => 4
  | .crr _ _ => 4
  | .crw _ _ _ => 4
  | .crs _ _ _ => 4
  | .crc _ _ _ => 4
  | .trap _ => 4
  | .eret => 4
  | .brk _ => 4
  | .nop => 4
  | .synci _ _ => 4
  | .carve _ _ => 4
  | .capmint _ _ => 4
  | .wfi _ => 4
  | .cLw _ _ _ => 2
  | .cLd _ _ _ => 2
  | .cSw _ _ _ => 2
  | .cSd _ _ _ => 2
  | .cBeqz _ _ => 2
  | .cBnez _ _ => 2
  | .cJ _ => 2
  | .cJr _ => 2
  | .cMv _ _ => 2
  | .cAdd _ _ => 2
  | .cSub _ _ => 2
  | .cAnd _ _ => 2
  | .cOr _ _ => 2
  | .cXor _ _ => 2
  | .cAddi _ _ => 2
  | .cLi _ _ => 2
  | .cSlli _ _ => 2
  | .cSrli _ _ => 2
  | .cSrai _ _ => 2
  | .cNop => 2
  | .cDone => 2
  | .reservedEncoding _ _ => 0
  | .fetchFromAddressZero => 0
  | .instructionFetchFault _ _ => 0
  | .slotSelection _ _ => 0
  | .chunkCommit _ _ => 0
  | .faultBatchWrite _ _ => 0
  | .faultBatchService _ _ => 0
  | .syscallService _ _ => 0
  | .logFull _ => 0
  | .messageArrival _ _ => 0
  | .messageResend _ _ => 0
  | .messageDispatch _ => 0
  | .launch _ => 0
  | .abort _ => 0
  | .preempt _ => 0
  | .preemptResume _ => 0
  | .query _ => 0
  | .badopRequest _ _ => 0
  | .map _ => 0
  | .unmap _ => 0
  | .populate _ => 0
  | .window _ => 0
  | .ranges _ => 0
  | .faultans _ => 0
  | .ownerCreate _ _ => 0
  | .ownerRetire _ => 0
  | .partitionReady _ => 0
  | .seamjoin _ => 0
  | .attestationRequest _ => 0
  | .rdmaWrite _ _ _ => 0
  | .rdmaRead _ _ _ => 0
  | .kernelPlacement _ _ => 0
  | .priorityPreemption _ _ => 0
  | .gangPreemption _ _ => 0
  | .kernelResume _ _ => 0
  | .transferStart _ _ => 0
  | .transferChunkLanding _ _ _ => 0
  | .transferCancellation _ _ => 0
  | .mzeroExecute _ _ => 0
  | .mbldExecute _ _ => 0
  | .mmulExecute _ _ => 0
  | .mdrainExecute _ _ => 0
  | .remoteMatrixCommand _ _ => 0
  | .collectiveComplete _ _ _ => 0
  | .collectiveTimeout _ _ => 0
  | .bwaitTimeout _ _ => 0
  | .sleepTimeout _ _ => 0
  | .wfiTimeout _ _ => 0
  | .xwaitTimeout _ _ => 0
  | .carrywTimeout _ _ => 0
  | .leaseExpiry _ _ => 0
  | .remotePackedStore _ => 0
  | .arbitrationRound _ _ => 0
  | .gets _ _ => 0
  | .getm _ _ => 0
  | .upgrade _ _ => 0
  | .puts _ _ => 0
  | .putm _ _ => 0
  | .atomic _ _ => 0
  | .write _ _ => 0
  | .dirEvict _ => 0
  | .recallLine _ => 0
  | .flush _ => 0
  | .reclassify _ => 0
  | .fwdtagConsume _ _ => 0
  | .inv _ _ => 0
  | .fwdS _ _ => 0
  | .fwdM _ _ => 0
  | .update _ _ => 0
  | .dieRecall _ _ => 0
  | .ack _ _ => 0
  | .data _ _ => 0
  | .seamIntervalExpiry _ => 0
  | .seamCommit _ => 0
  | .uncorrectableError _ => 0
  | .rollback _ => 0
  | .directoryEntryError _ _ => 0
  | .patrolScrub _ => 0
  | .refreshManagement _ _ => 0
  | .coreSparing _ => 0
  | .sliceSparing _ _ => 0
  | .pseudoChannelSparing _ => 0
  | .lysaUpdate _ _ => 0
  | .partnerDetected _ => 0
  | .linkTrained _ _ => 0
  | .linkFault _ _ => 0
  | .rtlimitExpiry _ => 0
  | .linkRepair _ => 0
  | .uePortFault _ => 0
  | .dataFlit _ _ => 0
  | .ackFlit _ _ => 0
  | .nakFlit _ _ => 0
  | .trainingFlit _ _ => 0
  | .flitResendLimit _ => 0
  | .carryArrival _ => 0
  | .carryResend _ _ => 0
  | .carryAcknowledgement _ _ _ => 0
  | .powerOn => 0
  | .railFault _ => 0
  | .powerLimit => 0
  | .powerRecovery => 0
  | .thermalThrottle _ => 0
  | .thermalRecovery _ => 0
  | .thermalTrip _ => 0
  | .watchdogExpiry _ => 0
  | .wdogKick _ _ => 0
  | .plbFlush _ => 0
  | .bmReset => 0
  | .bypass => 0
  | .idcode => 0
  | .samplePreload _ => 0
  | .extest _ => 0
  | .partnerLost _ => 0
  | .idleFlit _ _ => 0

/-- The bits of a well-formed instruction, from the tables of 02 R26 to R41; an event has none. -/
def Instr.word : Instr → Option Nat
  | .lb rd rs1 imm la acq => some (3 + rd.val * 128 + rs1.val * 2048 + imm.toNat * 8388608 + la.toNat * 524288 + (if acq then 1 else 0) * 32768)
  | .lh rd rs1 imm la acq => some (65539 + rd.val * 128 + rs1.val * 2048 + imm.toNat * 8388608 + la.toNat * 524288 + (if acq then 1 else 0) * 32768)
  | .lw rd rs1 imm la acq => some (131075 + rd.val * 128 + rs1.val * 2048 + imm.toNat * 8388608 + la.toNat * 524288 + (if acq then 1 else 0) * 32768)
  | .ld rd rs1 imm la acq => some (196611 + rd.val * 128 + rs1.val * 2048 + imm.toNat * 8388608 + la.toNat * 524288 + (if acq then 1 else 0) * 32768)
  | .lbu rd rs1 imm la acq => some (262147 + rd.val * 128 + rs1.val * 2048 + imm.toNat * 8388608 + la.toNat * 524288 + (if acq then 1 else 0) * 32768)
  | .lhu rd rs1 imm la acq => some (327683 + rd.val * 128 + rs1.val * 2048 + imm.toNat * 8388608 + la.toNat * 524288 + (if acq then 1 else 0) * 32768)
  | .lwu rd rs1 imm la acq => some (393219 + rd.val * 128 + rs1.val * 2048 + imm.toNat * 8388608 + la.toNat * 524288 + (if acq then 1 else 0) * 32768)
  | .sb rs1 rs2 imm => some (7 + rs1.val * 2048 + rs2.val * 128 + imm.toNat * 262144)
  | .sh rs1 rs2 imm => some (32775 + rs1.val * 2048 + rs2.val * 128 + imm.toNat * 262144)
  | .sw rs1 rs2 imm => some (65543 + rs1.val * 2048 + rs2.val * 128 + imm.toNat * 262144)
  | .sd rs1 rs2 imm => some (98311 + rs1.val * 2048 + rs2.val * 128 + imm.toNat * 262144)
  | .swRel rs1 rs2 imm => some (131079 + rs1.val * 2048 + rs2.val * 128 + imm.toNat * 262144)
  | .sdRel rs1 rs2 imm => some (163847 + rs1.val * 2048 + rs2.val * 128 + imm.toNat * 262144)
  | .sdFwd rs1 rs2 imm => some (196615 + rs1.val * 2048 + rs2.val * 128 + imm.toNat * 262144)
  | .addi rd rs1 imm => some (11 + rd.val * 128 + rs1.val * 2048 + imm.toNat * 262144)
  | .slli rd rs1 shamt => some (32779 + rd.val * 128 + rs1.val * 2048 + shamt.toNat * 262144)
  | .slti rd rs1 imm => some (65547 + rd.val * 128 + rs1.val * 2048 + imm.toNat * 262144)
  | .sltiu rd rs1 imm => some (98315 + rd.val * 128 + rs1.val * 2048 + imm.toNat * 262144)
  | .xori rd rs1 imm => some (131083 + rd.val * 128 + rs1.val * 2048 + imm.toNat * 262144)
  | .srli rd rs1 shamt => some (163851 + rd.val * 128 + rs1.val * 2048 + shamt.toNat * 262144)
  | .srai rd rs1 shamt => some (2147647499 + rd.val * 128 + rs1.val * 2048 + shamt.toNat * 262144)
  | .ori rd rs1 imm => some (196619 + rd.val * 128 + rs1.val * 2048 + imm.toNat * 262144)
  | .andi rd rs1 imm => some (229387 + rd.val * 128 + rs1.val * 2048 + imm.toNat * 262144)
  | .add rd rs1 rs2 => some (15 + rd.val * 128 + rs1.val * 2048 + rs2.val * 32768)
  | .sub rd rs1 rs2 => some (524303 + rd.val * 128 + rs1.val * 2048 + rs2.val * 32768)
  | .sll rd rs1 rs2 => some (1048591 + rd.val * 128 + rs1.val * 2048 + rs2.val * 32768)
  | .slt rd rs1 rs2 => some (1572879 + rd.val * 128 + rs1.val * 2048 + rs2.val * 32768)
  | .sltu rd rs1 rs2 => some (2097167 + rd.val * 128 + rs1.val * 2048 + rs2.val * 32768)
  | .xor rd rs1 rs2 => some (2621455 + rd.val * 128 + rs1.val * 2048 + rs2.val * 32768)
  | .srl rd rs1 rs2 => some (3145743 + rd.val * 128 + rs1.val * 2048 + rs2.val * 32768)
  | .sra rd rs1 rs2 => some (3670031 + rd.val * 128 + rs1.val * 2048 + rs2.val * 32768)
  | .or rd rs1 rs2 => some (4194319 + rd.val * 128 + rs1.val * 2048 + rs2.val * 32768)
  | .and rd rs1 rs2 => some (4718607 + rd.val * 128 + rs1.val * 2048 + rs2.val * 32768)
  | .min rd rs1 rs2 => some (5242895 + rd.val * 128 + rs1.val * 2048 + rs2.val * 32768)
  | .max rd rs1 rs2 => some (5767183 + rd.val * 128 + rs1.val * 2048 + rs2.val * 32768)
  | .minu rd rs1 rs2 => some (6291471 + rd.val * 128 + rs1.val * 2048 + rs2.val * 32768)
  | .maxu rd rs1 rs2 => some (6815759 + rd.val * 128 + rs1.val * 2048 + rs2.val * 32768)
  | .mul rd rs1 rs2 => some (7340047 + rd.val * 128 + rs1.val * 2048 + rs2.val * 32768)
  | .mulh rd rs1 rs2 => some (15728655 + rd.val * 128 + rs1.val * 2048 + rs2.val * 32768)
  | .mulhu rd rs1 rs2 => some (24117263 + rd.val * 128 + rs1.val * 2048 + rs2.val * 32768)
  | .clz rd rs1 => some (32505871 + rd.val * 128 + rs1.val * 2048)
  | .ctz rd rs1 => some (40894479 + rd.val * 128 + rs1.val * 2048)
  | .popc rd rs1 => some (49283087 + rd.val * 128 + rs1.val * 2048)
  | .brev rd rs1 => some (57671695 + rd.val * 128 + rs1.val * 2048)
  | .seq rd rs1 rs2 => some (7864335 + rd.val * 128 + rs1.val * 2048 + rs2.val * 32768)
  | .sne rd rs1 rs2 => some (16252943 + rd.val * 128 + rs1.val * 2048 + rs2.val * 32768)
  | .addw rd rs1 rs2 => some (24641551 + rd.val * 128 + rs1.val * 2048 + rs2.val * 32768)
  | .subw rd rs1 rs2 => some (33030159 + rd.val * 128 + rs1.val * 2048 + rs2.val * 32768)
  | .lui rd imm => some (19 + rd.val * 128 + imm.toNat * 2048)
  | .auipc rd imm => some (23 + rd.val * 128 + imm.toNat * 2048)
  | .beq rs1 rs2 imm => some (27 + rs1.val * 2048 + rs2.val * 128 + imm.toNat * 262144)
  | .bne rs1 rs2 imm => some (32795 + rs1.val * 2048 + rs2.val * 128 + imm.toNat * 262144)
  | .blt rs1 rs2 imm => some (131099 + rs1.val * 2048 + rs2.val * 128 + imm.toNat * 262144)
  | .bge rs1 rs2 imm => some (163867 + rs1.val * 2048 + rs2.val * 128 + imm.toNat * 262144)
  | .bltu rs1 rs2 imm => some (196635 + rs1.val * 2048 + rs2.val * 128 + imm.toNat * 262144)
  | .bgeu rs1 rs2 imm => some (229403 + rs1.val * 2048 + rs2.val * 128 + imm.toNat * 262144)
  | .jal rd imm => some (31 + rd.val * 128 + imm.toNat * 2048)
  | .jalr rd rs1 imm => some (35 + rd.val * 128 + rs1.val * 2048 + imm.toNat * 262144)
  | .div rd rs1 rs2 w32 la => some (39 + rd.val * 128 + rs1.val * 2048 + rs2.val * 32768 + (if w32 then 1 else 0) * 8388608 + la.toNat * 524288)
  | .divu rd rs1 rs2 w32 la => some (67108903 + rd.val * 128 + rs1.val * 2048 + rs2.val * 32768 + (if w32 then 1 else 0) * 8388608 + la.toNat * 524288)
  | .rem rd rs1 rs2 w32 la => some (134217767 + rd.val * 128 + rs1.val * 2048 + rs2.val * 32768 + (if w32 then 1 else 0) * 8388608 + la.toNat * 524288)
  | .remu rd rs1 rs2 w32 la => some (201326631 + rd.val * 128 + rs1.val * 2048 + rs2.val * 32768 + (if w32 then 1 else 0) * 8388608 + la.toNat * 524288)
  | .fadd rd rs1 rs2 rm fmt => some (43 + rd.val * 128 + rs1.val * 2048 + rs2.val * 32768 + rm.toNat * 33554432 + fmt.toNat * 8388608)
  | .fsub rd rs1 rs2 rm fmt => some (524331 + rd.val * 128 + rs1.val * 2048 + rs2.val * 32768 + rm.toNat * 33554432 + fmt.toNat * 8388608)
  | .fmul rd rs1 rs2 rm fmt => some (1048619 + rd.val * 128 + rs1.val * 2048 + rs2.val * 32768 + rm.toNat * 33554432 + fmt.toNat * 8388608)
  | .fmin rd rs1 rs2 fmt => some (1572907 + rd.val * 128 + rs1.val * 2048 + rs2.val * 32768 + fmt.toNat * 8388608)
  | .fmax rd rs1 rs2 fmt => some (2097195 + rd.val * 128 + rs1.val * 2048 + rs2.val * 32768 + fmt.toNat * 8388608)
  | .fsgnj rd rs1 rs2 j fmt => some (2621483 + rd.val * 128 + rs1.val * 2048 + rs2.val * 32768 + j.toNat * 268435456 + fmt.toNat * 8388608)
  | .feq rd rs1 rs2 fmt => some (3145771 + rd.val * 128 + rs1.val * 2048 + rs2.val * 32768 + fmt.toNat * 8388608)
  | .flt rd rs1 rs2 fmt => some (3670059 + rd.val * 128 + rs1.val * 2048 + rs2.val * 32768 + fmt.toNat * 8388608)
  | .fle rd rs1 rs2 fmt => some (4194347 + rd.val * 128 + rs1.val * 2048 + rs2.val * 32768 + fmt.toNat * 8388608)
  | .fclass rd rs1 fmt => some (4718635 + rd.val * 128 + rs1.val * 2048 + fmt.toNat * 8388608)
  | .fcvtFI rd rs1 w32 uns rm fmt => some (5242923 + rd.val * 128 + rs1.val * 2048 + (if w32 then 1 else 0) * 536870912 + (if uns then 1 else 0) * 268435456 + rm.toNat * 33554432 + fmt.toNat * 8388608)
  | .fcvtIF rd rs1 w32 uns rm fmt => some (5767211 + rd.val * 128 + rs1.val * 2048 + (if w32 then 1 else 0) * 536870912 + (if uns then 1 else 0) * 268435456 + rm.toNat * 33554432 + fmt.toNat * 8388608)
  | .fcvtFF rd rs1 rm fmt => some (6291499 + rd.val * 128 + rs1.val * 2048 + rm.toNat * 33554432 + fmt.toNat * 8388608)
  | .fmac rd rs1 rs2 rm fmt => some (6815787 + rd.val * 128 + rs1.val * 2048 + rs2.val * 32768 + rm.toNat * 33554432 + fmt.toNat * 8388608)
  | .fdiv rd rs1 rs2 rm dbl la => some (47 + rd.val * 128 + rs1.val * 2048 + rs2.val * 32768 + rm.toNat * 536870912 + (if dbl then 1 else 0) * 8388608 + la.toNat * 524288)
  | .fsqrt rd rs1 rm dbl la => some (67108911 + rd.val * 128 + rs1.val * 2048 + rm.toNat * 536870912 + (if dbl then 1 else 0) * 8388608 + la.toNat * 524288)
  | .amoAdd rd rs1 rs2 ord dbl la => some (51 + rd.val * 128 + rs1.val * 2048 + rs2.val * 32768 + ord.toNat * 1073741824 + (if dbl then 1 else 0) * 8388608 + la.toNat * 524288)
  | .amoAnd rd rs1 rs2 ord dbl la => some (67108915 + rd.val * 128 + rs1.val * 2048 + rs2.val * 32768 + ord.toNat * 1073741824 + (if dbl then 1 else 0) * 8388608 + la.toNat * 524288)
  | .amoOr rd rs1 rs2 ord dbl la => some (134217779 + rd.val * 128 + rs1.val * 2048 + rs2.val * 32768 + ord.toNat * 1073741824 + (if dbl then 1 else 0) * 8388608 + la.toNat * 524288)
  | .amoXor rd rs1 rs2 ord dbl la => some (201326643 + rd.val * 128 + rs1.val * 2048 + rs2.val * 32768 + ord.toNat * 1073741824 + (if dbl then 1 else 0) * 8388608 + la.toNat * 524288)
  | .amoMin rd rs1 rs2 ord dbl la => some (268435507 + rd.val * 128 + rs1.val * 2048 + rs2.val * 32768 + ord.toNat * 1073741824 + (if dbl then 1 else 0) * 8388608 + la.toNat * 524288)
  | .amoMax rd rs1 rs2 ord dbl la => some (335544371 + rd.val * 128 + rs1.val * 2048 + rs2.val * 32768 + ord.toNat * 1073741824 + (if dbl then 1 else 0) * 8388608 + la.toNat * 524288)
  | .amoMinu rd rs1 rs2 ord dbl la => some (402653235 + rd.val * 128 + rs1.val * 2048 + rs2.val * 32768 + ord.toNat * 1073741824 + (if dbl then 1 else 0) * 8388608 + la.toNat * 524288)
  | .amoMaxu rd rs1 rs2 ord dbl la => some (469762099 + rd.val * 128 + rs1.val * 2048 + rs2.val * 32768 + ord.toNat * 1073741824 + (if dbl then 1 else 0) * 8388608 + la.toNat * 524288)
  | .amoSwap rd rs1 rs2 ord dbl la => some (536870963 + rd.val * 128 + rs1.val * 2048 + rs2.val * 32768 + ord.toNat * 1073741824 + (if dbl then 1 else 0) * 8388608 + la.toNat * 524288)
  | .amoCas rd rs1 rs2 ord dbl la => some (603979827 + rd.val * 128 + rs1.val * 2048 + rs2.val * 32768 + ord.toNat * 1073741824 + (if dbl then 1 else 0) * 8388608 + la.toNat * 524288)
  | .amoFadd rd rs1 rs2 ord la => some (671088691 + rd.val * 128 + rs1.val * 2048 + rs2.val * 32768 + ord.toNat * 1073741824 + la.toNat * 524288)
  | .fence kind scope => some (55 + kind.toNat * 67108864 + scope.toNat * 8388608)
  | .fenceX link later earlier => some (524343 + (if link then 1 else 0) * 2147483648 + later.toNat * 134217728 + earlier.toNat * 8388608)
  | .chunk => some 1048631
  | .seam rs1 => some (1572919 + rs1.val * 2048)
  | .watch rd rs1 => some (2097207 + rd.val * 128 + rs1.val * 2048)
  | .sleep rd rs1 => some (2621495 + rd.val * 128 + rs1.val * 2048)
  | .unwatch rs1 => some (3145783 + rs1.val * 2048)
  | .hld hd rs1 imm => some (59 + hd.val * 128 + rs1.val * 2048 + imm.toNat * 524288)
  | .hst hd rs1 imm => some (134217787 + hd.val * 128 + rs1.val * 2048 + imm.toNat * 524288)
  | .hset hd rs2 fld => some (268435515 + hd.val * 128 + rs2.val * 32768 + fld.toNat * 524288)
  | .hget hd rs2 fld => some (402653243 + hd.val * 128 + rs2.val * 32768 + fld.toNat * 524288)
  | .hmov hd hk => some (536870971 + hd.val * 128 + hk.val * 524288)
  | .hadv hd rs1 rs2 => some (671088699 + hd.val * 128 + rs1.val * 2048 + rs2.val * 32768)
  | .hzero hd => some (805306427 + hd.val * 128)
  | .rep rs1 len hstride sstride span => some (107 + rs1.val * 2048 + len.toNat * 134217728 + hstride.toNat * 16777216 + sstride.toNat * 2097152 + span.toNat * 262144)
  | .vadd hd ha hb rm la => some (63 + hd.val * 128 + ha.val * 1024 + hb.val * 8192 + rm.toNat * 536870912 + la.toNat * 524288)
  | .vsub hd ha hb rm la => some (8388671 + hd.val * 128 + ha.val * 1024 + hb.val * 8192 + rm.toNat * 536870912 + la.toNat * 524288)
  | .vmul hd ha hb rm la => some (16777279 + hd.val * 128 + ha.val * 1024 + hb.val * 8192 + rm.toNat * 536870912 + la.toNat * 524288)
  | .vfma hd ha hb hc rm la => some (25165887 + hd.val * 128 + ha.val * 1024 + hb.val * 8192 + hc.val * 65536 + rm.toNat * 536870912 + la.toNat * 524288)
  | .vmin hd ha hb rm la => some (33554495 + hd.val * 128 + ha.val * 1024 + hb.val * 8192 + rm.toNat * 536870912 + la.toNat * 524288)
  | .vmax hd ha hb rm la => some (41943103 + hd.val * 128 + ha.val * 1024 + hb.val * 8192 + rm.toNat * 536870912 + la.toNat * 524288)
  | .vabs hd ha rm la => some (50331711 + hd.val * 128 + ha.val * 1024 + rm.toNat * 536870912 + la.toNat * 524288)
  | .vneg hd ha rm la => some (58720319 + hd.val * 128 + ha.val * 1024 + rm.toNat * 536870912 + la.toNat * 524288)
  | .vand hd ha hb la => some (67108927 + hd.val * 128 + ha.val * 1024 + hb.val * 8192 + la.toNat * 524288)
  | .vor hd ha hb la => some (75497535 + hd.val * 128 + ha.val * 1024 + hb.val * 8192 + la.toNat * 524288)
  | .vxor hd ha hb la => some (83886143 + hd.val * 128 + ha.val * 1024 + hb.val * 8192 + la.toNat * 524288)
  | .vshl hd ha hb la => some (92274751 + hd.val * 128 + ha.val * 1024 + hb.val * 8192 + la.toNat * 524288)
  | .vshr hd ha hb la => some (100663359 + hd.val * 128 + ha.val * 1024 + hb.val * 8192 + la.toNat * 524288)
  | .vsra hd ha hb la => some (109051967 + hd.val * 128 + ha.val * 1024 + hb.val * 8192 + la.toNat * 524288)
  | .vsel hd ha hb hc la => some (117440575 + hd.val * 128 + ha.val * 1024 + hb.val * 8192 + hc.val * 65536 + la.toNat * 524288)
  | .vcmpeq hd ha hb la => some (125829183 + hd.val * 128 + ha.val * 1024 + hb.val * 8192 + la.toNat * 524288)
  | .vcmplt hd ha hb la => some (134217791 + hd.val * 128 + ha.val * 1024 + hb.val * 8192 + la.toNat * 524288)
  | .vcmple hd ha hb la => some (142606399 + hd.val * 128 + ha.val * 1024 + hb.val * 8192 + la.toNat * 524288)
  | .vset hd ha rm la => some (150995007 + hd.val * 128 + ha.val * 1024 + rm.toNat * 536870912 + la.toNat * 524288)
  | .vcopy hd ha la => some (159383615 + hd.val * 128 + ha.val * 1024 + la.toNat * 524288)
  | .vrcp hd ha rm la => some (67 + hd.val * 128 + ha.val * 1024 + rm.toNat * 536870912 + la.toNat * 524288)
  | .vrsq hd ha rm la => some (8388675 + hd.val * 128 + ha.val * 1024 + rm.toNat * 536870912 + la.toNat * 524288)
  | .vsqrt hd ha rm la => some (16777283 + hd.val * 128 + ha.val * 1024 + rm.toNat * 536870912 + la.toNat * 524288)
  | .vdiv hd ha hb rm la => some (25165891 + hd.val * 128 + ha.val * 1024 + hb.val * 8192 + rm.toNat * 536870912 + la.toNat * 524288)
  | .vexp2 hd ha rm la => some (33554499 + hd.val * 128 + ha.val * 1024 + rm.toNat * 536870912 + la.toNat * 524288)
  | .vlog2 hd ha rm la => some (41943107 + hd.val * 128 + ha.val * 1024 + rm.toNat * 536870912 + la.toNat * 524288)
  | .vtanh hd ha rm la => some (50331715 + hd.val * 128 + ha.val * 1024 + rm.toNat * 536870912 + la.toNat * 524288)
  | .vsigm hd ha rm la => some (58720323 + hd.val * 128 + ha.val * 1024 + rm.toNat * 536870912 + la.toNat * 524288)
  | .vsinpi hd ha rm la => some (67108931 + hd.val * 128 + ha.val * 1024 + rm.toNat * 536870912 + la.toNat * 524288)
  | .vcospi hd ha rm la => some (75497539 + hd.val * 128 + ha.val * 1024 + rm.toNat * 536870912 + la.toNat * 524288)
  | .vcvt hd ha rm la => some (83886147 + hd.val * 128 + ha.val * 1024 + rm.toNat * 536870912 + la.toNat * 524288)
  | .vqsplit hd ha hb hc rm => some (92274755 + hd.val * 128 + ha.val * 1024 + hb.val * 8192 + hc.val * 65536 + rm.toNat * 536870912)
  | .vscale hd ha hb rm la => some (100663363 + hd.val * 128 + ha.val * 1024 + hb.val * 8192 + rm.toNat * 536870912 + la.toNat * 524288)
  | .viota hd ha hb rm la => some (109051971 + hd.val * 128 + ha.val * 1024 + hb.val * 8192 + rm.toNat * 536870912 + la.toNat * 524288)
  | .vredRowAdd hd ha rm la => some (71 + hd.val * 128 + ha.val * 1024 + rm.toNat * 1073741824 + la.toNat * 524288)
  | .vredRowMax hd ha la => some (8388679 + hd.val * 128 + ha.val * 1024 + la.toNat * 524288)
  | .vredRowMin hd ha la => some (16777287 + hd.val * 128 + ha.val * 1024 + la.toNat * 524288)
  | .vredColAdd hd ha rm la => some (25165895 + hd.val * 128 + ha.val * 1024 + rm.toNat * 1073741824 + la.toNat * 524288)
  | .vredColMax hd ha la => some (33554503 + hd.val * 128 + ha.val * 1024 + la.toNat * 524288)
  | .vredColMin hd ha la => some (41943111 + hd.val * 128 + ha.val * 1024 + la.toNat * 524288)
  | .vscanRowAdd hd ha rm excl la => some (50331719 + hd.val * 128 + ha.val * 1024 + rm.toNat * 1073741824 + (if excl then 1 else 0) * 536870912 + la.toNat * 524288)
  | .vscanRowAff hd ha hb hc rm excl => some (58720327 + hd.val * 128 + ha.val * 1024 + hb.val * 8192 + hc.val * 65536 + rm.toNat * 1073741824 + (if excl then 1 else 0) * 536870912)
  | .vscanColAdd hd ha rm excl la => some (67108935 + hd.val * 128 + ha.val * 1024 + rm.toNat * 1073741824 + (if excl then 1 else 0) * 536870912 + la.toNat * 524288)
  | .vscanColAff hd ha hb hc rm excl => some (75497543 + hd.val * 128 + ha.val * 1024 + hb.val * 8192 + hc.val * 65536 + rm.toNat * 1073741824 + (if excl then 1 else 0) * 536870912)
  | .vscanRowMax hd ha excl la => some (83886151 + hd.val * 128 + ha.val * 1024 + (if excl then 1 else 0) * 536870912 + la.toNat * 524288)
  | .vgather hd ha hb la => some (92274759 + hd.val * 128 + ha.val * 1024 + hb.val * 8192 + la.toNat * 524288)
  | .vscatter hd ha hb la => some (100663367 + hd.val * 128 + ha.val * 1024 + hb.val * 8192 + la.toNat * 524288)
  | .vtrn hd ha la => some (109051975 + hd.val * 128 + ha.val * 1024 + la.toNat * 524288)
  | .vbcastRow hd ha la => some (117440583 + hd.val * 128 + ha.val * 1024 + la.toNat * 524288)
  | .vbcastCol hd ha la => some (125829191 + hd.val * 128 + ha.val * 1024 + la.toNat * 524288)
  | .vpack hd ha hb la => some (134217799 + hd.val * 128 + ha.val * 1024 + hb.val * 8192 + la.toNat * 524288)
  | .vunpack hd ha hb la => some (142606407 + hd.val * 128 + ha.val * 1024 + hb.val * 8192 + la.toNat * 524288)
  | .mctx ha hb rm => some (75 + ha.val * 1024 + hb.val * 8192 + rm.toNat * 536870912)
  | .mbld hd ha la => some (8388683 + hd.val * 128 + ha.val * 1024 + la.toNat * 524288)
  | .mmul hd ha hb hc last first la => some (16777291 + hd.val * 128 + ha.val * 1024 + hb.val * 8192 + hc.val * 65536 + (if last then 1 else 0) * 1073741824 + (if first then 1 else 0) * 536870912 + la.toNat * 524288)
  | .mdrain hd ha rel la => some (25165899 + hd.val * 128 + ha.val * 1024 + (if rel then 1 else 0) * 536870912 + la.toNat * 524288)
  | .mzero hd la => some (33554507 + hd.val * 128 + la.toNat * 524288)
  | .mwait => some 41943115
  | .mrem hd ha hb hc kind => some (50331723 + hd.val * 128 + ha.val * 1024 + hb.val * 8192 + hc.val * 65536 + kind.toNat * 536870912)
  | .gscanAdd hd ha rm excl la => some (91 + hd.val * 128 + ha.val * 1024 + rm.toNat * 1073741824 + (if excl then 1 else 0) * 536870912 + la.toNat * 524288)
  | .gscanAff hd ha hb rm excl la => some (8388699 + hd.val * 128 + ha.val * 1024 + hb.val * 8192 + rm.toNat * 1073741824 + (if excl then 1 else 0) * 536870912 + la.toNat * 524288)
  | .gscanMax hd ha excl la => some (16777307 + hd.val * 128 + ha.val * 1024 + (if excl then 1 else 0) * 536870912 + la.toNat * 524288)
  | .gredAdd hd ha rm la => some (25165915 + hd.val * 128 + ha.val * 1024 + rm.toNat * 1073741824 + la.toNat * 524288)
  | .gredMax hd ha la => some (33554523 + hd.val * 128 + ha.val * 1024 + la.toNat * 524288)
  | .gbcast hd ha hb la => some (41943131 + hd.val * 128 + ha.val * 1024 + hb.val * 8192 + la.toNat * 524288)
  | .gsync => some 50331739
  | .xset rs1 fld la => some (79 + rs1.val * 2048 + fld.toNat * 67108864 + la.toNat * 524288)
  | .xgo rd la => some (1073741903 + rd.val * 128 + la.toNat * 524288)
  | .xwait rd rs1 rs2 word la => some (1140850767 + rd.val * 128 + rs1.val * 2048 + rs2.val * 32768 + word.toNat * 8388608 + la.toNat * 524288)
  | .xtest rd rs1 la => some (1207959631 + rd.val * 128 + rs1.val * 2048 + la.toNat * 524288)
  | .xcancel rd rs1 la => some (1275068495 + rd.val * 128 + rs1.val * 2048 + la.toNat * 524288)
  | .xstat rd rs1 sel la => some (1342177359 + rd.val * 128 + rs1.val * 2048 + sel.toNat * 8388608 + la.toNat * 524288)
  | .binit rd rs1 rs2 la => some (83 + rd.val * 128 + rs1.val * 2048 + rs2.val * 32768 + la.toNat * 524288)
  | .barrive rd rs1 rs2 la => some (67108947 + rd.val * 128 + rs1.val * 2048 + rs2.val * 32768 + la.toNat * 524288)
  | .bexpect rd rs1 rs2 la => some (134217811 + rd.val * 128 + rs1.val * 2048 + rs2.val * 32768 + la.toNat * 524288)
  | .bwait rd rs1 rs2 la => some (201326675 + rd.val * 128 + rs1.val * 2048 + rs2.val * 32768 + la.toNat * 524288)
  | .btry rd rs1 rs2 la => some (268435539 + rd.val * 128 + rs1.val * 2048 + rs2.val * 32768 + la.toNat * 524288)
  | .barriveExp rd rs1 rs2 la => some (335544403 + rd.val * 128 + rs1.val * 2048 + rs2.val * 32768 + la.toNat * 524288)
  | .send rd rs1 rs2 la => some (87 + rd.val * 128 + rs1.val * 2048 + rs2.val * 32768 + la.toNat * 524288)
  | .sendm rd rs1 rs2 la => some (67108951 + rd.val * 128 + rs1.val * 2048 + rs2.val * 32768 + la.toNat * 524288)
  | .spawn rd rs1 rs2 la => some (134217815 + rd.val * 128 + rs1.val * 2048 + rs2.val * 32768 + la.toNat * 524288)
  | .done => some 201326679
  | .qstat rd sel la => some (268435543 + rd.val * 128 + sel.toNat * 8388608 + la.toNat * 524288)
  | .carry rd rs1 rs2 la => some (335544407 + rd.val * 128 + rs1.val * 2048 + rs2.val * 32768 + la.toNat * 524288)
  | .carryw rd rs1 rs2 la => some (402653271 + rd.val * 128 + rs1.val * 2048 + rs2.val * 32768 + la.toNat * 524288)
  | .yield rd => some (469762135 + rd.val * 128)
  | .reseed rd rs1 rs2 ownerForm remap la => some (95 + rd.val * 128 + rs1.val * 2048 + rs2.val * 32768 + (if ownerForm then 1 else 0) * 16777216 + (if remap then 1 else 0) * 8388608 + la.toNat * 524288)
  | .draw rd rs1 la => some (67108959 + rd.val * 128 + rs1.val * 2048 + la.toNat * 524288)
  | .exq rd rs1 align cur la => some (134217823 + rd.val * 128 + rs1.val * 2048 + (if align then 1 else 0) * 16777216 + (if cur then 1 else 0) * 8388608 + la.toNat * 524288)
  | .excurve rd rs1 rs2 align cur la => some (201326687 + rd.val * 128 + rs1.val * 2048 + rs2.val * 32768 + (if align then 1 else 0) * 16777216 + (if cur then 1 else 0) * 8388608 + la.toNat * 524288)
  | .plq rd rs1 sel la => some (268435551 + rd.val * 128 + rs1.val * 2048 + sel.toNat * 8388608 + la.toNat * 524288)
  | .xlpin rd rs1 rs2 pinData la => some (99 + rd.val * 128 + rs1.val * 2048 + rs2.val * 32768 + (if pinData then 1 else 0) * 8388608 + la.toNat * 524288)
  | .xlunpin rd rs1 la => some (67108963 + rd.val * 128 + rs1.val * 2048 + la.toNat * 524288)
  | .pclass rd rs1 sel la => some (134217827 + rd.val * 128 + rs1.val * 2048 + sel.toNat * 8388608 + la.toNat * 524288)
  | .rangeq rd rs1 la => some (201326691 + rd.val * 128 + rs1.val * 2048 + la.toNat * 524288)
  | .regsw rd rs1 rs2 la => some (268435555 + rd.val * 128 + rs1.val * 2048 + rs2.val * 32768 + la.toNat * 524288)
  | .pload rd rs1 rs2 la => some (335544419 + rd.val * 128 + rs1.val * 2048 + rs2.val * 32768 + la.toNat * 524288)
  | .replay rd rs1 rs2 la => some (402653283 + rd.val * 128 + rs1.val * 2048 + rs2.val * 32768 + la.toNat * 524288)
  | .migrate rd rs1 rs2 la => some (469762147 + rd.val * 128 + rs1.val * 2048 + rs2.val * 32768 + la.toNat * 524288)
  | .shoot rd rs1 rs2 doFlush la => some (536871011 + rd.val * 128 + rs1.val * 2048 + rs2.val * 32768 + (if doFlush then 1 else 0) * 8388608 + la.toNat * 524288)
  | .compose rd n => some (111 + rd.val * 128 + n.toNat * 8388608)
  | .release rd => some (67108975 + rd.val * 128)
  | .cstat rd la => some (134217839 + rd.val * 128 + la.toNat * 524288)
  | .crr rd cr => some (103 + rd.val * 128 + cr.toNat * 8388608)
  | .crw rd rs1 cr => some (524391 + rd.val * 128 + rs1.val * 2048 + cr.toNat * 8388608)
  | .crs rd rs1 cr => some (1048679 + rd.val * 128 + rs1.val * 2048 + cr.toNat * 8388608)
  | .crc rd rs1 cr => some (1572967 + rd.val * 128 + rs1.val * 2048 + cr.toNat * 8388608)
  | .trap rs1 => some (2097255 + rs1.val * 2048)
  | .eret => some 2621543
  | .brk code => some (3145831 + code.toNat * 8388608)
  | .nop => some 3670119
  | .synci rs1 rs2 => some (4194407 + rs1.val * 2048 + rs2.val * 32768)
  | .carve rd rs1 => some (4718695 + rd.val * 128 + rs1.val * 2048)
  | .capmint rd rs1 => some (5242983 + rd.val * 128 + rs1.val * 2048)
  | .wfi rd => some (5767271 + rd.val * 128)
  | .cLw rd rs1 n => some (0 + rd.val * 512 + rs1.val * 32 + n.toNat * 4)
  | .cLd rd rs1 n => some (8192 + rd.val * 512 + rs1.val * 32 + n.toNat * 4)
  | .cSw rs1 rs2 n => some (16384 + rs1.val * 32 + rs2.val * 512 + n.toNat * 4)
  | .cSd rs1 rs2 n => some (24576 + rs1.val * 32 + rs2.val * 512 + n.toNat * 4)
  | .cBeqz rs1 imm => some (32768 + rs1.val * 512 + imm.toNat * 4)
  | .cBnez rs1 imm => some (40960 + rs1.val * 512 + imm.toNat * 4)
  | .cJ imm => some (49152 + imm.toNat * 4)
  | .cJr rs1 => some (57344 + rs1.val * 512)
  | .cMv rd rs1 => some (2 + rd.val * 512 + rs1.val * 32)
  | .cAdd rd rs1 => some (6 + rd.val * 512 + rs1.val * 32)
  | .cSub rd rs1 => some (10 + rd.val * 512 + rs1.val * 32)
  | .cAnd rd rs1 => some (14 + rd.val * 512 + rs1.val * 32)
  | .cOr rd rs1 => some (18 + rd.val * 512 + rs1.val * 32)
  | .cXor rd rs1 => some (22 + rd.val * 512 + rs1.val * 32)
  | .cAddi rd imm => some (8194 + rd.val * 512 + imm.toNat * 4)
  | .cLi rd imm => some (16386 + rd.val * 512 + imm.toNat * 4)
  | .cSlli rd shamt => some (24578 + rd.val * 512 + shamt.toNat * 8)
  | .cSrli rd shamt => some (32770 + rd.val * 512 + shamt.toNat * 8)
  | .cSrai rd shamt => some (40962 + rd.val * 512 + shamt.toNat * 8)
  | .cNop => some 49154
  | .cDone => some 57346
  | .reservedEncoding _ _ => none
  | .fetchFromAddressZero => none
  | .instructionFetchFault _ _ => none
  | .slotSelection _ _ => none
  | .chunkCommit _ _ => none
  | .faultBatchWrite _ _ => none
  | .faultBatchService _ _ => none
  | .syscallService _ _ => none
  | .logFull _ => none
  | .messageArrival _ _ => none
  | .messageResend _ _ => none
  | .messageDispatch _ => none
  | .launch _ => none
  | .abort _ => none
  | .preempt _ => none
  | .preemptResume _ => none
  | .query _ => none
  | .badopRequest _ _ => none
  | .map _ => none
  | .unmap _ => none
  | .populate _ => none
  | .window _ => none
  | .ranges _ => none
  | .faultans _ => none
  | .ownerCreate _ _ => none
  | .ownerRetire _ => none
  | .partitionReady _ => none
  | .seamjoin _ => none
  | .attestationRequest _ => none
  | .rdmaWrite _ _ _ => none
  | .rdmaRead _ _ _ => none
  | .kernelPlacement _ _ => none
  | .priorityPreemption _ _ => none
  | .gangPreemption _ _ => none
  | .kernelResume _ _ => none
  | .transferStart _ _ => none
  | .transferChunkLanding _ _ _ => none
  | .transferCancellation _ _ => none
  | .mzeroExecute _ _ => none
  | .mbldExecute _ _ => none
  | .mmulExecute _ _ => none
  | .mdrainExecute _ _ => none
  | .remoteMatrixCommand _ _ => none
  | .collectiveComplete _ _ _ => none
  | .collectiveTimeout _ _ => none
  | .bwaitTimeout _ _ => none
  | .sleepTimeout _ _ => none
  | .wfiTimeout _ _ => none
  | .xwaitTimeout _ _ => none
  | .carrywTimeout _ _ => none
  | .leaseExpiry _ _ => none
  | .remotePackedStore _ => none
  | .arbitrationRound _ _ => none
  | .gets _ _ => none
  | .getm _ _ => none
  | .upgrade _ _ => none
  | .puts _ _ => none
  | .putm _ _ => none
  | .atomic _ _ => none
  | .write _ _ => none
  | .dirEvict _ => none
  | .recallLine _ => none
  | .flush _ => none
  | .reclassify _ => none
  | .fwdtagConsume _ _ => none
  | .inv _ _ => none
  | .fwdS _ _ => none
  | .fwdM _ _ => none
  | .update _ _ => none
  | .dieRecall _ _ => none
  | .ack _ _ => none
  | .data _ _ => none
  | .seamIntervalExpiry _ => none
  | .seamCommit _ => none
  | .uncorrectableError _ => none
  | .rollback _ => none
  | .directoryEntryError _ _ => none
  | .patrolScrub _ => none
  | .refreshManagement _ _ => none
  | .coreSparing _ => none
  | .sliceSparing _ _ => none
  | .pseudoChannelSparing _ => none
  | .lysaUpdate _ _ => none
  | .partnerDetected _ => none
  | .linkTrained _ _ => none
  | .linkFault _ _ => none
  | .rtlimitExpiry _ => none
  | .linkRepair _ => none
  | .uePortFault _ => none
  | .dataFlit _ _ => none
  | .ackFlit _ _ => none
  | .nakFlit _ _ => none
  | .trainingFlit _ _ => none
  | .flitResendLimit _ => none
  | .carryArrival _ => none
  | .carryResend _ _ => none
  | .carryAcknowledgement _ _ _ => none
  | .powerOn => none
  | .railFault _ => none
  | .powerLimit => none
  | .powerRecovery => none
  | .thermalThrottle _ => none
  | .thermalRecovery _ => none
  | .thermalTrip _ => none
  | .watchdogExpiry _ => none
  | .wdogKick _ _ => none
  | .plbFlush _ => none
  | .bmReset => none
  | .bypass => none
  | .idcode => none
  | .samplePreload _ => none
  | .extest _ => none
  | .partnerLost _ => none
  | .idleFlit _ _ => none

/-- The bytes of a well-formed instruction; an event has none. -/
def encode (i : Instr) : List Byte :=
  match i.word with
  | some w => wordBytes i.len w
  | none => []

end Sys2Proof
end

