-- ==== Sys2Proof/Machine/Table.lean ====
section
/-!
DEFINITION. Sys2Proof/Machine/Table.lean: finite maps as sorted lists. Keys rise strictly and no entry holds the
default, so equal maps are equal lists; memory is the table whose default is the byte 0.
-/

namespace Sys2Proof.Machine

/-- A finite map from Nat, everything unlisted holding a default. -/
abbrev Table (α : Type) := List (Nat × α)

/-- What the table holds at k. -/
def getT {α : Type} (d : α) : Table α → Nat → α
  | [], _ => d
  | (k', v) :: rest, k => if k = k' then v else getT d rest k

/-- Put v at k; putting the default there removes the entry. -/
def setT {α : Type} [DecidableEq α] (d : α) : Table α → Nat → α → Table α
  | [], k, v => if v = d then [] else [(k, v)]
  | (k', v') :: rest, k, v =>
    if k < k' then (if v = d then (k', v') :: rest else (k, v) :: (k', v') :: rest)
    else if k = k' then (if v = d then rest else (k, v) :: rest)
    else (k', v') :: setT d rest k v

/-- The canonical form: keys above `lo` rise strictly and no entry holds the default. -/
def wfFrom {α : Type} [DecidableEq α] (d : α) : Nat → Table α → Bool
  | _, [] => true
  | lo, (k, v) :: rest => decide (lo ≤ k) && decide (v ≠ d) && wfFrom d (k + 1) rest

/-- The canonical form of a whole table. -/
def wfT {α : Type} [DecidableEq α] (d : α) (t : Table α) : Bool := wfFrom d 0 t

/-- The keys of a table, from `lo`, rise strictly. -/
def risesFrom {α : Type} : Nat → Table α → Bool
  | _, [] => true
  | lo, (k, _) :: rest => decide (lo ≤ k) && risesFrom (k + 1) rest

/-- The keys of a table rise strictly, so that each is listed once. -/
def risesT {α : Type} (t : Table α) : Bool := risesFrom 0 t

/-- Change what the table holds at k. -/
def modT {α : Type} [DecidableEq α] (d : α) (t : Table α) (k : Nat) (f : α → α) : Table α :=
  setT d t k (f (getT d t k))

/-- Put a number into a list without repeats. -/
def insertN (x : Nat) (l : List Nat) : List Nat := if x ∈ l then l else x :: l

/-- Put every number of a list into another without repeats. -/
def insertAll (xs l : List Nat) : List Nat := xs.foldl (fun l x => insertN x l) l

/-- Do two lists share a member? -/
def meets (xs ys : List Nat) : Bool := xs.any (fun x => ys.contains x)

end Sys2Proof.Machine
end

