-- ==== Sys2Proof/Machine/State.lean ====
section
/-!
DEFINITION. Sys2Proof/Machine/State.lean: everything the spec gives the machine, as plain data, and the state after reset.
Memory is held by physical location in one flat key space (Machine/Memory.lean); caches hold their tags
and what can be seen beside it (software-managed copies, older bytes behind marks, protocol states, translations).
-/

namespace Sys2Proof.Machine

/-! ### The context (02 R18 to R23, 06 R130 to R143) -/

/-- The life cycle of a context (06 R130). -/
inductive Life where
  | free | ready | running | waiting | parked | spilled | runahead | faulted | retired
  deriving DecidableEq, Repr

/-- What a context that does not run is held by (06 R130, and the entries that name the WAITING state). -/
inductive WaitKind where
  | nothing | commit | bwait | sleep | xwait | xcancel | wfi | carryw | seam | transferPlace | replayEntry | collective
  | matrix | rangeSwitch | reseed | homeBlock | scoreboard | lockedSet | fence | remoteCommand | syscall | faultBatch | cloak | foreignDomain
  | pageBlock
  deriving DecidableEq, Repr

/-- A wait: its kind, the instruction that waits as it was renamed, the register its end writes, its deadline in GCT ticks if
it has one, and what it waits on. -/
structure Wait where
  kind : WaitKind := .nothing
  ins : Option Instr := none
  rd : Reg := 0
  deadline : Option Nat := none
  a : Nat := 0
  b : Nat := 0
  deriving DecidableEq, Repr

/-- One instruction of a captured repetition body: its address, its length and what it decodes to (05 R127). -/
structure BodyIns where
  addr : Nat
  len : Nat
  bits : Nat
  ins : Instr
  deriving DecidableEq, Repr

/-- The destination a lookahead window protects (02 R43). -/
inductive Dest where
  | reg (r : Reg)
  | window (h : HReg) (space : Nat) (bytes : List (Nat × Nat))
  deriving DecidableEq, Repr

/-- An open lookahead window: the long-latency instruction's address, its destination, and how many instructions the
window still covers (02 R44). -/
structure Window where
  addr : Nat
  dest : Dest
  left : Nat
  deriving DecidableEq, Repr

/-- The per-thread state that a squash, a pre-emption and a rollback restore together: registers, handles, pc, the C-scope
control registers (06 R137), the copy shadow fields (18 R350) and the repetition state (05 R129). -/
structure Arch where
  regs : Vector Word 16
  handles : Vector HWord 8
  pc : Word
  status : Word
  cause : Word
  epc : Word
  tval : Word
  scratch : Word
  repBase : Word
  repCnt : Word
  fcsr : Word
  tstamp : Word
  fwdTag : Word
  mcast : Word
  chunkStat : Word
  shadow : Vector Word 13
  /-- the pc is inside the active repetition, whose body is `body` -/
  inRep : Bool
  body : List BodyIns
  windows : List Window
  /-- SEND, SENDM and SPAWN executed since allocation (08 R171) -/
  msgIndex : BitVec 32
  /-- collectives executed since allocation (14 R275) -/
  collIndex : BitVec 32
  /-- carries executed since allocation (24 R418) -/
  carryIndex : BitVec 32
  /-- the lowest core that refused this context's last SENDM that raised BOUNDS (08 R193) -/
  refused : Option Nat
  /-- blocks begun since the last successful COMPOSE, and the instructions of the block in progress (15 R287, R297) -/
  cloakBlocks : BitVec 32
  cloakIns : Nat
  deriving DecidableEq, Repr

/-- Every field zero: what allocation leaves (06 R131). -/
def Arch.zero : Arch :=
  { regs := Vector.replicate 16 0, handles := Vector.replicate 8 0, pc := 0, status := 0, cause := 0, epc := 0, tval := 0
    scratch := 0, repBase := 0, repCnt := 0, fcsr := 0, tstamp := 0, fwdTag := 0, mcast := 0, chunkStat := 0
    shadow := Vector.replicate 13 0, inRep := false, body := [], windows := [], msgIndex := 0, collIndex := 0
    carryIndex := 0, refused := none, cloakBlocks := 0, cloakIns := 0 }

/-- A write of a chunk to a register outside its context (06 R139): the register, what it held before, the write's number among those to the register, and
that of the write before it. -/
structure RegUndo where
  index : Nat
  old : Word
  seq : Nat
  prev : Nat
  deriving DecidableEq, Repr

/-- The chunk in progress (09 R194 to R200): instructions so far, buffered writes by location, the lines read and written
by location, the virtual lines written, the pages used, the virtual line each written line was reached by, the forward tags of its writes, the bits of packed bytes it writes (mask, plus 256 times one more than the core that performs a remote one, 09 R205), the lines of SWM, WO and UPD
ranges it writes, the lines whose write permission its core holds (10 R227), the registers outside the context it changed, newest first, the watch entries it frees, the state to go back to on a squash, the consecutive attempts before this one, and whether it runs locked. `full` marks a chunk that has ended and
waits for its commit, and `next` counts the instructions executed since, which belong to the next chunk; `fpx` is the trap value of the floating-point exception that its commit takes (06 R147). The limits are those in force when the chunk began (09 R195). -/
structure Chunk where
  ins : Nat
  writes : Table (Option Byte)
  readLines : List Nat
  writeLines : List Nat
  vaLines : List Nat
  pages : List Nat
  lineVa : Table (Option Nat)
  tags : Table (Option Nat)
  parts : Table Nat
  swmLines : List Nat
  woLines : List Nat
  updLines : List Nat
  ownLines : List Nat
  kUndo : List RegUndo
  unwatched : List Nat
  start : Arch
  startIns : Nat
  attempts : Nat
  locked : Bool
  full : Bool
  next : Nat
  fpx : Option Word
  releases : Bool
  maxIns : Nat
  maxLines : Nat
  deriving DecidableEq, Repr

/-- A new chunk that begins at this state. -/
def Chunk.fresh (a : Arch) : Chunk :=
  { ins := 0, writes := [], readLines := [], writeLines := [], vaLines := [], pages := [], lineVa := [], tags := [], parts := []
    swmLines := [], woLines := [], updLines := [], ownLines := [], kUndo := [], unwatched := [], start := a, startIns := 0, attempts := 0, locked := false, full := false, next := 0, fpx := none
    releases := false, maxIns := 512, maxLines := 64 }

/-- One record of a fault batch (22 R387). -/
structure FaultRecord where
  va : Nat
  kind : Nat
  flags : Nat
  who : Nat
  knum : Nat
  aux : Nat
  deriving DecidableEq, Repr

/-- A context past a page fault: the checkpoint, what is invalid, and the records so far (22 R386). -/
structure Runahead where
  checkpoint : Arch
  badRegs : List Reg
  badHandles : List HReg
  records : List FaultRecord
  deriving DecidableEq, Repr

/-- A task key (08 R181): a root key is a launched thread's group index and rank; a task's key is its stamp, the key of the context
that sent it and that context's message index. -/
inductive TaskKey where
  | root (group rank : Nat)
  | task (stamp : Nat) (sender : TaskKey) (index : Nat)
  deriving DecidableEq, Repr

/-- The life of a cloak (15 R284). -/
inductive CloakState where
  | unbound | composing | bound | releasing
  deriving DecidableEq, Repr

/-- A context's cloak object: its state, its member cores, member 0 first, and LOST (15 R284, R297). -/
structure Cloak where
  state : CloakState := .unbound
  members : List Nat := []
  lost : Bool := false
  deriving DecidableEq, Repr

/-- A FENCE.X condition that still holds later work (09 R203, R217): whether it holds the thread's later instructions (core) and
its hand-offs to the copy, matrix, collective and link paths, and the transfers, matrix commands and link writes it waits for. -/
structure Condition where
  core : Bool
  copy : Bool
  matrix : Bool
  collective : Bool
  link : Bool
  transfers : List Nat
  commands : List Nat
  writes : List Nat
  deriving DecidableEq, Repr

/-- The message a handler context was started for: its sender, its stamp, its payload block and whether it is a task in
free mode (08 R179 to R183). -/
structure Handling where
  sender : Nat
  stamp : Nat
  key : TaskKey
  block : Nat
  freeMode : Bool
  firstChunk : Bool
  deriving DecidableEq, Repr

/-- A send under way (08 R178, R187, R190): its destinations, the image as sent, its message index, the copies that have not been answered or
placed in the replay window, those refused so far, and those NACKed with no entry of the window free. -/
structure Sending where
  dests : List Nat
  image : List Byte
  index : Nat
  left : List Nat
  refused : List Nat
  nacked : List Nat
  deriving DecidableEq, Repr

/-- A context slot (06 R130): the thread's state, its place in its kernel and what it waits for. -/
structure Context where
  life : Life
  wait : Wait
  arch : Arch
  chunk : Chunk
  runahead : Option Runahead
  handling : Option Handling
  owner : Nat
  domain : Nat
  knum : Nat
  group : Nat
  rank : Nat
  issueSlot : Nat
  cloak : Cloak
  conditions : List Condition
  sending : Option Sending
  /-- a held ROLLBACK notice (23 R403) -/
  rollbackNotice : Option Nat
  /-- stopped with its kernel (06 R149) -/
  preempted : Bool
  deriving DecidableEq, Repr

/-- A free context slot. -/
def Context.free : Context :=
  { life := .free, wait := {}, arch := Arch.zero, chunk := Chunk.fresh Arch.zero, runahead := none, handling := none
    owner := 0, domain := 0, knum := 0, group := 0, rank := 0, issueSlot := 0, cloak := {}, conditions := [], sending := none
    rollbackNotice := none, preempted := false }

/-! ### Translation (22 R377 to R385) -/

/-- A valid leaf of the page table: its extent, where its entry lies, and its fields (22 R377). -/
structure Leaf where
  va : Nat
  size : Nat
  entry : Nat
  cls : Nat
  pcore : Nat
  gdom : Nat
  grights : Nat
  domain : Nat
  rights : Nat
  home : Nat
  frame : Nat
  h : Bool
  p : Bool
  deriving DecidableEq, Repr

/-- A region an owner has locked with XLPIN (22 R382): its pages a shoot-down has dropped make it BROKEN. -/
structure LockedRegion where
  owner : Nat
  base : Nat
  size : Nat
  data : Bool
  dropped : List Nat
  deriving DecidableEq, Repr

/-! ### Coherence (10 R227 to R239, 13 R269) -/

/-- A home's directory entry for a line: protocol state, die sharer mask, owner die (10 R227). -/
structure DirEntry where
  state : Nat
  sharers : Nat
  owner : Option Nat
  deriving DecidableEq, Repr

/-- A protocol message between a home and a die about a line (10 R234, 13 R270): its kind is a code of MSG, or 16 for
DATA from the home, 17 for the answer of a receiver, 18 for a grant without data and 19 for data from an owner. `die` is where it arrives, `req`
the requesting core, `grant` the class that an answer gives the requester (1 read-only, 2 writable), and `toOwner` marks the message of an FWD that goes
to the recorded owner. -/
structure ProtoMsg where
  kind : Nat
  line : Nat
  die : Nat
  req : Nat
  grant : Nat := 0
  toOwner : Bool := false
  deriving DecidableEq, Repr

/-- An event that waits at a busy line (10 R234): event code, line, requesting core. -/
structure ProtoEvent where
  event : Nat
  line : Nat
  req : Nat
  deriving DecidableEq, Repr

/-- A line with an outstanding WAIT: how many receivers still owe an answer, whether data are awaited, and whether an action waits for the line's
leases (10 R234). -/
structure Busy where
  line : Nat
  answers : Nat
  data : Bool
  req : Nat
  lease : Bool := false
  deriving DecidableEq, Repr

/-- A forward-tag mark on a line in its slice (10 R229): the consumer, when it was placed, and the virtual line. -/
structure FwdMark where
  core : Nat
  placed : Nat
  vline : Nat
  deriving DecidableEq, Repr

/-- A core's private copy of a line of an SWM range: its virtual line, the core whose L1D holds it, which is another member of a cloak for some lines (15 R289),
what the core sees at each byte it holds, dirty bytes apart (10 R237, R238). -/
structure SwmLine where
  vline : Nat
  at_ : Nat
  clean : List Byte
  dirty : Table (Option Byte)
  deriving DecidableEq, Repr

/-- One set of an L1D: the line numbers its eight ways hold, and its eviction count (10 R222, 11 R251). An owner's ways of a snoop-filter set have
the same shape (10 R227, 13 R269). -/
structure L1Set where
  ways : List (Option Nat)
  evictions : Nat
  deriving DecidableEq, Repr

/-- A line an L2 slice holds: its number, and whether it is pinned (22 R382). -/
structure L2Way where
  line : Nat
  pinned : Bool
  deriving DecidableEq, Repr

/-- One set of an L2 slice: its 16 ways and its eviction count (10 R222, 11 R251). -/
structure L2Set where
  ways : List (Option L2Way)
  evictions : Nat
  deriving DecidableEq, Repr

/-- A REGSW under way: the core whose CR_RANGEBASE names the table, the entry, and the slot it moves to (10 R239). -/
structure RangeSwitch where
  core : Nat
  index : Nat
  slot : Nat
  deriving DecidableEq, Repr

/-- A block of an extent at its homes, while copies in flight to or from it complete (22 R389, R390): the core and slot that asked for it, the extent, and for a
migration the page's new frame and home and the class it had; without one it is a SHOOT.FLUSH. -/
structure PageBlock where
  core : Nat
  slot : Nat
  base : Nat
  size : Nat
  move : Option (Nat × Nat × Nat)
  deriving DecidableEq, Repr

/-- Everything about cached copies that a program can see or that a step of the table acts on. -/
structure Coherence where
  dir : Table (Option DirEntry)
  /-- the tags of the L1D caches: core * 512 + set (10 R222) -/
  l1 : Table L1Set
  /-- the tags of the L2 slices: (die * 64 + slice) * 1024 + set (10 R222) -/
  l2 : Table L2Set
  /-- the ways an owner has in a die's snoop filter: (owner * 4 + die) * 16384 + set (10 R227, 13 R269) -/
  filters : Table L1Set
  /-- which cores' L1D caches hold a line that is tracked (10 R227) -/
  holders : Table (List Nat)
  /-- the bytes that memory and the slice hold of a line that some die holds dirty (13 R271) -/
  behind : Table (Option (List Byte))
  /-- leases: core * 2^64 + line, and the GCT tick at which each ends (10 R237) -/
  leases : Table (Option Nat)
  /-- memory's own bytes of a line whose newest bytes are dirty in a forward-marked slice line (10 R229) -/
  stale : Table (Option (List Byte))
  marks : Table (Option FwdMark)
  /-- lines of WO ranges in state WRITTEN (10 R237) -/
  written : List Nat
  /-- SWM copies: core * 2^64 + line -/
  swm : Table (Option SwmLine)
  /-- ranges that are SWITCHING (10 R239) -/
  switches : List RangeSwitch
  msgs : List ProtoMsg
  busy : List Busy
  queue : List ProtoEvent
  deriving DecidableEq, Repr

/-! ### A core (06 R135, R137, R142; 09 R219) -/

/-- The K-scope control registers: one set per kernel on each core it holds (06 R137). -/
structure KRegs where
  tvec : Word
  seed : Word
  kseed : Word
  backoff : Word
  hboundLo : Word
  hboundHi : Word
  waitTmo : Word
  btmo : Word
  xtmo : Word
  chunkCtl : Word
  flogBase : Word
  tdeleg : Word
  deriving DecidableEq, Repr

/-- CR_CHUNKCTL resets to MAXINS 512, MAXLINES 64 (06 R137, 09 R195). -/
def KRegs.reset : KRegs :=
  { tvec := 0, seed := 0, kseed := 0, backoff := 0, hboundLo := 0, hboundHi := 0, waitTmo := 0, btmo := 0, xtmo := 0
    chunkCtl := 0x400200, flogBase := 0, tdeleg := 0 }

/-- An armed watch entry (09 R219): its number, the context slot it belongs to, the virtual line, and what happened. -/
structure Watch where
  entry : Nat
  slot : Nat
  line : Nat
  fired : Bool
  reported : Bool
  deriving DecidableEq, Repr

/-- An entry of a receive queue (08 R171, R174): the message, the sending core and the task key it would have. -/
structure QueueEntry where
  handler : Nat
  stamp : Nat
  payload : List Byte
  sender : Nat
  key : TaskKey
  deriving DecidableEq, Repr

/-- Whether a receive queue accepts: EMPTY, OPEN and FULL are `active` with 0, 1 to 63 and 64 entries (08 R174). -/
inductive QueueMode where
  | active | closed | drained
  deriving DecidableEq, Repr

/-- A message copy in a core's replay window (08 R178): its destination, the image, who sent it and from where, the times it
has been NACKed, and when it is resent; `none` until it has been transmitted. -/
structure SendEntry where
  dst : Nat
  image : List Byte
  owner : Nat
  knum : Nat
  slot : Nat
  group : Nat
  rank : Nat
  pc : Nat
  key : TaskKey
  attempts : Nat
  due : Option Nat
  deriving DecidableEq, Repr

/-- The state of a transfer (18 R348). -/
inductive TransferState where
  | launched | inFlight | complete | faulted | cancelled
  deriving DecidableEq, Repr

/-- A transfer the copy engine remembers (18 R348 to R359): the context that launched it, its shadow fields, the chunks that have
landed, been started, had their bytes performed, or been acknowledged by a peer, the chunks that wait on a fault batch, the forward-tagged lines it
has read with when their marks were placed, a cancellation
asked for, how the transfer is ending (0 not, 2 by a fault, 3 by a cancellation), and the fault kept for XSTAT. -/
structure Transfer where
  tid : Nat
  state : TransferState
  slot : Nat
  owner : Nat
  domain : Nat
  /-- the privilege level of the launch (22 R378) -/
  level : Nat
  knum : Nat
  group : Nat
  rank : Nat
  pc : Nat
  shadow : Vector Word 13
  order : Nat
  landed : List Nat
  started : List Nat
  performed : List Nat
  acked : List Nat
  waiting : List (Nat × Nat)
  tagged : List (Nat × Nat)
  cancelAsked : Bool
  ending : Nat
  faddr : Nat
  fcause : Nat
  deriving DecidableEq, Repr

/-- A carry slot's arrival (24 R420): the peer module, its sending core, and the bytes. -/
structure Carry where
  peer : Nat
  srcCore : Nat
  bytes : List Byte
  deriving DecidableEq, Repr

/-- A carry slot: what it holds, EMPTY being none, and its arrival queue (24 R420). -/
structure CarrySlot where
  full : Option Carry
  arrivals : List Carry
  deriving DecidableEq, Repr

/-- A core: its control registers, carve-out, holder, protection lookaside buffer and watch table; its receive queue, NEXT and
replay window with their counters (08); its copy engine's transfers (18); its matrix flags (17 R337) and carry slots (24). -/
structure Core where
  k : KRegs
  plbEn : Bool
  rangeBase : Word
  seamCtl : Word
  carveCur : Nat
  carveReq : Nat
  carvePend : Bool
  owner : Nat
  domain : Nat
  knum : Nat
  group : Nat
  plb : List Leaf
  /-- the lines the L1 instruction cache may hold: by virtual line, the line of memory and its bytes as they were fetched (06 R154) -/
  l1i : Table (Option (Nat × List Byte))
  watches : List Watch
  queueMode : QueueMode
  queue : List QueueEntry
  next : BitVec 48
  window : List SendEntry
  nacks : Nat
  lost : Nat
  tidSeq : Nat
  launches : Nat
  transfers : List Transfer
  matFlags : BitVec 5
  carries : Vector CarrySlot 4
  /-- the spare of the cluster has taken this core's id (23 R408) -/
  spared : Bool
  deriving DecidableEq, Repr

/-- A core nothing has been placed on. CR_SEAMCTL resets to LOGFULL 192 and INTERVAL 1,000,000 (23 R410). -/
def Core.reset : Core :=
  { k := KRegs.reset, plbEn := false, rangeBase := 0, seamCtl := 0xC0000F4240, carveCur := 1, carveReq := 0
    carvePend := false, owner := 0, domain := 0, knum := 0, group := 0, plb := [], l1i := [], watches := []
    queueMode := .drained, queue := [], next := 0, window := [], nacks := 0, lost := 0, tidSeq := 0, launches := 0
    transfers := [], matFlags := 0, carries := Vector.replicate 4 { full := none, arrivals := [] }, spared := false }

/-! ### Clusters: the matrix unit (17 R328 to R335) -/

/-- The kinds of matrix command; an MCTX has had its effect when it enters the queue (17 R335) and only holds its entry. -/
inductive MatOp where
  | mbld | mmul | mdrain | mzero | mctx
  deriving DecidableEq, Repr

/-- An accepted matrix command: a number of the model's own that names it, the requester core and context slot, whether it came from a
remote requester, its handles, and the formats and drain mode it was accepted under. -/
structure MatCmd where
  id : Nat
  op : MatOp
  core : Nat
  slot : Nat
  remote : Bool
  hd : HWord
  ha : HWord
  hb : HWord
  hc : HWord
  first : Bool
  last : Bool
  release : Bool
  aFmt : Nat
  bFmt : Nat
  mode : Nat
  deriving DecidableEq, Repr

/-- The state of an accumulation slot (17 R334). -/
inductive AccState where
  | free | empty | accumulating | ready
  deriving DecidableEq, Repr

/-- An accumulation slot: accepted state, holder, rows M and block count k (17 R333, R334). -/
structure AccSlot where
  state : AccState
  holder : Nat
  m : Nat
  k : Nat
  deriving DecidableEq, Repr

/-- A format context: A format, B format, drain mode (17 R335). -/
structure FormatContext where
  aFmt : Nat
  bFmt : Nat
  mode : Nat
  deriving DecidableEq, Repr

/-- A cluster's matrix unit: the accepted slot states, the B slots' formats, the format contexts by cluster core index, the accepted commands
oldest first, the flags of remote commands that have completed, each slot's block count as executed, and the core that loaded each B slot, as one more than its
id. -/
structure Cluster where
  acc : Vector AccSlot 4
  done : Vector Nat 4
  bslots : Table Nat
  bcores : Table Nat
  contexts : Vector FormatContext 8
  queue : List MatCmd
  remoteDone : List (Nat × BitVec 5)
  deriving DecidableEq, Repr

def FormatContext.reset : FormatContext := { aFmt := 1, bFmt := 1, mode := 0 }

/-- Every accumulation slot FREE, every B slot unloaded (17 R330, R335). -/
def Cluster.reset : Cluster :=
  { acc := Vector.replicate 4 { state := .free, holder := 0, m := 0, k := 0 }, done := Vector.replicate 4 0, bslots := [], bcores := []
    contexts := Vector.replicate 8 FormatContext.reset, queue := [], remoteDone := [] }

/-- A die: its global counter (26 R431), its home agent's translation cache (22 R380), its capability key (17 R345), its watchdog's
PERIOD and the tick of the last kick (26 R434), and its core clock in MHz (26 R430). -/
structure Die where
  gct : Nat
  tcache : List Leaf
  capKey : Word
  wdogPeriod : BitVec 32
  wdogKick : Nat
  clock : Nat
  deriving DecidableEq, Repr

def Die.reset : Die := { gct := 0, tcache := [], capKey := 0, wdogPeriod := 0, wdogKick := 0, clock := 2100 }

/-- A protocol table in a slot (10 R232). -/
structure ProtoTable where
  kind : Nat
  init : Nat
  attr : List Nat
  action : List Nat
  deriving DecidableEq, Repr

/-- A fault batch (22 R387): its owner and id, its records, the contexts and transfers that wait on it, and whether it has
been written to the owner's log, counted in WAITS, forwarded to the host driver, and ended by a REPLAY. -/
structure Batch where
  owner : Nat
  id : Nat
  core : Nat
  records : List FaultRecord
  ctxs : List (Nat × Nat)
  transfers : List (Nat × Nat)
  written : Bool
  counted : Bool
  forwarded : Bool
  ended : Bool
  /-- the GCT of die 0 as its END record was written (11 R248) -/
  tick : Nat := 0
  deriving DecidableEq, Repr

/-! ### Owners, kernels and groups (11 R244, R245, 07 R157 to R164, 14 R272) -/

/-- An owner's life (11 R245). -/
inductive OwnerState where
  | created | active | reseeding | retired
  deriving DecidableEq, Repr

/-- An owner: the fields of its record (11 R244), its state, its two seeds (R249), its RDMA windows (24 R419) and where its
fault messages go (R248). -/
structure Owner where
  id : Nat
  domain : Nat
  state : OwnerState
  seed : Word
  placementSeed : Word
  clusters : Nat
  slices : List Nat
  sfWays : Nat
  dirWays : Nat
  pch : List Nat
  kmax : List Nat
  cred : Nat
  flogBase : Nat
  knumNext : Nat
  /-- registered windows: index, base, size, rights -/
  windows : List (Nat × Nat × Nat × Nat)
  driver : Option Nat
  /-- the OWNER_RETIRE under way (R245) -/
  retire : Option Request
  /-- does the RESEED under way relocate (11 R258)? -/
  remap : Bool := false
  deriving DecidableEq, Repr

/-- A kernel's life (07 R164); DEFINED is a node in memory and never a kernel of the table. -/
inductive KernelState where
  | defined | queued | placing | running | draining | preempted | faulted | done | aborted
  deriving DecidableEq, Repr

/-- The KSTATE row number of 07 R169. -/
def KernelState.code : KernelState → Nat
  | .defined => 0 | .queued => 1 | .placing => 2 | .running => 3 | .draining => 4 | .preempted => 5 | .faulted => 6
  | .done => 7 | .aborted => 8

/-- A group's life (14 R272). -/
inductive GroupState where
  | forming | placed | running | suspended | released
  deriving DecidableEq, Repr

/-- A placed group: its index, its state, its cores in group-core-index order (07 R166), its retired ranks, and the rank that its failed
collective instance reports as retired (14 R277). -/
structure Group where
  index : Nat
  state : GroupState
  cores : List Nat
  retired : List Nat
  lost : Option Nat
  deriving DecidableEq, Repr

/-- A node of the launch chain as lysa read it (07 R158): its address, whether it bounds a fault or seam domain, its effective
core budget. -/
structure ChainNode where
  addr : Nat
  faultDom : Bool
  seamDom : Bool
  cores : Nat
  deriving DecidableEq, Repr

/-- What lysa keeps in the second tier for a kernel pre-empted for priority (07 R162): its contexts by key, its cores, the matrix units it used, the
clusters that were its alone, the local-memory bytes that were its own, and the piece of the tier that lysa has reserved for them (DESIGN CHOICE, log 200). -/
structure Spill where
  ctxs : List (Nat × Context) := []
  cores : List (Nat × Core) := []
  units : List (Nat × Cluster) := []
  sole : List Nat := []
  bytes : List Host.Cell := []
  area : Nat := 0
  areaSize : Nat := 0
  deriving DecidableEq, Repr

/-- A kernel: its number and state, its effective fields (07 R157, R159), what it holds, its fault record's progress (R439) and
how it will end. No rule draws by the caps `l2slices` and `hbmpc`: DEDUCED, log 201. -/
structure Kernel where
  owner : Nat
  knum : Nat
  state : KernelState
  node : Nat
  chain : List ChainNode
  tag : Nat
  chand : Nat
  source : Source
  entry : Nat
  args : List Nat
  hlo : Nat
  hhi : Nat
  threads : Nat
  flags : Nat
  prio : Nat
  cgran : Nat
  dieMask : Nat
  seed : Option Nat
  gcores : Nat
  ngroups : Nat
  l2slices : Nat
  hbmpc : Nat
  bsmib : Nat
  tvec : Nat
  chunkCtl : Nat
  tdeleg : Nat
  backoff : Nat
  waitTmo : Nat
  btmo : Nat
  xtmo : Nat
  tcmLen : Nat
  tcmImg : Nat
  spadImg : Nat
  spadLen : Nat
  frecLen : Nat
  frecBuf : Nat
  kseed : Word
  held : List Nat
  groups : List Group
  nfault : Nat
  nentry : Nat
  dropped : Nat
  nextEntry : Nat
  firstFault : Bool
  aborting : Bool
  status : Nat
  forPriority : Bool
  completeSent : Bool
  seamDomain : Nat
  spill : Spill
  /-- does it wait for a seam domain's id only (23 R396)? -/
  idWait : Bool := false
  deriving DecidableEq, Repr

/-! ### Arbiters (11 R252, R253) -/

/-- A request that waits at a shared arbiter: class, arbiter and owner, oldest first in the list that holds it. -/
structure ArbRequest where
  cls : Nat
  arbiter : Nat
  owner : Nat
  deriving DecidableEq, Repr

/-! ### Seam domains (23) -/

/-- The state of a domain's next seam (23 R397). -/
inductive SeamState where
  | opened | committing | committed | rollingBack
  deriving DecidableEq, Repr

/-- An undo entry: the line's location, the owner and virtual line it was written through where it has one, and its old bytes (23 R400). -/
structure UndoEntry where
  line : Nat
  owner : Nat
  va : Option Nat
  old : List Byte
  deriving DecidableEq, Repr

/-- What a seam saves of a core: its receive queue, replay window, carry slots, transfers, watch entries, and its registers (23 R399). -/
structure CoreCheckpoint where
  core : Nat
  unit : Core
  deriving DecidableEq, Repr

/-- What a seam saves of a cluster's matrix unit (23 R399). -/
structure ClusterCheckpoint where
  cluster : Nat
  unit : Cluster
  deriving DecidableEq, Repr

/-- An input that entered a domain from outside it (23 R406): a message, a carry, an RDMA write, or an order about one of its kernels. -/
inductive Input where
  | message (core : Nat) (entry : QueueEntry)
  | carry (packet : CarryPacket)
  | rdma (owner va : Nat) (bytes : List Byte)
  | abort (owner knum : Nat)
  | preempt (owner knum : Nat) (resume : Bool)
  deriving DecidableEq, Repr

/-- A checkpoint: the domain's kernels as they stood, the requests its threads had made that lysa had not served, its contexts by key, its
cores and matrix units, its cores' copies of SWM lines, and the WO lines that were WRITTEN. -/
structure Checkpoint where
  kernels : List Kernel
  requests : List Request
  swm : Table (Option SwmLine)
  written : List Nat
  ctxs : List (Nat × Context)
  cores : List CoreCheckpoint
  clusters : List ClusterCheckpoint
  deriving DecidableEq, Repr

/-- A seam whose checkpoint has been written and that has not committed (23 R399 step 5): the checkpoint, and how many undo entries and inputs are older than it. -/
structure SeamWrite where
  checkpoint : Checkpoint
  undo : Nat
  inputs : Nat
  deriving DecidableEq, Repr

/-- A seam domain: its owner and root kernel, sequence number and state, the tag of the last committed seam and of the next, its
control fields, when its interval began, its undo log oldest first, the log's place in the second tier and its size in entries, the last checkpoint, the inputs
of the interval, whether a trigger has arrived, the seam that is being taken, the peer modules it is joined with and those of them that have written
their part of that seam's checkpoint (23 R396 to R410). -/
structure SeamDomain where
  id : Nat
  owner : Nat
  root : Nat
  seq : BitVec 64
  state : SeamState
  lastTag : Word
  nextTag : Word
  interval : Nat
  logFull : Nat
  began : Nat
  undo : List UndoEntry
  logBase : Nat
  capacity : Nat
  checkpoint : Checkpoint
  inputs : List Input
  triggered : Bool
  pending : Option SeamWrite
  peers : List Nat
  ready : List Nat
  deriving DecidableEq, Repr

/-! ### Links (24) -/

/-- The state of a port (24 R412). -/
inductive PortState where
  | down | training | up | retraining | degraded | failed
  deriving DecidableEq, Repr

/-- A kept data flit: its sequence number, its 256 bytes, and how often it has been resent (24 R415). -/
structure KeptFlit where
  seq : BitVec 16
  bytes : List Byte
  resent : Nat
  deriving DecidableEq, Repr

/-- A logical port (24 R412 to R417): the peer module training reported and the port there, the peer the platform configuration expects,
when RTLIMIT expires, the next SEQ to send and the last one received in order, the credit, the replay buffer, the
payloads that wait to be sent, the packet bytes passed to the module, and the flits answered with. -/
structure Port where
  state : PortState
  peer : Option Nat
  peerPort : Nat
  expected : Option Nat
  /-- the spares it has been bound to, the newest first (24 R413) -/
  spares : List Nat
  deadline : Nat
  sendSeq : BitVec 16
  recvSeq : BitVec 16
  credit : Nat
  buffer : List KeptFlit
  pending : List (List Byte)
  received : List Byte
  replies : List (List Byte)
  deriving DecidableEq, Repr

/-- A port after reset: DOWN (24 R412); no data flit has been received, so the last SEQ received in order is all ones. -/
def Port.reset : Port :=
  { state := .down, peer := none, peerPort := 0, expected := none, spares := [], deadline := 0, sendSeq := 0
    recvSeq := 0xFFFF, credit := 256, buffer := [], pending := [], received := [], replies := [] }

/-- How far a link-path write has come (24 R420, R422, 23 R406): held for its seam, sent, answered busy, waiting behind an earlier carry of its
pair, or lost with its port. -/
inductive CarryState where
  | held | sent | busy | behind | lost
  deriving DecidableEq, Repr

/-- A link-path write of a thread that has not been acknowledged (24 R420, R422, 09 R216). -/
structure LinkWrite where
  id : Nat
  core : Nat
  slot : Nat
  owner : Nat
  knum : Nat
  group : Nat
  rank : Nat
  pc : Nat
  number : BitVec 32
  port : Nat
  peer : Nat
  dstCore : Nat
  dstSlot : Nat
  seq : Nat
  bytes : List Byte
  state : CarryState
  attempts : Nat
  due : Nat
  domain : Nat
  /-- for a chunk of a link-page transfer: its TID, the chunk and its address in the peer's window -/
  transfer : Option (Nat × Nat × Nat)
  /-- the compute die by which its packets reach the port's I/O die (24 R418) -/
  via : Nat := 0
  deriving DecidableEq, Repr

/-- The module's links: its id, RTLIMIT, the ports (0 to 95 JSL, 96 to 99 Ultra Ethernet), the unacknowledged writes, and the pair sequence
numbers sent and received, packets that came before their turn, the answers given to peers' packets (24 R414 to R420), the module at the other
end of each spare port's cable, as the platform configuration gives it (24 R413), and the mismatches lysa has recorded: the port, and the id and port
number its peer reported (R417). -/
structure Links where
  moduleId : Nat
  rtlimit : Nat
  ports : Table Port
  writes : List LinkWrite
  sentSeq : Table Nat
  recvSeq : List (Nat × Nat × Nat × Nat)
  early : List CarryPacket
  answers : List (CarryPacket × CarryReply)
  spareCables : List (Nat × Nat)
  mismatches : List (Nat × Nat × Nat)
  deriving DecidableEq, Repr

/-! ### The platform (26) -/

/-- Supplies, bring-up and board management (26 R429 to R436): the rails that are up in their order and those out of regulation, BM_STATUS, whether the hottest
die is above its limit and the power at its own, the boundary cells, the image lysa runs, the fused security version that boot ROM has read, parts taken out of
service (23 R408), and the memory errors corrected (10 R226). -/
structure Platform where
  rails : Nat
  bad : List Nat
  stage : Nat
  bootFail : Bool
  trip : Bool
  wdog : Bool
  temp : Nat
  power : Nat
  hot : Bool
  limited : Bool
  cells : List Bool
  jtag : Nat
  lysaImage : List Byte
  fusedVersion : Nat
  sparedSlices : List (Nat × Nat)
  sparedPcs : List Nat
  corrected : Nat
  refreshes : Table Nat
  deriving DecidableEq, Repr

/-- A committed store of a packed element to another core's memory, not yet performed by the core that owns it (09 R205): the
byte's location, the bits it writes and their values. -/
structure PackedStore where
  core : Nat
  loc : Nat
  mask : Nat
  value : Byte
  deriving DecidableEq, Repr

/-- Bytes the module sends to an endpoint outside it; a seam domain's output is held until its seam commits (23 R406). -/
structure Output where
  endpoint : Nat
  bytes : List Byte
  domain : Nat
  held : Bool
  deriving DecidableEq, Repr

/-! ### The whole machine -/

/-- A write that lysa makes to an owner's memory, held until the seam domain that has a line of it open takes its next seam (23 R406): the protection domain, the
address and the bytes. -/
structure OwnerWrite where
  domain : Nat
  va : Nat
  bytes : List Byte
  deriving DecidableEq, Repr

/-- An RDMA operation some of whose packets have arrived (24 R419): has one failed, and what has been read. -/
structure RdmaOp where
  owner : Nat
  op : Nat
  failed : Bool
  data : List Byte
  deriving DecidableEq, Repr

/-- What moves next: an event of the table, one instruction of a context, time passing by a number of GCT ticks, lysa acting on a
kernel with a FAULTED context (07 R163), the end of a range's switch (10 R239), of an owner's RESEED (11 R258) or of a block (22 R389, R390), the turn of an
access that such a block held, lysa setting RTLIMIT (24 R414), a rail that is in regulation again (26 R429), or a measurement of temperature and power (R435). -/
inductive Move where
  | event (e : Instr)
  | run (core slot : Nat)
  | tick (n : Nat)
  | faulted (owner knum : Nat)
  | switched (core index : Nat)
  | reseeded (owner : Nat)
  | unblocked (core slot : Nat)
  | release (core slot : Nat)
  | rtlimit (ticks : BitVec 32)
  | railGood (rail : Nat)
  | measured (temp power : Nat)
  deriving DecidableEq, Repr

/-- The machine. -/
structure State where
  /-- the executing core and context slot, and its context -/
  cur : Nat × Nat
  ctx : Context
  /-- the other contexts, by core * 64 + slot -/
  ctxs : Table Context
  /-- the bits of the instruction being executed, zero-extended (02 R29) -/
  ir : Word
  /-- the number of the last write to a register that several contexts share, by register (06 R139; the model's own field) -/
  regSeq : Table Nat
  mem : List Host.Cell
  cores : Table Core
  clusters : Table Cluster
  dies : Table Die
  /-- the module-wide page-table root and the shoot-down generation (22 R378, R380) -/
  ptRoot : Nat
  generation : Nat
  locked : List LockedRegion
  /-- migrations and flushing shoot-downs under way (22 R389, R390) -/
  blocks : List PageBlock
  slots : Table (Option ProtoTable)
  coh : Coherence
  /-- fault batches not yet replayed, and the number of batches each owner has started (22 R387) -/
  batches : List Batch
  batchIds : Table Nat
  /-- owners by id, and kernels by owner * 2^32 + number -/
  owners : Table (Option Owner)
  kernels : Table (Option Kernel)
  /-- arbitration streams by key (11 R252), the requests that wait and the order of the last round served -/
  streams : Table Nat
  arbRequests : List ArbRequest
  arbServed : List ArbRequest
  domains : List SeamDomain
  links : Links
  platform : Platform
  /-- requests from device threads that lysa has not served, and its own replay window (07 R170) -/
  requests : List Request
  replies : List SendEntry
  /-- writes of lysa that wait for a seam (23 R406), and RDMA operations under way (24 R419) -/
  delayed : List OwnerWrite
  rdma : List RdmaOp
  /-- messages for the outside, oldest first -/
  outputs : List Output
  /-- physical memory lysa has given out: owner (0 for its own tables), base and size -/
  frames : List (Nat × Nat × Nat)
  /-- packed stores on their way to the cores that own their memory (09 R205) -/
  packed : List PackedStore
  agenda : List Move
  /-- how many free values the machine has drawn (the model's own field) -/
  fresh : Nat
  deriving DecidableEq, Repr

/-- The machine right after reset. -/
def State.reset : State :=
  { cur := (0x07F, 0), ctx := Context.free, ctxs := [], ir := 0, regSeq := [], mem := [], cores := [], clusters := [], dies := [], ptRoot := 0
    generation := 0, locked := [], blocks := [], slots := []
    coh := { dir := [], l1 := [], l2 := [], filters := [], holders := [], behind := [], leases := [], stale := [], marks := [], written := [], swm := [], switches := []
             msgs := [], busy := [], queue := [] }
    batches := [], batchIds := [], owners := [], kernels := []
    streams := [], arbRequests := [], arbServed := [], domains := []
    links := { moduleId := 0, rtlimit := 50000, ports := [], writes := [], sentSeq := [], recvSeq := [], early := [], answers := [], spareCables := [], mismatches := [] }
    platform := { rails := 0, bad := [], stage := 0, bootFail := false, trip := false, wdog := false, temp := 0, power := 0, hot := false
                  limited := false, cells := [], jtag := 0, lysaImage := [], fusedVersion := 0, sparedSlices := [], sparedPcs := [], corrected := 0
                  refreshes := [] }
    requests := [], replies := [], delayed := [], rdma := [], outputs := [], frames := [], packed := [], agenda := [], fresh := 0 }

/-- The reasons a step can stop. -/
inductive Fault where
  /-- Raised by step alone, when the supply rails are off after a thermal trip, or a rail out of regulation holds the module in reset, and only the outside could go
  on (26 R429, R432). Safe: nothing runs. -/
  | poweredOff
  deriving DecidableEq, Repr

/-- The reasons a meaning can be refused. -/
inductive Refusal where
  /-- Raised by exec's arm of an instruction whose meaning is not written yet. Safe: nothing is claimed of it. -/
  | notModelled (mnemonic : String)
  deriving DecidableEq, Repr

end Sys2Proof.Machine
end

