-- ==== Sys2Proof/Machine/Monad.lean ====
section
/-!
DEFINITION. Sys2Proof/Machine/Monad.lean: how a meaning is written. A meaning is a function of the state that either ends
with a new state or stops without effect at a trap, a wait, or a value that runahead has marked invalid.
-/

namespace Sys2Proof.Machine

/-- Why an instruction did not complete. A trap carries its cause code (06 R141), its trap value and, for a page
fault, the kind of access (22 R387); a wait says what for. -/
inductive Stop where
  | trap (cause : Nat) (tval : Word) (kind : Nat := 0)
  | wait (w : Wait)
  | invalid
  deriving DecidableEq, Repr

/-- A piece of an instruction's work: on a stop the state is dropped, so that a trapping instruction has no effect
(06 R144). -/
abbrev M (α : Type) := StateT State (Except Stop) α

def stop {α : Type} (e : Stop) : M α := fun _ => .error e

def raise {α : Type} (cause : Nat) (tval : Nat) : M α := stop (.trap cause (BitVec.ofNat 64 tval))

def waitFor {α : Type} (kind : WaitKind) : M α := stop (.wait { kind := kind })

/-! ### Trap causes (06 R141) -/

def causeIllegal : Nat := 1
def causeLookahead : Nat := 2
def causeMisalign : Nat := 3
def causeProtect : Nat := 4
def causePageFault : Nat := 5
def causePinMiss : Nat := 6
def causeFpx : Nat := 7
def causeProtocol : Nat := 8
def causeBounds : Nat := 9
def causeCap : Nat := 10
def causePartition : Nat := 11
def causeBarrierOverrun : Nat := 12
def causeLinkLost : Nat := 13
def causeTimeout : Nat := 14
def causeHandle : Nat := 15
def causePriv : Nat := 16
def causeBreak : Nat := 17
def causeSyscall : Nat := 18
def causeRollback : Nat := 19

/-! ### Bit fields -/

/-- The n bits of w from bit lo, as a number. -/
def bitsOf {k : Nat} (w : BitVec k) (lo n : Nat) : Nat := w.toNat / 2 ^ lo % 2 ^ n

/-- w with the n bits from lo replaced by the low bits of v. -/
def putBits {k : Nat} (w : BitVec k) (lo n v : Nat) : BitVec k :=
  BitVec.ofNat k (w.toNat - bitsOf w lo n * 2 ^ lo + v % 2 ^ n * 2 ^ lo)

/-- The low n bits of v as a signed number. -/
def signed (v n : Nat) : Int := if v % 2 ^ n < 2 ^ (n - 1) then ((v % 2 ^ n : Nat) : Int) else (v % 2 ^ n : Nat) - (2 ^ n : Nat)

/-! ### The executing context -/

/-- Change the executing thread's registers and per-thread state. -/
def State.setArch (s : State) (a : Arch) : State := { s with ctx := { s.ctx with arch := a } }

def State.mapArch (s : State) (f : Arch → Arch) : State := s.setArch (f s.ctx.arch)

def State.setChunk (s : State) (c : Chunk) : State := { s with ctx := { s.ctx with chunk := c } }

def State.mapChunk (s : State) (f : Chunk → Chunk) : State := s.setChunk (f s.ctx.chunk)

/-- The executing core's number. -/
def State.coreId (s : State) : Nat := s.cur.1

/-- The key of a context slot in the table of contexts. -/
def ctxKey (core slot : Nat) : Nat := core * 64 + slot

/-- The cluster of a core and its die (01 R9): die [8:7], cluster [6:3], core [2:0]. -/
def clusterOf (core : Nat) : Nat := core / 8
def dieOf (core : Nat) : Nat := core / 128

/-- Core 7 of cluster 15 of each die runs lysa (01 R10). -/
def isReserved (core : Nat) : Bool := core % 128 == 127

def State.core (s : State) (c : Nat) : Core := getT Core.reset s.cores c

def State.mapCore (s : State) (c : Nat) (f : Core → Core) : State := { s with cores := modT Core.reset s.cores c f }

def State.die (s : State) (d : Nat) : Die := getT Die.reset s.dies d

def State.mapDie (s : State) (d : Nat) (f : Die → Die) : State := { s with dies := modT Die.reset s.dies d f }

/-- The executing core. -/
def State.myCore (s : State) : Core := s.core s.coreId

/-- A context slot anywhere on the module. -/
def State.ctxAt (s : State) (core slot : Nat) : Context :=
  if s.cur = (core, slot) then s.ctx else getT Context.free s.ctxs (ctxKey core slot)

def State.setCtxAt (s : State) (core slot : Nat) (c : Context) : State :=
  if s.cur = (core, slot) then { s with ctx := c } else { s with ctxs := setT Context.free s.ctxs (ctxKey core slot) c }

def State.mapCtxAt (s : State) (core slot : Nat) (f : Context → Context) : State :=
  s.setCtxAt core slot (f (s.ctxAt core slot))

/-- Every context that is not free, with its core and slot. -/
def State.allCtxs (s : State) : List (Nat × Nat × Context) :=
  (s.cur.1, s.cur.2, s.ctx) :: (s.ctxs.filter (fun p => p.1 != ctxKey s.cur.1 s.cur.2)).map (fun p => (p.1 / 64, p.1 % 64, p.2))

/-- Change every context that is not the executing one. -/
def State.mapOthers (s : State) (f : Nat → Nat → Context → Context) : State :=
  { s with ctxs := s.ctxs.foldl (fun t p => setT Context.free t p.1 (f (p.1 / 64) (p.1 % 64) p.2)) [] }

/-- Change every context. -/
def State.mapCtxs (s : State) (f : Nat → Nat → Context → Context) : State :=
  { s.mapOthers f with ctx := f s.cur.1 s.cur.2 s.ctx }

/-- Make another context the executing one. -/
def State.switchTo (s : State) (core slot : Nat) : State :=
  if s.cur = (core, slot) then s
  else
    { s with cur := (core, slot), ctx := getT Context.free s.ctxs (ctxKey core slot)
             ctxs := setT Context.free (setT Context.free s.ctxs (ctxKey s.cur.1 s.cur.2) s.ctx) (ctxKey core slot) Context.free }

/-! ### Owners, kernels, seam domains -/

def State.owner? (s : State) (id : Nat) : Option Owner := getT none s.owners id

def State.putOwner (s : State) (o : Owner) : State := { s with owners := setT none s.owners o.id (some o) }

def kernelKey (owner knum : Nat) : Nat := owner * 2 ^ 32 + knum

def State.kernel? (s : State) (owner knum : Nat) : Option Kernel := getT none s.kernels (kernelKey owner knum)

def State.putKernel (s : State) (k : Kernel) : State := { s with kernels := setT none s.kernels (kernelKey k.owner k.knum) (some k) }

def State.allKernels (s : State) : List Kernel := s.kernels.filterMap (·.2)

def State.mapKernel (s : State) (owner knum : Nat) (f : Kernel → Kernel) : State :=
  match s.kernel? owner knum with
  | some k => s.putKernel (f k)
  | none => s

/-- The seam domain of a kernel, 0 if none (23 R396). -/
def State.seamOf (s : State) (owner knum : Nat) : Nat := ((s.kernel? owner knum).map (·.seamDomain)).getD 0

def State.domain? (s : State) (id : Nat) : Option SeamDomain := s.domains.find? (·.id == id)

def State.mapDomain (s : State) (id : Nat) (f : SeamDomain → SeamDomain) : State :=
  { s with domains := s.domains.map fun d => if d.id = id then f d else d }

/-- The seam domain of the executing context. -/
def State.mySeam (s : State) : Nat := s.seamOf s.ctx.owner s.ctx.knum

def State.cluster (s : State) (c : Nat) : Cluster := getT Cluster.reset s.clusters c

def State.mapCluster (s : State) (c : Nat) (f : Cluster → Cluster) : State := { s with clusters := modT Cluster.reset s.clusters c f }

/-! ### Privilege and the status register (06 R136, R140) -/

/-- CR_STATUS.PRV: 0 user, 1 supervisor, 3 machine. -/
def Arch.prv (a : Arch) : Nat := bitsOf a.status 0 2

def Arch.inh (a : Arch) : Bool := bitsOf a.status 4 1 == 1

def Arch.pdone (a : Arch) : Bool := bitsOf a.status 5 1 == 1

def Arch.repAct (a : Arch) : Bool := bitsOf a.status 8 1 == 1

def State.prv (s : State) : Nat := s.ctx.arch.prv

def State.isUser (s : State) : Bool := s.prv == 0

/-- Is the executing context running ahead past a page fault (22 R386)? -/
def State.ahead (s : State) : Bool := s.ctx.life == .runahead

/-! ### Scalar and handle registers (02 R18, R19) -/

/-- Read a scalar register; in runahead a register marked invalid stops the instruction (22 R386). -/
def rdReg (r : Reg) : M Word := fun s =>
  match s.ctx.runahead with
  | some ra => if r ∈ ra.badRegs then .error .invalid else .ok (s.ctx.arch.regs[r], s)
  | none => .ok (s.ctx.arch.regs[r], s)

/-- Write a scalar register, whole. -/
def Arch.setReg (a : Arch) (r : Reg) (v : Word) : Arch := { a with regs := a.regs.set r v }

def Runahead.good (r : Reg) (ra : Runahead) : Runahead := { ra with badRegs := ra.badRegs.filter (· != r) }

def State.setReg (s : State) (r : Reg) (v : Word) : State :=
  { s with ctx := { s.ctx with arch := s.ctx.arch.setReg r v, runahead := s.ctx.runahead.map (Runahead.good r) } }

def wrReg (r : Reg) (v : Word) : M Unit := modify (fun s => s.setReg r v)

def rdHandle (h : HReg) : M HWord := fun s =>
  match s.ctx.runahead with
  | some ra => if h ∈ ra.badHandles then .error .invalid else .ok (s.ctx.arch.handles[h], s)
  | none => .ok (s.ctx.arch.handles[h], s)

def State.setHandle (s : State) (h : HReg) (v : HWord) : State :=
  { s with ctx := { s.ctx with
      arch := { s.ctx.arch with handles := s.ctx.arch.handles.set h v }
      runahead := s.ctx.runahead.map (fun ra => { ra with badHandles := ra.badHandles.filter (· != h) }) } }

def wrHandle (h : HReg) (v : HWord) : M Unit := modify (fun s => s.setHandle h v)

/-- Raise ILLEGAL with the bits of the instruction being executed (02 R29). -/
def illegal {α : Type} : M α := fun s => .error (.trap causeIllegal s.ir)

/-- Raise PRIV with the bits of the instruction being executed (06 R148). -/
def priv {α : Type} : M α := fun s => .error (.trap causePriv s.ir)

/-- A privileged form: PRIV at user level (02 R39). -/
def requireSupervisor : M Unit := fun s => if s.isUser then .error (.trap causePriv s.ir) else .ok ((), s)

end Sys2Proof.Machine
end

