-- ==== Sys2Proof/Machine/Draw.lean ====
section
/-!
DEFINITION. Sys2Proof/Machine/Draw.lean: the draw helpers (02 R54), the classes (11 R250) and the placement draws (R251).
-/

namespace Sys2Proof.Machine

/-- One xorshift step, in 32 bits (02 R54). -/
def xorshift (x : BitVec 32) : BitVec 32 :=
  let x := x ^^^ (x <<< 13)
  let x := x ^^^ (x >>> 17)
  x ^^^ (x <<< 5)

/-- The class constants (11 R250). -/
def classL1Place : BitVec 32 := 0x6A09E667
def classL2Slice : BitVec 32 := 0xBB67AE85
def classL2Set : BitVec 32 := 0x3C6EF372
def classArb : BitVec 32 := 0xA54FF53A
def classMemSched : BitVec 32 := 0x510E527F
def classCloak : BitVec 32 := 0x9B05688C
def classProg : BitVec 32 := 0x1F83D9AB
def classLinkPort : BitVec 32 := 0x5BE0CD19
def classVictim : BitVec 32 := 0xCBBB9D5D

/-- The subkey of a class under a seed and owner (02 R54). -/
def subkey (seed : Word) (owner : Nat) (cls : BitVec 32) : BitVec 32 :=
  seed.setWidth 32 ^^^ (seed >>> 32).setWidth 32 ^^^ cls ^^^ BitVec.ofNat 32 (owner % 2 ^ 16 * 2 ^ 16 + owner % 2 ^ 16)

/-- Draw(c, n) (02 R54). -/
def draw (seed : Word) (owner : Nat) (cls : BitVec 32) (n : Nat) : Nat :=
  (xorshift (BitVec.ofNat 32 n ^^^ subkey seed owner cls)).toNat

/-- An element of a list picked by a 32-bit draw: list[(d * |list|) >> 32]. -/
def pick (l : List Nat) (d : Nat) : Option Nat := l[d * l.length / 2 ^ 32]?

/-! ### Placement (11 R251) -/

/-- The L1D set of an address under a kernel seed. -/
def l1Set (kseed : Word) (owner va : Nat) : Nat := draw kseed owner classL1Place (va / 128 % 2 ^ 32) % 512

/-- The L2 set of an address under a placement seed. -/
def l2Set (pseed : Word) (owner va : Nat) : Nat := draw pseed owner classL2Set (va / 128 % 2 ^ 32) % 1024

/-- The bits set in a mask of n, ascending. -/
def bitsSet (n mask : Nat) : List Nat := (List.range n).filter fun j => mask / 2 ^ j % 2 == 1

/-- The dies on which an owner holds slices. -/
def Owner.dies (o : Owner) : List Nat := (List.range 4).filter fun d => (o.slices.getD d 0) != 0

/-- The home die a page is drawn for when it is mapped. -/
def Owner.drawHome (o : Owner) (va : Nat) : Nat :=
  (pick o.dies (draw o.placementSeed o.id classL2Slice (va / 65536 % 2 ^ 32))).getD 0

/-- The L2 slice of an address whose home is die h. -/
def Owner.slice (o : Owner) (h va : Nat) : Nat :=
  (pick (bitsSet 64 (o.slices.getD h 0)) (draw o.placementSeed o.id classL2Slice (va / 128 % 2 ^ 32))).getD 0

/-! ### Owners' resources -/

/-- Does an owner's partition hold the cluster of a core, and may a tenant hold the core (01 R10)? -/
def Owner.holdsCore (o : Owner) (core : Nat) : Bool := o.clusters / 2 ^ (clusterOf core) % 2 == 1 && !isReserved core

/-- The tenant cores of an owner's partition, ascending. -/
def Owner.cores (o : Owner) : List Nat := (List.range 512).filter o.holdsCore

end Sys2Proof.Machine
end

