-- ==== Sys2Proof/Machine/Arbiter.lean ====
section
/-!
DEFINITION. Sys2Proof/Machine/Arbiter.lean: arbitration streams (11 R250, R252): those an owner has at a shared arbiter and those a kernel has at a
core's or a cluster's, and the choice among contexts that contend at one of the latter.
-/

namespace Sys2Proof.Machine

/-! ### Streams (11 R252) -/

/-- An arbiter instance's id: its die, its structure number (R254) and its index. -/
def instanceId (die structure_ index : Nat) : Nat := die * 2 ^ 24 + structure_ * 2 ^ 16 + index

/-- The arbiter of a core, and that of a cluster, 0 to 15 on its die (01 R9): structure number 15. -/
def coreArbiter (core : Nat) : Nat := instanceId (core / 128) 15 core
def clusterArbiter (unit : Nat) : Nat := instanceId (unit / 16) 15 (unit % 16)

/-- The key of an owner's stream at an arbiter instance of a class: 0 ARB and 1 MEMSCHED at a shared arbiter. -/
def streamKey (cls arbiter owner : Nat) : Nat := (cls * 2 ^ 32 + arbiter) * 2 ^ 16 + owner

/-- The key of a kernel's stream: class 2 at a core's arbiter, 3 at a cluster's. -/
def kernelStreamKey (cls arbiter owner knum : Nat) : Nat := (knum + 1) * 2 ^ 50 + streamKey cls arbiter owner

/-- Where a stream starts: (Subkey XOR instance) OR 1. -/
def streamStart (seed : Word) (cls arbiter owner : Nat) : Nat :=
  ((subkey seed owner (if cls = 1 then classMemSched else classArb)) ^^^ BitVec.ofNat 32 arbiter ||| 1).toNat

/-- The state of the stream of a key; one that has not stepped stands at its start. -/
def State.streamAt (s : State) (key start : Nat) : Nat := let v := getT 0 s.streams key; if v = 0 then start else v

/-- An owner's stream at a shared arbiter, under its placement seed. -/
def State.stream (s : State) (cls arbiter owner : Nat) : Nat :=
  s.streamAt (streamKey cls arbiter owner) (streamStart (((s.owner? owner).map (·.placementSeed)).getD 0) cls arbiter owner)

/-- A reseed restarts the streams that an owner has at shared arbiters. -/
def State.restartStreams (s : State) (owner : Nat) : State :=
  { s with streams := s.streams.filter fun p => p.1 % 2 ^ 16 != owner || decide (2 ^ 50 ≤ p.1) }

/-- A reseed restarts the streams of a kernel. -/
def State.restartKernelStreams (s : State) (owner knum : Nat) : State :=
  { s with streams := s.streams.filter fun p => p.1 % 2 ^ 16 != owner || p.1 / 2 ^ 50 != knum + 1 }

/-! ### Requests at shared arbiters (11 R253, R254)

A use of a shared structure files a request at the structure's arbiter for the owner it is made for; nothing waits for it, since delays are timing (DESIGN
CHOICE, log 171, which says where instances the spec does not number are put). -/

/-- The class of the rounds at a shared structure: 0 ARB, 1 MEMSCHED at memory controllers; no other structure number has a shared arbiter. -/
def sharedClass (structure_ : Nat) : Option Nat := if 8 ≤ structure_ then none else some (if structure_ = 4 ∨ structure_ = 5 then 1 else 0)

/-- The class of an arbiter instance. -/
def instanceClass (arbiter : Nat) : Option Nat := sharedClass (arbiter / 2 ^ 16 % 2 ^ 8)

/-- File an owner's request at an instance of a shared structure. -/
def State.ask (s : State) (structure_ die index owner : Nat) : State :=
  match sharedClass structure_, s.owner? owner with
  | some cls, some _ => { s with arbRequests := s.arbRequests ++ [{ cls := cls, arbiter := instanceId die structure_ index, owner := owner }] }
  | _, _ => s

/-- The commit arbiters of some dies, in ascending order (09 R197). -/
def State.askCommit (s : State) (owner : Nat) (dies : List Nat) : State :=
  ((List.range 4).filter dies.contains).foldl (fun s d => s.ask 2 d 0 owner) s

/-- A message goes through its die's network and, to another die, over the link between the two. -/
def State.askNetwork (s : State) (owner src dst : Nat) : State :=
  let s := s.ask 0 (src / 128) (src % 128) owner
  if src / 128 = dst / 128 then s else s.ask 1 (src / 128) (dst / 128) owner

/-- A core's access goes to a home die. -/
def State.crosses (s : State) (core home : Nat) : State := s.askNetwork (s.core core).owner core (128 * home)

/-- A message or packet of an owner goes through an Ultra Ethernet port, of which each I/O die has two (01 R8). -/
def State.askUe (s : State) (owner : Nat) : State :=
  let p := (Config.uePort s.fresh).val
  ({ s with fresh := s.fresh + 1 } : State).ask 7 (p / 2) (p % 2) owner

/-! ### The choice among contexts at a core's or a cluster's arbiter (06 R132, 17 R328)

A sole contender is chosen without a draw. Of several, each in turn, by ascending core and slot, has its kernel's stream stepped once and takes the
upper half of the state as its ticket; the highest ticket is chosen, of equal ones the lower owner's and then the earlier (DESIGN CHOICE, log 196: the
spec gives rounds for shared arbiters only). -/

/-- A contender's ticket, its owner and its context. -/
structure Ticket where
  value : Nat
  owner : Nat
  core : Nat
  slot : Nat
  deriving DecidableEq, Repr

/-- Take a ticket for every contender. -/
def State.drawTickets (s : State) (cls arbiter : Nat) : List (Nat × Nat) → List Ticket × State
  | [] => ([], s)
  | (core, slot) :: rest =>
    let c := s.ctxAt core slot
    let key := kernelStreamKey cls arbiter c.owner c.knum
    let v := (xorshift (BitVec.ofNat 32 (s.streamAt key (streamStart (s.core core).k.kseed cls arbiter c.owner)))).toNat
    let (l, t) := ({ s with streams := setT 0 s.streams key v } : State).drawTickets cls arbiter rest
    ({ value := v / 2 ^ 16, owner := c.owner, core := core, slot := slot } :: l, t)

/-- The better of two tickets, the first being the earlier contender's. -/
def Ticket.better (x y : Ticket) : Ticket := if x.value < y.value ∨ (x.value = y.value ∧ y.owner < x.owner) then y else x

/-- The context chosen among those that contend, and the state with the streams stepped. -/
def State.chooseCtx (s : State) (cls arbiter : Nat) : List (Nat × Nat) → Option (Nat × Nat) × State
  | [] => (none, s)
  | [c] => (some c, s)
  | cs =>
    let (l, t) := s.drawTickets cls arbiter cs
    (l.head?.map fun x => let y := l.foldl Ticket.better x; (y.core, y.slot), t)

end Sys2Proof.Machine
end

