-- ==== Sys2Proof/Machine/L1.lean ====
section
/-!
DEFINITION. Sys2Proof/Machine/L1.lean: the tags of the L1D caches (10 R222, R223). A core's L1D has 512 sets of 8 ways, a line's set is
drawn (11 R251), and a line fills on a read and on a write. The tags change time only, but the words a RESEED reports (11 R259, R263).
-/

namespace Sys2Proof.Machine

/-- A set with no line and no eviction counted. -/
def L1Set.empty : L1Set := { ways := List.replicate 8 none, evictions := 0 }

/-- The place of a core's set in the table of all sets. -/
def l1Key (core set : Nat) : Nat := core * 512 + set

/-- The set drawn for a line number. -/
def l1SetOf (kseed : Word) (owner line : Nat) : Nat := l1Set kseed owner (128 * line)

/-- A line fills a free way of a set, else the way of the victim drawn among all of them (11 R251); the victim comes back. -/
def L1Set.fill (x : L1Set) (kseed : Word) (owner line : Nat) : L1Set × Option Nat :=
  match x.ways.findIdx? (· == none) with
  | some i => ({ x with ways := x.ways.set i (some line) }, none)
  | none =>
    let i := draw kseed owner classVictim (Nat.xor (line % 2 ^ 32) (x.evictions % 2 ^ 32)) * x.ways.length / 2 ^ 32
    ({ ways := x.ways.set i (some line), evictions := (x.evictions + 1) % 2 ^ 32 }, x.ways.getD i none)

/-- Forget the lines of a set that a condition names. -/
def L1Set.drop (x : L1Set) (hit : Nat → Bool) : L1Set := { x with ways := x.ways.map fun w => if w.any hit then none else w }

/-- Forget the lines that a condition on core and line names. -/
def dropTags (t : Table L1Set) (hit : Nat → Nat → Bool) : Table L1Set :=
  t.filterMap fun p =>
    let x := p.2.drop (hit (p.1 / 512))
    if x = L1Set.empty then none else some (p.1, x)

/-- The ways of an owner in a set of a die's snoop filter: the set is the line number modulo 16,384 (13 R269). -/
def filterKey (owner die line : Nat) : Nat := (owner * 4 + die) * 16384 + line % 16384

/-- Forget the snoop-filter entries that a condition on die and line names (10 R227). -/
def dropFilters (t : Table L1Set) (hit : Nat → Nat → Bool) : Table L1Set := t.map fun p => (p.1, p.2.drop (hit (p.1 / 16384 % 4)))

/-- A relocation pass under way over one core's L1D (11 R259): its sets, the lines moved and the victims. -/
structure RelocationPass where
  sets : Table L1Set
  moved : Nat
  victims : List Nat
  deriving DecidableEq, Repr

/-- One line of the visited set moves to its new set, if that is another one. -/
def RelocationPass.move (p : RelocationPass) (core : Nat) (kseed : Word) (owner key line : Nat) : RelocationPass :=
  let dest := l1Key core (l1SetOf kseed owner line)
  if dest = key then p
  else
    let sets := modT L1Set.empty p.sets key (·.drop (· == line))
    let (x, v) := (getT L1Set.empty sets dest).fill kseed owner line
    { sets := setT L1Set.empty sets dest x, moved := p.moved + 1, victims := p.victims ++ v.toList }

/-- Visit one set: its lines in way order. -/
def RelocationPass.visit (p : RelocationPass) (core : Nat) (kseed : Word) (owner key : Nat) : RelocationPass :=
  ((getT L1Set.empty p.sets key).ways.filterMap id).foldl (fun p line => p.move core kseed owner key line) p

/-- The whole pass: the sets in ascending order, their eviction counts starting from zero. Only sets that hold lines before the pass
hold lines to move. -/
def relocateCore (t : Table L1Set) (core : Nat) (kseed : Word) (owner : Nat) : RelocationPass :=
  let mine := (t.filter fun p => p.1 / 512 == core).map (·.1)
  let sets := t.filterMap fun p =>
    let x : L1Set := if p.1 / 512 = core then { p.2 with evictions := 0 } else p.2
    if x = L1Set.empty then none else some (p.1, x)
  mine.foldl (fun p key => p.visit core kseed owner key) { sets := sets, moved := 0, victims := [] }

/-- Forget everything the L1Ds of some cores hold, and their eviction counts (11 R258). -/
def clearTags (t : Table L1Set) (cores : List Nat) : Table L1Set := t.filter fun p => !cores.contains (p.1 / 512)

end Sys2Proof.Machine
end

