-- ==== Sys2Proof/Machine/Memory.lean ====
section
/-!
DEFINITION. Sys2Proof/Machine/Memory.lean: memory by physical location, translation and rights (22 R377 to R381), and the
range that governs an address (10 R230, R231).
-/

namespace Sys2Proof.Machine

/-! ### Physical memory (01 R13, R14; 11 R244) -/

/-- HBM lies at physical 0, pseudo-channel j of stack m taking the GiB number 64m + j; the second tier lies at 2^40, its upper half
for lysa's own data. -/
def hbmBytes : Nat := 2 ^ 39
def channelBytes : Nat := 2 ^ 30
def tierBase : Nat := 2 ^ 40
def lysaBase : Nat := 2 ^ 40 + 2 ^ 39
def tierEnd : Nat := 2 ^ 41

/-- The die the stack of an HBM address is attached to: two stacks to a die (01 R13). -/
def hbmDie (f : Nat) : Nat := f / 2 ^ 37

/-! ### Locations -/

/-- What a byte that nothing has written reads as: bring-up clears memory, and local memories are zeroed before use
(26 R433, 06 R131, 07 R165). -/
def unwritten : Byte := 0

/-- The canonical form of memory: addresses rise strictly and no byte listed is one that reads so unlisted. -/
abbrev Memory.wf (m : List Host.Cell) : Bool := wfT unwritten m

/-- Where the bytes of the module's memories lie in the one key space: physical addresses first, then each core's TCM, each
cluster's scratchpad, each cluster's B store and its accumulator store. -/
def tcmLoc (core t : Nat) : Nat := 2 ^ 60 + core * 2 ^ 20 + t
def spadLoc (cluster t : Nat) : Nat := 2 ^ 61 + cluster * 2 ^ 22 + t
def bstoreLoc (cluster t : Nat) : Nat := 2 ^ 62 + cluster * 2 ^ 24 + t
def accLoc (cluster t : Nat) : Nat := 2 ^ 63 + cluster * 2 ^ 22 + t

/-- The committed value of a byte. -/
def State.byteAt (s : State) (loc : Nat) : Byte := getT unwritten s.mem loc

/-- Write one byte of memory. -/
def State.setByte (s : State) (loc : Nat) (b : Byte) : State := { s with mem := setT unwritten s.mem loc b }

/-- Write bytes upward from a location. -/
def State.setBytes (s : State) : Nat → List Byte → State
  | _, [] => s
  | loc, b :: bs => (s.setByte loc b).setBytes (loc + 1) bs

/-- The bytes of v, n of them, little-endian (00 R2). -/
def leBytes : (n v : Nat) → List Byte
  | 0, _ => []
  | n + 1, v => BitVec.ofNat 8 v :: leBytes n (v / 256)

/-- Bytes read little-endian. -/
def ofLeBytes : List Byte → Nat
  | [] => 0
  | b :: bs => b.toNat + 256 * ofLeBytes bs

/-- n committed bytes from a location. -/
def State.bytesAt (s : State) (loc n : Nat) : List Byte := (List.range n).map (fun i => s.byteAt (loc + i))

/-- n committed bytes read little-endian. -/
def State.natAt (s : State) (loc n : Nat) : Nat := ofLeBytes (s.bytesAt loc n)

/-- Write the low n bytes of v. -/
def State.setNat (s : State) (loc n v : Nat) : State := s.setBytes loc (leBytes n v)

/-! ### The local windows (05 R102) -/

def tcmWindow : Nat := 0x00FFFF0000000000
def spadWindow : Nat := 0x00FFFF0100000000
def spadSize : Nat := 4 * 1024 * 1024

/-- TCM bytes under a carve-out of g granules (06 R135, R142). -/
def tcmBytes (g : Nat) : Nat := (768 - 4 * g) * 1024

/-- The core's current TCM size. -/
def State.tcmSize (s : State) (core : Nat) : Nat := tcmBytes (s.core core).carveCur

/-- Is the address in the local-window region? -/
def inWindowRegion (va : Nat) : Bool := tcmWindow ≤ va && va < 2 ^ 56

/-- The location a window address reaches from a core; none is PROTECT (05 R102). -/
def State.windowLoc (s : State) (core va : Nat) : Option Nat :=
  if tcmWindow ≤ va ∧ va < tcmWindow + s.tcmSize core then some (tcmLoc core (va - tcmWindow))
  else if spadWindow ≤ va ∧ va < spadWindow + spadSize then some (spadLoc (clusterOf core) (va - spadWindow))
  else none

/-! ### The page table (22 R377) -/

/-- Index and extent of each level: shift, index bits. -/
def levelShift : Nat → Nat
  | 0 => 39 | 1 => 30 | 2 => 21 | _ => 16

def levelBits : Nat → Nat
  | 0 => 17 | 1 => 9 | 2 => 9 | _ => 5

/-- The leaf an entry is, if it is one that keeps the layout (22 R377). -/
def leafOf (va level entry e : Nat) : Option Leaf :=
  let f := fun lo n => e / 2 ^ lo % 2 ^ n
  let size := 2 ^ levelShift level
  if f 0 1 = 1 ∧ f 2 1 = 1 ∧ level ≠ 0 ∧ f 3 9 = 0 ∧ f 13 3 = 0 ∧ f 52 2 = 0 ∧ f 56 24 = 0 ∧ f 83 1 = 0 ∧ f 99 1 = 0
      ∧ f 124 4 = 0 ∧ f 121 3 ≤ 4 ∧ (f 16 36 * 2 ^ 16) % size = 0 then
    some { va := va / size * size, size := size, entry := entry, cls := f 121 3, pcore := f 112 9, gdom := f 100 12
           grights := f 96 3, domain := f 84 12, rights := f 80 3, home := f 54 2, frame := f 16 36 * 2 ^ 16
           h := f 12 1 == 1, p := f 1 1 == 1 }
  else none

/-- Walk the table from a level; a missing or malformed entry ends the walk (22 R377). -/
def State.walkFrom (s : State) (va : Nat) : (fuel level table : Nat) → Option Leaf
  | 0, _, _ => none
  | n + 1, level, table =>
    let entry := table + 16 * (va / 2 ^ levelShift level % 2 ^ levelBits level)
    let e := s.natAt entry 16
    if e % 8 = 1 then
      let next := e / 2 ^ 9 % 2 ^ 43 * 2 ^ 9
      let tableSize := 16 * 2 ^ levelBits (level + 1)
      if level < 3 ∧ e = next + 1 ∧ next % tableSize = 0 then s.walkFrom va n (level + 1) next else none
    else leafOf va level entry e

/-- The page of virtual address 0, which is never mapped (06 R134; DEDUCED, log 202). -/
def inZeroPage (va : Nat) : Bool := decide (va < 65536)

/-- The valid leaf that maps a virtual address. -/
def State.walk (s : State) (va : Nat) : Option Leaf := if 2 ^ 56 ≤ va ∨ inZeroPage va then none else s.walkFrom va 4 0 s.ptRoot

/-- Does a walk end at an entry with V = 1 that breaks the layout (22 R377, R387)? -/
def State.malformedFrom (s : State) (va : Nat) : (fuel level table : Nat) → Bool
  | 0, _, _ => false
  | n + 1, level, table =>
    let entry := table + 16 * (va / 2 ^ levelShift level % 2 ^ levelBits level)
    let e := s.natAt entry 16
    if e % 2 = 0 then false
    else if e % 8 = 1 then
      let next := e / 2 ^ 9 % 2 ^ 43 * 2 ^ 9
      if level < 3 ∧ e = next + 1 ∧ next % (16 * 2 ^ levelBits (level + 1)) = 0 then s.malformedFrom va n (level + 1) next else true
    else (leafOf va level entry e).isNone

def State.malformed (s : State) (va : Nat) : Bool := decide (va < 2 ^ 56) && !inZeroPage va && s.malformedFrom va 4 0 s.ptRoot

/-- Does the leaf map the address? -/
def Leaf.covers (l : Leaf) (va : Nat) : Bool := l.va ≤ va && va < l.va + l.size && !inZeroPage va

/-- The translation a home agent's cache holds or a walk finds (22 R380). -/
def State.translate (s : State) (die va : Nat) : Option Leaf :=
  match (s.die die).tcache.find? (·.covers va) with
  | some l => some l
  | none => s.walk va

/-- The ways a mask gives. -/
def popcount (w : Nat) : Nat := ((List.range 16).filter fun i => w / 2 ^ i % 2 == 1).length

/-- The page that an address lies in: its leaf's extent, or, where nothing is mapped, 64 KiB (22 R385). -/
def State.pageAt (s : State) (va : Nat) : Nat × Nat :=
  match s.walk va with
  | some l => (l.va, l.size)
  | none => (va / 65536 * 65536, 65536)

/-- Do two extents meet? -/
def extentsMeet (a n b k : Nat) : Bool := decide (a < b + k) && decide (b < a + n)

/-- Is a translation in a die's cache a locked one: its page's home is there, and a region that meets the page is locked (22 R382)? -/
def State.lockHolder (s : State) (die : Nat) (l : Leaf) : Option Nat :=
  if l.home = die then (s.locked.find? fun r => extentsMeet r.base r.size l.va l.size).map (·.owner) else none

/-- The owner whose ways of a die's cache hold a translation: the one that has locked it, else the one of its page's domain (22 R380, R382). -/
def State.wayOwner (s : State) (die : Nat) (l : Leaf) : Option Nat :=
  (s.lockHolder die l).or (((s.owners.filterMap (·.2)).find? fun o => o.domain == l.domain && o.state != .retired).map (·.id))

/-- The translations that a die's cache keeps for an owner: 256 sets of the ways it has; pages of no owner share the ways that none has (22 R380). -/
def State.tcacheShare (s : State) (owner : Option Nat) : Nat :=
  let live := (s.owners.filterMap (·.2)).filter (·.state != .retired)
  match live.find? fun o => owner == some o.id with
  | some o => 256 * popcount o.dirWays
  | none => 256 * (16 - popcount (live.foldl (fun w o => w ||| o.dirWays) 0))

/-- Note a translation in a die's cache; where its owner's share is full, that owner's oldest one that is not locked leaves, and where all are locked it is not
kept (22 R380, R382). The set a translation takes is not stated: an owner's share is one whole, DESIGN CHOICE (log 198). -/
def State.fillTcache (s : State) (die : Nat) (l : Leaf) : State :=
  if (s.die die).tcache.any (·.covers l.va) then s
  else
    let mine := (s.die die).tcache.filter fun x => s.wayOwner die x == s.wayOwner die l
    if mine.length < s.tcacheShare (s.wayOwner die l) then s.mapDie die fun d => { d with tcache := l :: d.tcache }
    else match mine.reverse.find? fun x => (s.lockHolder die x).isNone with
      | some x => s.mapDie die fun d => { d with tcache := l :: d.tcache.erase x }
      | none => s

/-- The translation a core's lookaside buffer holds, or the one its die's home agent supplies (22 R379). -/
def State.plbLookup (s : State) (core va : Nat) : Option Leaf :=
  match (s.core core).plb.find? (·.covers va) with
  | some l => some l
  | none => s.translate (dieOf core) va

/-- Note a translation in a core's buffer of 64, the oldest leaving first. It comes from the cache of the core's die, which holds it then too (22 R379). -/
def State.fillPlb (s : State) (core : Nat) (l : Leaf) : State :=
  if (s.core core).plb.any (·.covers l.va) then s
  else (s.fillTcache (dieOf core) l).mapCore core (fun c => { c with plb := l :: c.plb.take 63 })

/-- The rights a domain has on a page: [2] read, [1] write, [0] execute (22 R377, R379). -/
def Leaf.rightsOf (l : Leaf) (domain : Nat) : Nat :=
  if l.domain = domain then l.rights else if l.gdom = domain then l.grights else 0

/-- What an access needs (22 R379). -/
inductive Access where
  | load | store | atomic | fetch
  deriving DecidableEq, Repr

def Access.needs : Access → Nat
  | .load => 4 | .store => 2 | .atomic => 6 | .fetch => 1

def Access.writes : Access → Bool
  | .store => true | .atomic => true | _ => false

/-- CLASS codes of a leaf. -/
def clsShared : Nat := 0
def clsPrivate : Nat := 1
def clsReadonly : Nat := 2
def clsPoisoned : Nat := 3
def clsMigrating : Nat := 4

/-! ### Ranges (10 R230, R231) -/

/-- An entry of the range table (10 R230). -/
structure RangeEntry where
  index : Nat
  base : Nat
  size : Nat
  owner : Nat
  lease : Nat
  state : Nat
  slot : Nat
  deriving DecidableEq, Repr

/-- Read entry i of the range table; none unless VALID. -/
def State.rangeEntry (s : State) (core i : Nat) : Option RangeEntry :=
  let a := (s.core core).rangeBase.toNat + 32 * i
  let w2 := s.natAt (a + 16) 8
  if w2 / 2 ^ 63 % 2 = 1 then
    some { index := i, base := s.natAt a 8 % 2 ^ 56, size := s.natAt (a + 8) 8 % 2 ^ 56, owner := w2 / 2 ^ 32 % 2 ^ 16
           lease := w2 / 2 ^ 16 % 2 ^ 16, state := w2 / 2 ^ 8 % 4, slot := w2 % 16 }
  else none

/-- The valid entry of an owner that covers an address. -/
def State.rangeOf (s : State) (core owner va : Nat) : Option RangeEntry :=
  ((List.range 256).filterMap (s.rangeEntry core)).find?
    (fun e => e.owner == owner && e.base ≤ va && va < e.base + e.size)

/-- KIND of a slot's table; an empty slot 0 acts as INV (10 R230, R232). -/
def State.kindOf (s : State) (slot : Nat) : Nat := ((getT none s.slots slot).map (·.kind)).getD 0

def kindInv : Nat := 0
def kindLse : Nat := 1
def kindUpd : Nat := 2
def kindMig : Nat := 3
def kindWo : Nat := 4
def kindCls : Nat := 5
def kindSwm : Nat := 6

/-- Where an access lands: its location, the key of its 128-byte line in the watch and line counts, the protocol that
governs it, and whether the protocol tracks the copies of its line (10 R227): not in a local window, a PRIVATE or READONLY page, or with
translation off. -/
structure Place where
  loc : Nat
  lineKey : Nat
  kind : Nat
  lease : Nat
  page : Nat
  home : Nat
  tracked : Bool
  deriving DecidableEq, Repr

/-- Does the access reach global memory, so that its line is filled into an L1D (10 R222)? -/
def Place.fills (p : Place) : Bool := decide (p.loc < 2 ^ 60)

/-- The key of a virtual line: window lines by what they reach, others by virtual line (09 R219). -/
def State.lineKey (s : State) (core va : Nat) : Nat :=
  match (if inWindowRegion va then s.windowLoc core va else none) with
  | some loc => loc / 128
  | none => va / 128

end Sys2Proof.Machine
end

