-- ==== Sys2Proof/Machine/L2.lean ====
section
/-!
DEFINITION. Sys2Proof/Machine/L2.lean: the tags of the L2 slices (10 R222, R223). Each of the 256 slices has 1,024 sets of 16 ways; a line's slice and
set are drawn for the owner that places it, and so is the victim of a full set (11 R251). Lines fill on L1D misses and through the copy and link paths.
The tags change time only, but for the forward marks of a full set (10 R229), the pins (22 R382) and the words a RESEED reports (11 R263). One
access is served at a time, so a slice's 64 miss registers are never all busy and no read bypasses it (10 R228): DESIGN CHOICE, log 197.
-/

namespace Sys2Proof.Machine

/-- A set with no line and no eviction counted. -/
def L2Set.empty : L2Set := { ways := List.replicate 16 none, evictions := 0 }

/-- The place of a slice's set in the table of all sets. -/
def l2Key (die slice set : Nat) : Nat := (die * 64 + slice) * 1024 + set

/-! ### Placement -/

/-- The owner that places the lines of a page: the one whose domain is the page's own (10 R223). -/
def State.placingOwner (s : State) (l : Leaf) : Option Owner :=
  (s.owners.filterMap (·.2)).find? fun o => o.domain == l.domain && o.state != .retired

/-- The home die, slice and set of a line for its placing owner (10 R223, 11 R251). -/
def Owner.l2Place (o : Owner) (home line : Nat) : Nat := l2Key home (o.slice home (128 * line)) (l2Set o.placementSeed o.id (128 * line))

/-- Where a line of mapped memory is placed, and by whom; a link page has no place. -/
def State.l2Place (s : State) (line : Nat) : Option (Owner × Nat) :=
  (s.walk (128 * line)).bind fun l => if l.p && decide (l.frame < 2 ^ 51) then (s.placingOwner l).map fun o => (o, o.l2Place l.home line) else none

/-! ### Victims (11 R251, 10 R229) -/

/-- When the forward mark on a line was placed, if it has one. -/
def markedAt (marks : Table (Option FwdMark)) (line : Nat) : Option Nat :=
  marks.findSome? fun p => p.2.bind fun m => if m.vline = line then some m.placed else none

/-- The marked way whose mark was placed longest ago. -/
def oldestMarked (marks : Table (Option FwdMark)) : List (Nat × L2Way) → Option (Nat × Nat)
  | [] => none
  | (i, w) :: rest =>
    match markedAt marks w.line, oldestMarked marks rest with
    | some t, some (j, u) => if t < u then some (i, t) else some (j, u)
    | some t, none => some (i, t)
    | none, r => r

/-- The way of a full set that an incoming line takes: one drawn among those neither pinned nor marked; where there is none, the marked line placed longest
ago; where none is marked, one drawn among all, whose pin is dropped. -/
def L2Set.victim (x : L2Set) (o : Owner) (marks : Table (Option FwdMark)) (line : Nat) : Nat :=
  let ways := x.ways.zipIdx.filterMap fun (w, i) => w.map fun w => (i, w)
  let drawn := fun (cand : List (Nat × L2Way)) =>
    (pick (cand.map (·.1)) (draw o.placementSeed o.id classVictim (Nat.xor (line % 2 ^ 32) (x.evictions % 2 ^ 32)))).getD 0
  let cand := ways.filter fun (_, w) => !w.pinned && (markedAt marks w.line).isNone
  if cand ≠ [] then drawn cand
  else match oldestMarked marks ways with
    | some (i, _) => i
    | none => drawn ways

/-- A line fills a free way of a set, else the victim's; the victim comes back. -/
def L2Set.fill (x : L2Set) (o : Owner) (marks : Table (Option FwdMark)) (w : L2Way) : L2Set × Option L2Way :=
  match x.ways.findIdx? (· == none) with
  | some i => ({ x with ways := x.ways.set i (some w) }, none)
  | none =>
    let i := x.victim o marks w.line
    ({ ways := x.ways.set i (some w), evictions := (x.evictions + 1) % 2 ^ 32 }, x.ways.getD i none)

/-- Does the set hold a line? -/
def L2Set.holds (x : L2Set) (line : Nat) : Bool := x.ways.any fun w => w.any (·.line == line)

/-- Does a slice hold a line? -/
def Coherence.inSlice (c : Coherence) (line : Nat) : Bool := c.l2.any fun p => p.2.holds line

/-- Change the ways that hold a line. -/
def L2Set.map (x : L2Set) (f : L2Way → Option L2Way) : L2Set := { x with ways := x.ways.map fun w => w.bind f }

/-- Change the lines of every set; a set that holds and counts nothing is not listed. -/
def mapL2 (t : Table L2Set) (f : L2Way → Option L2Way) : Table L2Set :=
  t.filterMap fun p => let x := p.2.map f; if x = L2Set.empty then none else some (p.1, x)

/-- Forget the lines that a condition names. -/
def dropL2 (t : Table L2Set) (hit : Nat → Bool) : Table L2Set := mapL2 t fun w => if hit w.line then none else some w

/-- A slice keeps its pinned lines alone (23 R408); `slice` is die * 64 + its number. -/
def Coherence.emptySlice (c : Coherence) (slice : Nat) : Coherence :=
  { c with l2 := c.l2.filterMap fun p =>
      let x : L2Set := if p.1 / 1024 = slice then p.2.map fun w => if w.pinned then some w else none else p.2
      if x = L2Set.empty then none else some (p.1, x) }

/-! ### Fills -/

/-- An evicted line is written back: its forward mark is cleared, and memory has its newest bytes (10 R229). -/
def Coherence.writeBackMark (c : Coherence) (line : Nat) : Coherence :=
  let gone := c.marks.filterMap fun (k, m) => m.bind fun m => if m.vline = line then some k else none
  { c with marks := c.marks.filter (fun p => !gone.contains p.1), stale := c.stale.filter (fun p => !gone.contains p.1) }

/-- Where a line is looked up: at its placement, or, while a RESEED of the owner moves its lines, at the old one that still holds it (11 R260). -/
def State.heldPlace (s : State) (o : Owner) (line key : Nat) : Nat :=
  if o.state = .reseeding then ((s.coh.l2.find? fun p => p.2.holds line).map (·.1)).getD key else key

/-- The I/O die that a second-tier address belongs to: 512 GiB are on each (01 R8, R14). -/
def tierDie (loc : Nat) : Nat := (loc - tierBase) / 2 ^ 39 % 2

/-- A request of a die reaches an I/O die over the links: its own, where it is attached to that I/O die, else through the lower of the two dies that are (01 R8). -/
def State.askIo (s : State) (die io owner : Nat) : State :=
  if die / 2 = io then s.ask 1 die (4 + io) owner else (s.ask 1 die (2 * io) owner).ask 1 (2 * io) (4 + io) owner

/-- A line that is not in its slice is read from memory: by a stack's command bus, or, over the links to an I/O die, by a second-tier controller there (01 R8,
R14, 11 R254). -/
def State.askMemory (s : State) (owner line : Nat) : State :=
  match s.walk (128 * line) with
  | some l =>
    if l.frame < hbmBytes then s.ask 4 (hbmDie l.frame) (l.frame / 2 ^ 36 % 2) owner
    else (s.askIo l.home (tierDie l.frame) owner).ask 5 (tierDie l.frame) 0 owner
  | none => s

/-- A line fills its slice, pinned or not; one that is there already is pinned if asked. -/
def State.fillL2 (s : State) (line : Nat) (pinned : Bool := false) : State :=
  match s.l2Place line with
  | none => s
  | some (o, key) =>
    let key := s.heldPlace o line key
    let x := getT L2Set.empty s.coh.l2 key
    if x.holds line then
      if pinned then { s with coh := { s.coh with l2 := setT L2Set.empty s.coh.l2 key (x.map fun w => some (if w.line = line then { w with pinned := true } else w)) } }
      else s
    else
      let (x, v) := x.fill o s.coh.marks { line := line, pinned := pinned }
      let c := { s.coh with l2 := setT L2Set.empty s.coh.l2 key x }
      ({ s with coh := if c.marks.isEmpty then c else match v with
        | some w => c.writeBackMark w.line
        | none => c } : State).askMemory o.id line

/-- Lines fill their slices in turn. -/
def State.fillLines (s : State) (lines : List Nat) : State := lines.foldl (fun s l => s.fillL2 l) s

/-! ### Relocation by an owner's RESEED (11 R258, R259) -/

/-- A pass under way over an owner's slices: their sets, the forward marks, the lines moved, the victims evicted and the pins they dropped. -/
structure L2Pass where
  coh : Coherence
  moved : Nat
  victims : Nat
  pins : Nat
  deriving DecidableEq, Repr

/-- Is a set one of an owner's slices? -/
def Owner.ownsSet (o : Owner) (key : Nat) : Bool := o.slices.getD (key / 65536) 0 / 2 ^ (key / 1024 % 64) % 2 == 1

/-- One line of the visited set moves to its new slice and set, if those are others; its home die stays. -/
def L2Pass.move (p : L2Pass) (o : Owner) (key : Nat) (w : L2Way) : L2Pass :=
  let dest := o.l2Place (key / 65536) w.line
  if dest = key then p
  else
    let sets := modT L2Set.empty p.coh.l2 key (·.map fun x => if x.line = w.line then none else some x)
    let (x, v) := (getT L2Set.empty sets dest).fill o p.coh.marks w
    let c := { p.coh with l2 := setT L2Set.empty sets dest x }
    match v with
    | none => { p with coh := c, moved := p.moved + 1 }
    | some w => { coh := c.writeBackMark w.line, moved := p.moved + 1, victims := p.victims + 1, pins := p.pins + if w.pinned then 1 else 0 }

/-- Visit one set: its lines in way order. -/
def L2Pass.visit (p : L2Pass) (o : Owner) (key : Nat) : L2Pass :=
  ((getT L2Set.empty p.coh.l2 key).ways.filterMap id).foldl (fun p w => p.move o key w) p

/-- The sets of an owner's slices begin to count evictions anew. -/
def clearEvictions (o : Owner) (t : Table L2Set) : Table L2Set :=
  t.filterMap fun p =>
    let x : L2Set := if o.ownsSet p.1 then { p.2 with evictions := 0 } else p.2
    if x = L2Set.empty then none else some (p.1, x)

/-- The whole pass: the owner's sets in ascending order, under the seed the owner has now. -/
def Coherence.relocateL2 (c : Coherence) (o : Owner) : L2Pass :=
  let keys := (c.l2.map (·.1)).filter o.ownsSet
  keys.foldl (fun p key => p.visit o key) { coh := { c with l2 := clearEvictions o c.l2 }, moved := 0, victims := 0, pins := 0 }

/-- The owner's slices are written back and invalidated: no line, mark or count is left in them. -/
def Coherence.flushL2 (c : Coherence) (o : Owner) : Coherence :=
  let mine := c.l2.filter fun p => o.ownsSet p.1
  let c := { c with l2 := c.l2.filter fun p => !o.ownsSet p.1 }
  mine.foldl (fun c p => (p.2.ways.filterMap id).foldl (fun c w => c.writeBackMark w.line) c) c

end Sys2Proof.Machine
end

