-- ==== Sys2Proof/Machine/Coherence.lean ====
section
/-!
DEFINITION. Sys2Proof/Machine/Coherence.lean: the protocol engine of a home agent (10 R227, R232 to R238), the seven boot
tables, and the steps a die takes on a protocol message. Committed values live in State.mem; what the engine moves is who
may hold a line and in which state.
-/

namespace Sys2Proof.Machine

/-! ### Action words (10 R234) -/

/-- The fields of an action word. -/
structure Action where
  handled : Bool
  atom : Bool
  lease : Bool
  upd : Bool
  wb : Bool
  clrSh : Bool
  addReq : Bool
  setOwn : Bool
  clrOwn : Bool
  dropReq : Bool
  dest : Nat
  msg : Nat
  wait : Nat
  next : Nat
  deriving DecidableEq, Repr

/-- Read an action word. -/
def Action.ofWord (w : Nat) : Action :=
  let b := fun k => w / 2 ^ k % 2 == 1
  { handled := b 23, atom := b 22, lease := b 21, upd := b 20, wb := b 19, clrSh := b 18, addReq := b 17, setOwn := b 16
    clrOwn := b 15, dropReq := b 14, dest := w / 2 ^ 11 % 8, msg := w / 2 ^ 7 % 16, wait := w / 2 ^ 4 % 8, next := w % 16 }

/-- Write an action word: the flags are given as their bit numbers. -/
def actionWord (next wait msg dest : Nat) (flags : List Nat) : Nat :=
  2 ^ 23 + (flags.map (2 ^ ·)).sum + dest * 2 ^ 11 + msg * 2 ^ 7 + wait * 2 ^ 4 + next

def aATOM : Nat := 22
def aLEASE : Nat := 21
def aUPD : Nat := 20
def aWB : Nat := 19
def aCLRSH : Nat := 18
def aADDREQ : Nat := 17
def aSETOWN : Nat := 16
def aCLROWN : Nat := 15
def aDROPREQ : Nat := 14

/-- Events of 10 R233. -/
def evGets : Nat := 0
def evGetm : Nat := 1
def evUpgrade : Nat := 2
def evPuts : Nat := 3
def evPutm : Nat := 4
def evAtomic : Nat := 5
def evWrite : Nat := 6
def evDirEvict : Nat := 7
def evRecall : Nat := 8
def evFlush : Nat := 9
def evReclassify : Nat := 10
def evFwdtagConsume : Nat := 11

/-- The twelve action words of one INV-like state from those of events 0 to 4 (10 R236). -/
def invRow (st gets getm upg puts putm : Nat) : List Nat :=
  let rcl := actionWord 0 1 5 4 [aWB, aCLRSH, aCLROWN]
  [gets, getm, upg, puts, putm, getm, actionWord st 0 6 1 [], rcl, rcl, rcl, actionWord st 0 6 1 [],
   actionWord 0 0 0 0 [aCLRSH, aCLROWN]]

/-- 32 words per state: twelve events and twenty that are never raised. -/
def padRow (r : List Nat) : List Nat := r ++ List.replicate (32 - r.length) 0

def noState : List Nat := List.replicate 32 0

/-- The INV table's rows; `extra` is added to every entry that grants ownership (LEASE in the LSE table, 10 R237). -/
def invRows (extra : List Nat) : List (List Nat) :=
  let own := aSETOWN :: aADDREQ :: extra
  let take := fun msg dest => actionWord 4 1 msg dest (aCLRSH :: own)
  [ invRow 0 (actionWord 2 2 0 0 own) (actionWord 4 2 0 0 own) (actionWord 4 2 0 0 own) (actionWord 0 0 6 1 [])
      (actionWord 0 0 6 1 []),
    invRow 1 (actionWord 1 2 0 0 [aADDREQ]) (take 1 3) (take 1 3) (actionWord 1 0 0 0 [aDROPREQ]) (actionWord 1 0 6 1 []),
    invRow 2 (actionWord 1 1 2 2 [aADDREQ, aCLROWN]) (take 3 2) (actionWord 4 0 0 0 []) (actionWord 0 0 0 0 [aDROPREQ, aCLROWN])
      (actionWord 0 0 0 0 [aWB, aDROPREQ, aCLROWN]),
    invRow 3 (actionWord 3 1 2 2 [aADDREQ]) (take 3 4) (take 1 4) (actionWord 3 0 0 0 [aDROPREQ])
      (actionWord 1 0 0 0 [aWB, aDROPREQ, aCLROWN]),
    invRow 4 (actionWord 3 1 2 2 [aADDREQ]) (take 3 2) (actionWord 4 0 0 0 []) (actionWord 4 0 6 1 [])
      (actionWord 0 0 0 0 [aWB, aDROPREQ, aCLROWN]) ]

def invAttr : List Nat := [0x01, 0x19, 0x15, 0x1B, 0x17]

/-- A table from its used rows. -/
def mkTable (kind : Nat) (attr : List Nat) (rows : List (List Nat)) : ProtoTable :=
  { kind := kind, init := 0, attr := attr ++ List.replicate (16 - attr.length) 0
    action := (rows.map padRow).flatten ++ List.replicate (32 * (16 - rows.length)) 0 }

def tableInv : ProtoTable := mkTable kindInv invAttr (invRows [])
def tableLse : ProtoTable := mkTable kindLse invAttr (invRows [aLEASE])

/-- A read miss takes the line exclusively (10 R237). -/
def tableMig : ProtoTable :=
  mkTable kindMig invAttr ((invRows []).map fun r => (r.getD 1 0) :: r.drop 1)

/-- UPD: no die owns a line, every write reaches every sharer (10 R237). -/
def tableUpd : ProtoTable :=
  let upd := actionWord 1 1 4 3 [aUPD, aADDREQ]
  let row := fun st =>
    let rcl := actionWord 0 1 5 4 [aWB, aCLRSH, aCLROWN]
    [actionWord 1 2 0 0 [aADDREQ], upd, upd, actionWord st 0 0 0 [aDROPREQ], actionWord st 0 6 1 [],
     actionWord 1 1 4 3 [aATOM, aADDREQ], upd, rcl, rcl, rcl, actionWord st 0 6 1 [],
     actionWord 0 0 0 0 [aCLRSH, aCLROWN]]
  mkTable kindUpd [0x01, 0x19] [row 0, row 1]

/-- WO: one write turns a line WRITTEN; a further one is refused before it reaches the table (10 R237, R238). The entries that R237 does not list leave the
state and send nothing (DESIGN CHOICE, log 220), but for a consumed forward tag, which returns the entry to INIT (R229). -/
def tableWo : ProtoTable :=
  let row := fun st gets write => let keep := actionWord st 0 0 0 []
    [gets, keep, keep, keep, keep, keep, write, keep, keep, keep, keep, actionWord 0 0 0 0 [aCLRSH, aCLROWN]]
  mkTable kindWo [0x01, 0x0B] [row 0 (actionWord 0 0 0 0 []) (actionWord 1 0 0 0 []), row 1 (actionWord 1 0 0 0 [aADDREQ]) (actionWord 1 0 0 0 [])]

/-- CLS: INV for SHARED pages, with the untracked states PRIVATE and READONLY (10 R237). -/
def tableCls : ProtoTable :=
  let ack := fun st => actionWord st 0 6 1 [aWB]
  let row := fun st => [ack st, ack st, ack st, ack st, ack st, ack st, ack st, ack st, ack st, ack st, actionWord 0 0 6 1 [aWB], ack st]
  mkTable kindCls (invAttr ++ [0x07, 0x09]) (invRows [] ++ [row 5, row 6])

/-- SWM: nothing is tracked (10 R237). -/
def tableSwm : ProtoTable :=
  let ack := actionWord 0 0 6 1 []
  mkTable kindSwm [0x01] [[ack, ack, ack, ack, ack, actionWord 0 0 6 1 [aATOM], ack, ack, ack, ack, ack, ack]]

/-- The tables boot firmware loads into slots 0 to 6 (10 R232). -/
def bootTables : List ProtoTable := [tableInv, tableLse, tableUpd, tableMig, tableWo, tableCls, tableSwm]

/-! ### The engine -/

/-- The state of a line with no directory entry. -/
def initEntry (t : ProtoTable) : DirEntry := { state := t.init, sharers := 0, owner := none }

def isDirty (t : ProtoTable) (st : Nat) : Bool := t.attr.getD st 0 / 2 % 2 == 1

/-- Is die d in a sharer mask? -/
def hasDie (mask d : Nat) : Bool := mask / 2 ^ d % 2 == 1

def setDie (mask d : Nat) : Nat := if hasDie mask d then mask else mask + 2 ^ d

def clearDie (mask d : Nat) : Nat := if hasDie mask d then mask - 2 ^ d else mask

/-- Events the home raises itself: no die asks for them, and none is excused from their messages (10 R233, R236). -/
def homeRaised (ev : Nat) : Bool := ev == evDirEvict || ev == evRecall || ev == evFlush

/-- The receivers of a message: 1 requester, 2 owner, 3 sharers other than the requester, 4 every die but the requester's (13 R270). -/
def receivers (e : DirEntry) (asks : Option Nat) (dest : Nat) : List Nat :=
  match dest with
  | 1 => asks.toList
  | 2 => e.owner.toList
  | 3 => (List.range 4).filter (fun d => hasDie e.sharers d && asks != some d)
  | 4 => (List.range 4).filter (fun d => asks != some d)
  | _ => []

def msgInv : Nat := 1
def msgFwdS : Nat := 2
def msgFwdM : Nat := 3
def msgUpdate : Nat := 4
def msgRecall : Nat := 5
def msgAck : Nat := 6
def msgData : Nat := 16
def msgAnswer : Nat := 17
def msgGrant : Nat := 18
def msgOwnerData : Nat := 19

def State.mapCoh (s : State) (f : Coherence → Coherence) : State := { s with coh := f s.coh }

/-- The slot that governs a line for the owner of a core, and its table. -/
def State.tableOf (s : State) (core line : Nat) : Option ProtoTable :=
  let slot := ((s.rangeOf core (s.core core).owner (128 * line)).map (·.slot)).getD 0
  getT none s.slots slot

/-- Drop the copies the cores of a die hold of a line, and its snoop-filter entry with them. -/
def Coherence.dropDie (c : Coherence) (line die : Nat) : Coherence :=
  { c with
    holders := modT [] c.holders line (fun l => l.filter (fun k => dieOf k != die)), l1 := dropTags c.l1 fun k l => dieOf k == die && l == line
    filters := dropFilters c.filters fun d l => d == die && l == line }

/-- Memory has the line's newest bytes. -/
def Coherence.cleaned (c : Coherence) (line : Nat) : Coherence := { c with behind := setT none c.behind line none }

/-- Drop every copy that an L1D holds of a line. -/
def Coherence.dropAll (c : Coherence) (line : Nat) : Coherence :=
  { c.cleaned line with
    holders := setT [] c.holders line [], l1 := dropTags c.l1 fun _ l => l == line, filters := dropFilters c.filters fun _ l => l == line }

/-- Forget the snoop-filter entries of lines that no L1D of the die holds any more. -/
def Coherence.pruneFilters (c : Coherence) : Coherence :=
  { c with filters := dropFilters c.filters fun d l => !(getT [] c.holders l).any fun k => dieOf k == d }

/-- Record a directory entry. One without DIRTY whose sharer mask becomes empty moves to INIT, and an empty entry in INIT is no entry (10 R236). -/
def Coherence.putDir (c : Coherence) (t : ProtoTable) (line : Nat) (old e : DirEntry) : Coherence :=
  let e' := if old.sharers ≠ 0 ∧ e.sharers = 0 ∧ !isDirty t e.state then initEntry t else e
  { c with dir := setT none c.dir line (if e' = initEntry t then none else some e') }

/-- Does an unexpired lease stand on a line (10 R234)? -/
def State.leased (s : State) (line : Nat) : Bool :=
  s.coh.leases.any fun (k, e) => k % 2 ^ 64 == line && (match e with | some t => decide ((s.die (dieOf (k / 2 ^ 64))).gct < t) | none => false)

/-- The class a state gives a requester: 2 writable where one die may write, 1 read-only where several may read (10 R232, R234). -/
def ProtoTable.grant (t : ProtoTable) (st : Nat) : Nat :=
  let a := t.attr.getD st 0
  if a / 4 % 2 = 1 then 2 else if a / 8 % 2 = 1 then 1 else 0

/-- How the home answers the requester of an event (10 R234): data with a GETS, GETM or ATOMIC that no owner answers, a grant alone with an UPGRADE. -/
def answerKind (ev : Nat) (a : Action) : Option Nat :=
  if ev = evUpgrade then some msgGrant
  else if (ev = evGets ∨ ev = evGetm ∨ ev = evAtomic) ∧ a.msg ≠ msgFwdS ∧ a.msg ≠ msgFwdM then some msgData
  else none

/-- The messages that an action sends: MSG to its receivers, UPDATE to every other sharer where UPD asks it and MSG is another, and the answer. -/
def Action.messages (a : Action) (t : ProtoTable) (e : DirEntry) (ev line req : Nat) : List ProtoMsg × List ProtoMsg :=
  let asks := if homeRaised ev then none else some (dieOf req)
  let grant := t.grant a.next
  let msgs := if a.msg = 0 then [] else (receivers e asks a.dest).map fun d =>
    { kind := a.msg, line := line, die := d, req := req, grant := grant
      toOwner := (a.msg == msgFwdS || a.msg == msgFwdM) && e.owner == some d : ProtoMsg }
  let updates := if a.upd ∧ a.msg ≠ msgUpdate then (receivers e asks 3).map fun d => { kind := msgUpdate, line := line, die := d, req := req : ProtoMsg } else []
  let answer := ((answerKind ev a).map fun k => { kind := k, line := line, die := dieOf req, req := req, grant := grant : ProtoMsg }).toList
  (msgs ++ updates, answer)

/-- The home die of a line, as a core's request finds it. -/
def State.homeOf (s : State) (line req : Nat) : Nat := ((s.walk (128 * line)).map (·.home)).getD (dieOf req)

/-- A request comes through the network to the home agent of a line's home die (11 R254). -/
def State.askHome (s : State) (line req : Nat) : State := (s.crosses req (s.homeOf line req)).ask 3 (s.homeOf line req) 0 ((s.core req).owner)

/-- What one event does at a line's home (10 R234). While a wait is outstanding the line is busy and the event queues; an action with LEASE waits so
while leases stand on the line. -/
def Coherence.homeAct (c : Coherence) (t : ProtoTable) (leased : Bool) (ev line req : Nat) : Coherence :=
  let later := { c with queue := c.queue ++ [{ event := ev, line := line, req := req }] }
  if c.busy.any (·.line == line) then later
  else
    let e := (getT none c.dir line).getD (initEntry t)
    let a := Action.ofWord (t.action.getD (32 * e.state + ev) 0)
    if !a.handled then c
    else if a.lease ∧ leased then { later with busy := { line := line, answers := 0, data := false, req := req, lease := true } :: c.busy }
    else
      let die := dieOf req
      let sh := if a.clrSh then 0 else e.sharers
      let sh := if a.addReq then setDie sh die else sh
      let sh := if a.dropReq then clearDie sh die else sh
      let own := if a.setOwn then some die else if a.clrOwn then none else e.owner
      let (sends, answer) := a.messages t e ev line req
      let owed := if a.wait = 1 then sends.length else 0
      let data := a.wait == 2 && answer.any (·.kind == msgData)
      let c := c.putDir t line e { state := a.next, sharers := sh, owner := own }
      let c := if a.wb then c.cleaned line else c
      { c with
        msgs := c.msgs ++ sends ++ answer
        busy := if owed = 0 ∧ !data then c.busy else { line := line, answers := owed, data := data, req := req } :: c.busy }

/-- Run one event at a line's home, by the table of the line's range. -/
def State.homeEvent (s : State) (ev line req : Nat) : State :=
  match s.tableOf req line with
  | none => s
  | some t => (s.askHome line req).mapCoh fun c => c.homeAct t (s.leased line) ev line req

/-- A line whose wait is over frees, and its oldest queued event runs. -/
def State.unbusy (s : State) (line : Nat) : State :=
  if s.coh.busy.any (fun b => b.line == line && b.answers == 0 && !b.data && !b.lease) then
    let s := s.mapCoh fun c => { c with busy := c.busy.filter (fun b => b.line != line) }
    match s.coh.queue.find? (·.line == line) with
    | some q => (s.mapCoh fun c => { c with queue := c.queue.erase q }).homeEvent q.event line q.req
    | none => s
  else s

/-- A receiver has answered, or the data have come. -/
def State.answered (s : State) (line : Nat) (data : Bool) : State :=
  (s.mapCoh fun c => { c with busy := c.busy.map fun b =>
    if b.line = line then (if data then { b with data := false } else { b with answers := b.answers - 1 }) else b }).unbusy line

/-- A die acts on a protocol message (10 R234, 13 R270): a receiver answers the home, and an owner that is told to forward the line sends it to the
requester first. -/
def State.takeMsg (s : State) (m : ProtoMsg) : State :=
  let s := s.mapCoh fun c => { c with msgs := c.msgs.erase m }
  let reply := fun (s : State) => s.mapCoh fun c =>
    { c with msgs := c.msgs ++ (if m.toOwner then [{ kind := msgOwnerData, line := m.line, die := dieOf m.req, req := m.req, grant := m.grant }] else [])
      ++ [{ kind := msgAnswer, line := m.line, die := m.die, req := m.req }] }
  if m.kind = msgInv ∨ m.kind = msgRecall ∨ m.kind = msgFwdM then
    reply (s.mapCoh fun c => c.dropDie m.line m.die)
  else if m.kind = msgFwdS ∨ m.kind = msgUpdate then reply s
  else if m.kind = msgData then s.answered m.line true
  else if m.kind = msgAnswer then s.answered m.line false
  else s

/-- Take the first message of these kinds for a die and line, if there is one. -/
def State.takeFirst (s : State) (kinds : List Nat) (die line : Nat) : State :=
  match s.coh.msgs.find? (fun m => kinds.contains m.kind && m.die == die && m.line == line) with
  | some m => s.takeMsg m
  | none => s

/-- Let the protocol messages run until none is left. -/
def State.settle : Nat → State → State
  | 0, s => s
  | n + 1, s =>
    match s.coh.msgs with
    | [] => s
    | m :: _ => State.settle n (s.takeMsg m)

/-- An event and all that follows from it, at once. -/
def State.transact (s : State) (ev line req : Nat) : State := State.settle 64 (s.homeEvent ev line req)

/-- Does the die of a core own a line in a state with an attribute of its table (10 R232): bit 1 DIRTY, bit 2 EXCL? -/
def State.ownsIn (s : State) (attr core line : Nat) : Bool :=
  match getT none s.coh.dir line, s.tableOf core line with
  | some e, some t => e.owner == some (dieOf core) && t.attr.getD e.state 0 / 2 ^ attr % 2 == 1
  | _, _ => false

/-- Is the copy of a core's die dirty (10 R236)? Only an owner's copy is. -/
def State.dirtyIn (s : State) (core line : Nat) : Bool := s.ownsIn 1 core line

/-- A die has given up its last copy of a line: it reports PUTM if its copy was dirty, and else PUTS (10 R227, R233). -/
def State.reportGone (s : State) (core line : Nat) : State :=
  let s := s.mapCoh fun c => { c with filters := dropFilters c.filters fun d l => d == dieOf core && l == line }
  if s.dirtyIn core line then (s.mapCoh fun c => c.cleaned line).homeEvent evPutm line core
  else s.homeEvent evPuts line core

/-- A core's L1D gives up a victim; the last copy of its die is reported to the home. -/
def State.dropVictim (s : State) (core line : Nat) : State :=
  let held := getT [] s.coh.holders line
  if core ∉ held then s
  else
    let s := s.mapCoh fun c => { c with holders := setT [] c.holders line (held.filter (· != core)) }
    if held.any fun k => dieOf k == dieOf core && k != core then s else s.reportGone core line

/-! ### The snoop filters (10 R227, 13 R269) -/

/-- An evicted filter entry back-invalidates its line in every L1D of the die, and the die reports it. -/
def State.backInvalidate (s : State) (die line : Nat) : State :=
  match (getT [] s.coh.holders line).find? fun k => dieOf k == die with
  | some k => (s.mapCoh fun c => c.dropDie line die).reportGone k line
  | none => s

/-- The first tracked copy in a die takes an entry among the ways of the core's owner; where none is free, that owner's victim leaves. -/
def State.fillFilter (s : State) (core line : Nat) : State :=
  if (getT [] s.coh.holders line).any fun k => dieOf k == dieOf core then s
  else match s.owner? (s.core core).owner with
    | none => s
    | some o =>
      let w := popcount o.sfWays
      if w = 0 then s
      else
        let key := filterKey o.id (dieOf core) line
        let x := getT { ways := [], evictions := 0 } s.coh.filters key
        let x : L1Set := if x.ways.isEmpty then { x with ways := List.replicate w none } else x
        let (x, v) := x.fill o.placementSeed o.id line
        let s := s.mapCoh fun c => { c with filters := setT { ways := [], evictions := 0 } c.filters key x }
        match v with
        | some l => s.backInvalidate (dieOf core) l
        | none => s

/-! ### Leases (10 R234, R237) -/

/-- With a line's last lease the action that waits for it runs (10 R234). -/
def State.leasesOver (s : State) (line : Nat) : State :=
  if s.leased line ∨ !s.coh.busy.any (fun b => b.line == line && b.lease) then s
  else (s.mapCoh fun c => { c with busy := c.busy.map fun b => if b.line = line then { b with lease := false } else b }).unbusy line

/-- The leases that a condition on core and line names end, and what waited for them goes on. -/
def State.dropLeases (s : State) (hit : Nat → Nat → Bool) : State :=
  let s := s.mapCoh fun c => { c with leases := c.leases.filter fun p => !hit (p.1 / 2 ^ 64) (p.1 % 2 ^ 64) }
  (s.coh.busy.filter (·.lease)).foldl (fun s b => s.leasesOver b.line) s

/-! ### Copies in the L1Ds -/

/-- A core's L1D takes a read copy, asking the home if its die holds none (10 R227, R236). Under LSE the copy is a lease, which each fill sets anew
(R237). A line of a WO or SWM range takes no entry, and a read that misses reaches its home (R237). -/
def State.cacheLoad (s : State) (core : Nat) (p : Place) (missed : Bool) : State :=
  if !p.tracked then s
  else if p.kind = kindWo || p.kind = kindSwm then (if missed then s.transact evGets p.lineKey core else s)
  else
    let line := p.lineKey
    let held := getT [] s.coh.holders line
    if core ∈ held then s
    else if p.kind = kindLse then
      let now := (s.die (dieOf core)).gct
      if (match getT none s.coh.leases (core * 2 ^ 64 + line) with | some t => decide (now < t) | none => false) then s
      else
        let s := if ((getT none s.coh.dir line).map (fun e => hasDie e.sharers (dieOf core))).getD false then s
          else s.transact evGets line core
        s.mapCoh fun c => { c with leases := setT none c.leases (core * 2 ^ 64 + line) (some (now + (if p.lease = 0 then 1000 else p.lease))) }
    else
      let s := if held.any fun k => dieOf k == dieOf core then s else s.transact evGets line core
      (s.fillFilter core line).mapCoh fun c => { c with holders := modT [] c.holders line (insertN core) }

/-- A core's L1D obtains write permission: its die becomes the owner in M, or in the table's own such state, by UPGRADE where the die holds the line and
by GETM where it does not (10 R233), and the die's other copies are invalidated (R227). -/
def State.own (s : State) (core line : Nat) : State :=
  let held := getT [] s.coh.holders line
  let s := if s.ownsIn 2 core line && s.ownsIn 1 core line then s
    else s.transact (if held.any fun k => dieOf k == dieOf core then evUpgrade else evGetm) line core
  (s.fillFilter core line).mapCoh fun c => { c with
    holders := setT [] c.holders line [core]
    l1 := dropTags c.l1 fun k l => k != core && l == line }

/-- A protocol under which a core writes a line only while its die owns it (10 R227). -/
def ownedKind (kind : Nat) : Bool := kind == kindInv || kind == kindLse || kind == kindMig || kind == kindCls

/-- A core's L1D takes a line to write. Under UPD no die owns a line, and the write reaches the home when its chunk commits (10 R233). -/
def State.cacheStore (s : State) (core : Nat) (p : Place) : State :=
  if !p.tracked then s
  else if ownedKind p.kind then s.own core p.lineKey
  else if p.kind = kindUpd then s.cacheLoad core p false
  else s

end Sys2Proof.Machine
end

