-- ==== Sys2Proof/Machine/Copy.lean ====
section
/-!
DEFINITION. Sys2Proof/Machine/Copy.lean: what a transfer writes and reads, from its shadow fields (18 R350 to R354): the
destination byte sequence, its chunks, its range, and the validation of a launch.
-/

namespace Sys2Proof.Machine

/-! ### Shadow fields (18 R350, R351) -/

/-- The shadow fields as XGO reads them, cut to their used bits. -/
structure CopyPlan where
  src : Nat
  dst : Nat
  srcStride : Int
  dstStride : Int
  rows : Nat
  rowBytes : Nat
  mode : Nat
  padL : Nat
  padR : Nat
  padT : Nat
  padB : Nat
  modeReserved : Bool
  modePads : Bool
  elem : Nat
  landing : Nat
  barrier : Nat
  padVal : Nat
  index : Nat
  fwd : Nat
  deriving DecidableEq, Repr

def CopyPlan.ofShadow (v : Vector Word 13) : CopyPlan :=
  let m := v[6]
  { src := v[0].toNat, dst := v[1].toNat, srcStride := signed v[2].toNat 32, dstStride := signed v[3].toNat 32
    rows := bitsOf v[4] 0 16, rowBytes := bitsOf v[5] 0 19, mode := bitsOf m 0 3
    padL := bitsOf m 8 16, padR := bitsOf m 24 16, padT := bitsOf m 40 8, padB := bitsOf m 48 8
    modeReserved := bitsOf m 3 5 != 0 || bitsOf m 56 8 != 0, modePads := bitsOf m 8 48 != 0
    elem := bitsOf v[7] 0 3, landing := v[8].toNat, barrier := v[9].toNat, padVal := v[10].toNat
    index := v[11].toNat, fwd := bitsOf v[12] 0 10 }

/-- Modes of MODE.M. -/
def modePlain : Nat := 0
def modeTranspose : Nat := 1
def modeReblock : Nat := 2
def modePad : Nat := 3
def modeGather : Nat := 4

/-- The element width: 1, 2, 4 or 8 bytes. -/
def CopyPlan.e (p : CopyPlan) : Nat := 2 ^ min p.elem 3

/-- Destination rows and the bytes of each (18 R352). -/
def CopyPlan.destRows (p : CopyPlan) : Nat × Nat :=
  if p.mode = modeTranspose then (p.rowBytes / p.e, p.rows * p.e)
  else if p.mode = modePad then (p.padT + p.rows + p.padB, p.padL + p.rowBytes + p.padR)
  else (p.rows, p.rowBytes)

/-- Bytes of the destination sequence. -/
def CopyPlan.total (p : CopyPlan) : Nat := p.destRows.1 * p.destRows.2

/-- Chunks of 512 bytes (18 R352). -/
def CopyPlan.chunks (p : CopyPlan) : Nat := (p.total + 511) / 512

/-- R_b of a reblock: 128, 256, or 128 for an LNS6 row of 96 data bytes (18 R352, 17 R331). -/
def CopyPlan.blockedRow (p : CopyPlan) : Nat := if p.elem = 1 then 256 else 128

/-- Where byte b of canonical row a lies from the base (17 R331). -/
def canonical (rb a b : Nat) : Nat := (a / 32 * (rb / 64) + b / 64) * 2048 + a % 32 * 64 + b % 64

/-- The position in a canonical row of data byte i: LNS6 rows hold data in bytes 0 to 47 and 64 to 111 (17 R331). -/
def CopyPlan.rowByte (p : CopyPlan) (i : Nat) : Nat := if p.elem = 4 ∧ 48 ≤ i then i + 16 else i

/-- An address computed in 64 bits. -/
def wrap64 (x : Int) : Nat := (x % 2 ^ 64).toNat

/-- Where byte i of the destination sequence goes. -/
def CopyPlan.destAddr (p : CopyPlan) (i : Nat) : Nat :=
  let q := i / p.destRows.2
  let b := i % p.destRows.2
  if p.mode = modeReblock then wrap64 (p.dst + canonical p.blockedRow q (p.rowByte b))
  else wrap64 (p.dst + q * p.dstStride + b)

/-- Where the data byte comes from: a byte of PADVAL, a source address, or for gather the row whose index selects it and the byte. -/
inductive CopySource where
  | pad (b : Byte)
  | addr (a : Nat)
  | gather (q b : Nat)
  deriving DecidableEq, Repr

/-- The source of byte i of the destination sequence (18 R352). -/
def CopyPlan.source (p : CopyPlan) (i : Nat) : CopySource :=
  let q := i / p.destRows.2
  let b := i % p.destRows.2
  if p.mode = modeTranspose then
    .addr (wrap64 (p.src + (b / p.e : Nat) * p.srcStride + q * p.e + b % p.e))
  else if p.mode = modePad then
    if p.padT ≤ q ∧ q < p.padT + p.rows ∧ p.padL ≤ b ∧ b < p.padL + p.rowBytes then
      .addr (wrap64 (p.src + (q - p.padT : Nat) * p.srcStride + (b - p.padL : Nat)))
    else .pad (BitVec.ofNat 8 (p.padVal / 256 ^ (b % p.e)))
  else if p.mode = modeGather then .gather q b
  else .addr (wrap64 (p.src + q * p.srcStride + b))

/-- The lowest destination byte and the one above the highest, as exact integers (18 R353, R356). -/
def CopyPlan.destRange (p : CopyPlan) : Int × Int :=
  let (n, len) := p.destRows
  if p.mode = modeReblock then
    (p.dst, p.dst + canonical p.blockedRow (n - 1) (p.rowByte (len - 1)) + 1)
  else
    let last := (n - 1 : Nat) * p.dstStride
    (p.dst + min 0 last, p.dst + max 0 last + len)

/-- Bytes of the landing record (18 R354). -/
def CopyPlan.recordBytes (p : CopyPlan) : Nat := 16 + 8 * ((p.chunks + 63) / 64)

/-- The bytes of a chunk. -/
def CopyPlan.chunkBytes (p : CopyPlan) (k : Nat) : Nat := min 512 (p.total - 512 * k)

/-- The places in the destination sequence that a chunk writes: its own bytes, and the rest of a 3-byte group that it shares with its neighbour, so
that no group is split (09 R205; DEDUCED, log 203). -/
def CopyPlan.chunkPlaces (p : CopyPlan) (k : Nat) : List Nat :=
  if p.mode = modeReblock ∧ p.elem = 4 then
    let lo := 512 * k / 3 * 3
    let hi := min p.total ((512 * k + p.chunkBytes k + 2) / 3 * 3)
    (List.range (hi - lo)).map (lo + ·)
  else (List.range (p.chunkBytes k)).map (512 * k + ·)

/-- The aligned word that a faulting chunk writes or does not write as a whole (18 R358); with packed elements, 24 bytes, which split neither a
word nor a group. -/
def CopyPlan.unitOf (p : CopyPlan) (a : Nat) : Nat :=
  if p.mode = modeReblock ∧ p.elem = 4 then a / 64 * 64 + a % 64 / 24 * 24 else a / 8 * 8

/-- Does a launch break R353? -/
def CopyPlan.refused (p : CopyPlan) : Bool :=
  let (n, len) := p.destRows
  let usesElem := p.mode == modeTranspose || p.mode == modeReblock || p.mode == modePad
  decide (4 < p.mode) || (usesElem && decide (4 < p.elem)) || p.modeReserved || (p.mode != modePad && p.modePads)
  || p.rows == 0 || p.rowBytes == 0 || decide (262144 < p.rowBytes)
  || p.total == 0 || decide (262144 < p.total)
  || ((p.mode == modeTranspose || p.mode == modePad) && p.elem == 4)
  || ((p.mode == modeTranspose || p.mode == modePad) && p.rowBytes % p.e != 0)
  || (p.mode == modePad && (p.padL % p.e != 0 || p.padR % p.e != 0))
  || (p.mode == modeReblock && (!((p.elem == 0 && p.rowBytes == 128) || (p.elem == 1 && p.rowBytes == 256)
        || (p.elem == 4 && p.rowBytes == 96)) || p.rows % 32 != 0 || p.dst % 64 != 0))
  || (p.mode != modeReblock && decide (1 < n) && decide (p.dstStride.natAbs < len))
  || (p.landing != 0 && decide ((p.landing : Int) < p.destRange.2) && decide (p.destRange.1 < (p.landing + p.recordBytes : Nat)))

/-- The address R353's last paragraph finds misaligned. -/
def CopyPlan.misaligned (p : CopyPlan) : Option Nat :=
  if p.landing % 16 ≠ 0 then some p.landing
  else if p.barrier % 16 ≠ 0 then some p.barrier
  else if p.mode = modeGather ∧ p.index % 4 ≠ 0 then some p.index
  else none

/-! ### The scoreboard (18 R356) -/

def Transfer.plan (t : Transfer) : CopyPlan := CopyPlan.ofShadow t.shadow

/-- Does a transfer read or write a byte of an extent, its landing record and barrier among them? Rows of a gather are not known before they
are read. -/
def Transfer.touches (t : Transfer) (lo n : Nat) : Bool :=
  let p := t.plan
  let inside := fun (a : Nat) => decide (lo ≤ a ∧ a < lo + n)
  (p.landing != 0 && decide (p.landing < lo + n) && decide (lo < p.landing + p.recordBytes))
  || (p.barrier != 0 && decide (p.barrier < lo + n) && decide (lo < p.barrier + 16))
  || (List.range p.total).any fun i => inside (p.destAddr i) || (match p.source i with
    | .addr a => inside a
    | .gather _ _ => true
    | .pad _ => false)

/-- Is the transfer LAUNCHED or IN_FLIGHT? -/
def Transfer.live (t : Transfer) : Bool := t.state == .launched || t.state == .inFlight

/-- Does an access of n bytes at a virtual address meet the destination range of a live transfer of the core? -/
def State.transferHolds (s : State) (core va n : Nat) : Bool :=
  (s.core core).transfers.any fun t =>
    t.live && decide ((va : Int) < t.plan.destRange.2) && decide (t.plan.destRange.1 < (va + n : Nat))

end Sys2Proof.Machine
end

