-- ==== Sys2Proof/Machine/Task.lean ====
section
/-!
DEFINITION. Sys2Proof/Machine/Task.lean: the order of tasks (08 R181 to R183), the room a core has for a handler, and the queue entry that
may be dispatched next (08 R179, R186).
-/

namespace Sys2Proof.Machine

/-- Is the first key earlier? A root key is lower than every task key. -/
def TaskKey.before : TaskKey → TaskKey → Bool
  | .root g r, .root g' r' => decide (g < g') || (g == g' && decide (r < r'))
  | .root _ _, .task _ _ _ => true
  | .task _ _ _, .root _ _ => false
  | .task st p i, .task st' p' i' => decide (st < st') || (st == st' && (p.before p' || (p == p' && decide (i < i'))))

/-- The tasks of a kernel in flight: dispatched and not retired (08 R183). -/
def State.tasksOf (s : State) (owner knum : Nat) : List TaskKey :=
  s.allCtxs.filterMap fun (_, _, c) =>
    if c.life != .free && c.life != .retired && c.owner == owner && c.knum == knum then
      (match c.handling with | some h => if h.freeMode then some h.key else none | none => none)
    else none

/-- Is a kernel placed in pinned-pipeline mode (07 R157)? -/
def Kernel.pinned (k : Kernel) : Bool := k.flags % 2 == 1

/-- The kernel that holds a core. -/
def State.kernelOf (s : State) (core : Nat) : Option Kernel := s.kernel? (s.core core).owner (s.core core).knum

/-- Contexts resident on a core. -/
def State.resident (s : State) (core : Nat) : List (Nat × Nat × Context) :=
  s.allCtxs.filter fun (c, _, x) => c == core && x.life != .free && x.life != .retired && x.life != .spilled

/-- Is a core member of a BOUND cloak (15 R286)? -/
def State.cloaked (s : State) (core : Nat) : Bool := s.allCtxs.any fun (_, _, c) => c.cloak.state == .bound && c.cloak.members.contains core

/-- A context slot of a core's store that holds no context. -/
def State.freeSlot (s : State) (core : Nat) : Option Nat :=
  (List.range (8 * (s.core core).carveCur)).find? fun k => let c := s.ctxAt core k; c.life == .free || c.life == .retired

/-- A payload block of a core that no handler holds (08 R180). -/
def State.freeBlock (s : State) (core : Nat) : Option Nat :=
  (List.range 8).find? fun b => !(s.resident core).any fun (_, _, c) => (c.handling.map (·.block)) == some b

/-- The sequence of a stamp. -/
def seqOf (stamp : Nat) : Nat := stamp / 2 ^ 16 % 2 ^ 48

/-- The earliest entry of a queue by task key. -/
def earliest : List QueueEntry → Option QueueEntry
  | [] => none
  | q :: rest =>
    match earliest rest with
    | some r => some (if r.key.before q.key then r else q)
    | none => some q

/-- Is a task of the kernel running a locked chunk? None is dispatched while it is, so that no earlier one comes between the lock and the
commit (08 R182, 09 R440). -/
def State.lockedTask (s : State) (owner knum : Nat) : Bool :=
  s.allCtxs.any fun (_, _, c) => c.chunk.locked && c.handling.isSome && c.owner == owner && c.knum == knum

/-- Does a seam of the kernel's domain stop its cores: the next one is not OPEN (23 R399, R402)? -/
def State.seamStops (s : State) (k : Kernel) : Bool := ((s.domain? k.seamDomain).map fun d => d.state != .opened).getD false

/-- The entry that may be dispatched (08 R179, R183, R185, R186); none while a seam stops the core (23 R399, R402). -/
def State.dispatchable (s : State) (core : Nat) : Option QueueEntry :=
  let c := s.core core
  match s.kernelOf core with
  | none => none
  | some k =>
    if k.state ≠ .running ∨ c.queueMode ≠ .active ∨ s.cloaked core ∨ s.lockedTask k.owner k.knum ∨ s.seamStops k then none
    else if k.pinned then
      if (s.resident core).any (fun (_, _, x) => x.handling.isSome) then none
      else c.queue.find? fun q => seqOf q.stamp == c.next.toNat
    else if 256 ≤ (s.tasksOf k.owner k.knum).length then none
    else earliest c.queue

/-- The entry of a core's queue that would be dispatched now. -/
def State.nextEntry (s : State) (core : Nat) : Option QueueEntry :=
  if (s.freeSlot core).isSome && (s.freeBlock core).isSome then s.dispatchable core else none

/-- The key of a task in free mode (08 R181). -/
def Context.taskKey (c : Context) : Option TaskKey := c.handling.bind fun h => if h.freeMode then some h.key else none

/-- Is a task earlier than this key in flight, or queued where it would be dispatched now (08 R182)? -/
def State.earlierTask (s : State) (owner knum : Nat) (key : TaskKey) : Bool :=
  (s.tasksOf owner knum).any (·.before key)
    || s.cores.any fun (n, c) => c.owner == owner && c.knum == knum && ((s.nextEntry n).map (·.key.before key)).getD false

/-- A task in its first chunk waits until every earlier task has retired (08 R182). -/
def State.taskWaits (s : State) : Bool :=
  match s.ctx.handling with
  | some h => h.freeMode && h.firstChunk && s.earlierTask s.ctx.owner s.ctx.knum h.key
  | none => false

/-- The other contexts of the executing task's kernel that are tasks, with their keys and its own. -/
def State.otherTasks (s : State) : List (Context × TaskKey × TaskKey) :=
  match s.ctx.taskKey with
  | some mine => s.ctxs.filterMap fun (_, c) =>
    if c.life != .free && c.life != .retired && c.owner == s.ctx.owner && c.knum == s.ctx.knum then c.taskKey.map fun k => (c, k, mine) else none
  | none => []

/-- Has a chunk read or written one of these lines? -/
def Chunk.meets (c : Chunk) (lines : List Nat) : Bool := Machine.meets lines c.readLines || Machine.meets lines c.writeLines

/-- Would a write of the executing task to these lines squash the earliest task? It waits for that one's commit: an earliest task is never squashed by a
later one (08 R182). -/
def State.meetsEarliestOn (s : State) (lines : List Nat) : Bool :=
  let ts := s.otherTasks
  ts.any fun (c, k, mine) => k.before mine && !ts.any (fun (_, j, _) => j.before k) && c.chunk.meets lines

/-- The lines of SWM ranges whose dirty bytes a core still has to write back. -/
def State.swmDirty (s : State) (core : Nat) : List Nat :=
  s.coh.swm.filterMap fun (k, l) => l.bind fun l => if k / 2 ^ 64 = core ∧ !l.dirty.isEmpty then some (k % 2 ^ 64) else none

/-- Would the commit of the executing task's chunk, with what its release writes back, squash the earliest task? -/
def State.meetsEarliest (s : State) : Bool :=
  let c := s.ctx.chunk
  !c.locked && s.meetsEarliestOn (c.writeLines ++ if c.releases then s.swmDirty s.coreId ++ c.swmLines else [])

/-- A task does not take the grants for a locked chunk while a task before it has a chunk in progress that the lock would keep from
committing (08 R182, 09 R440). -/
def State.lockWaits (s : State) : Bool := s.taskWaits || s.otherTasks.any fun (c, k, mine) => k.before mine && c.chunk.ins != 0

/-- A task waits while a later one runs a locked chunk, which must not meet it. -/
def State.laterLocked (s : State) : Bool := s.otherTasks.any fun (c, k, mine) => mine.before k && c.chunk.locked

end Sys2Proof.Machine
end

