-- ==== Sys2Proof/Machine/Access.lean ====
section
/-!
DEFINITION. Sys2Proof/Machine/Access.lean: chunks and their commit (09 R194 to R200), and the core-path accesses Mem.read and
Mem.write of 02 R50 with the checks of 05 R103.
-/

namespace Sys2Proof.Machine

/-! ### Waking and watching -/

/-- Waits that end by executing the instruction again. -/
def WaitKind.retries : WaitKind → Bool
  | .commit | .transferPlace | .replayEntry | .scoreboard | .lockedSet | .fence
  | .cloak | .foreignDomain => true
  | _ => false

/-- Make a waiting context able to issue again (06 R130). -/
def Context.wake (c : Context) : Context :=
  if c.life = .waiting then { c with life := .ready, wait := {} } else c

/-- Contexts whose wait ends by executing again become READY; one whose condition still fails waits again. -/
def State.wakeRetries (s : State) : State :=
  s.mapCtxs fun _ _ c => if c.life = .waiting ∧ c.wait.kind.retries then c.wake else c

/-- Put a held access into its place in the order of arrival. -/
def insertTurn (x : Nat × Nat × Context) : List (Nat × Nat × Context) → List (Nat × Nat × Context)
  | [] => [x]
  | y :: ys => if x.2.2.wait.a < y.2.2.wait.a then x :: y :: ys else y :: insertTurn x ys

/-- What a block at a home has held goes on, one access after the other in the order in which they arrived, before anything else does (10 R239, 22 R390); `a` of such a
wait is its place in that order. -/
def State.releaseHomes (s : State) : State :=
  let held := s.allCtxs.filter fun (_, _, c) => c.life == .waiting && c.wait.kind == .homeBlock
  { s with agenda := ((held.foldl (fun l x => insertTurn x l) []).map fun (core, slot, _) => Move.release core slot) ++ s.agenda }

/-- A watch entry of a core after a write to some lines by a context (or none, another path). -/
def Watch.after (w : Watch) (core : Nat) (lines : List Nat) (writer : Option (Nat × Nat)) : Watch :=
  if lines.contains w.line && writer != some (core, w.slot) then { w with fired := true, reported := false } else w

/-- Has an entry of this context fired and not been reported? -/
def State.hasFired (s : State) (core slot : Nat) : Bool :=
  (s.core core).watches.any (fun w => w.slot == slot && w.fired && !w.reported)

/-- A write to these lines fires every armed entry on them but those of the writing context, and wakes the sleepers
(09 R219, R220, 06 R156). -/
def State.fireWatches (s : State) (lines : List Nat) (writer : Option (Nat × Nat)) : State :=
  if s.cores.all (fun p => p.2.watches.isEmpty) then s
  else
    let cs := s.cores.map fun (k, c) => (k, { c with watches := c.watches.map (·.after k lines writer) })
    let s := { s with cores := cs }
    s.mapCtxs fun core slot c =>
      if c.life = .waiting ∧ (c.wait.kind = .sleep ∨ c.wait.kind = .wfi) ∧ s.hasFired core slot then c.wake else c

/-! ### Chunk limits and squash -/

/-- MAXINS of CR_CHUNKCTL: 0 and values above 512 act as 512 (09 R195). -/
def maxInsOf (ctl : Word) : Nat := let v := bitsOf ctl 0 10; if v = 0 ∨ 512 < v then 512 else v

/-- MAXLINES of CR_CHUNKCTL: 0 and values above 64 act as 64 (09 R195). -/
def maxLinesOf (ctl : Word) : Nat := let v := bitsOf ctl 16 7; if v = 0 ∨ 64 < v then 64 else v

/-- The chunk that begins here on a core. -/
def freshChunk (k : KRegs) (a : Arch) : Chunk :=
  { Chunk.fresh a with maxIns := maxInsOf k.chunkCtl, maxLines := maxLinesOf k.chunkCtl }

/-- CR_CHUNKSTAT after a commit of a chunk (09 R195). -/
def statCommit (w : Word) (c : Chunk) : Word :=
  let w := putBits w 0 16 (bitsOf w 0 16 + 1)
  let w := putBits w 40 8 (min c.vaLines.length 255)
  let w := putBits w 48 10 c.ins
  if c.locked then putBits w 32 8 (min (bitsOf w 32 8 + 1) 255) else w

/-- CR_CHUNKSTAT after a squash (09 R195). -/
def statSquash (w : Word) : Word := putBits w 16 16 (bitsOf w 16 16 + 1)

/-- Write a K-scope register by its index, its RW fields only (06 R137, R138, R143, 08 R178, 09 R195). -/
def KRegs.put (k : KRegs) (index : Nat) (v : Word) : KRegs :=
  match index with
  | 0x004 => { k with tvec := putBits v 0 1 0 }
  | 0x020 => { k with seed := v }
  | 0x021 => { k with kseed := v }
  | 0x032 => { k with backoff := v &&& 0xFFFFF }
  | 0x033 => { k with hboundLo := v }
  | 0x034 => { k with hboundHi := v }
  | 0x038 => { k with waitTmo := v }
  | 0x039 => { k with btmo := v }
  | 0x03A => { k with xtmo := v }
  | 0x048 => { k with chunkCtl := v &&& 0x7F03FF }
  | 0x071 => { k with flogBase := v }
  | 0x075 => { k with tdeleg := v &&& 0xAFFDE }
  | _ => k

/-- The registers outside contexts that a chunk can write: a K-scope register of a core, or one of its die, the capability key and the watchdog's PERIOD;
0x176 stands for its last kick. -/
def regKey (core index : Nat) : Nat := (if index = 0x074 ∨ index = 0x076 ∨ index = 0x176 then 512 + dieOf core else core) * 512 + index

/-- Put a value into such a register. -/
def State.putReg (s : State) (core index : Nat) (v : Word) : State :=
  if index = 0x074 then s.mapDie (dieOf core) fun d => { d with capKey := v }
  else if index = 0x076 then s.mapDie (dieOf core) fun d => { d with wdogPeriod := v.setWidth 32 }
  else if index = 0x176 then s.mapDie (dieOf core) fun d => { d with wdogKick := v.toNat }
  else s.mapCore core fun c => { c with k := c.k.put index v }

/-- The write after a discarded one found what that one had found. -/
def RegUndo.relink (u e : RegUndo) : RegUndo := if u.prev = e.seq then { u with old := e.old, prev := e.prev } else u

/-- Discard a write of a squashed chunk (06 R139): where it is the register's last, the register takes its old value; a later one stays, and an uncommitted
later one takes its place. -/
def State.undoReg (core : Nat) (s : State) (e : RegUndo) : State :=
  let key := regKey core e.index
  if getT 0 s.regSeq key = e.seq then { s.putReg core e.index e.old with regSeq := setT 0 s.regSeq key e.prev }
  else s.mapCtxs fun k _ c =>
    { c with chunk := { c.chunk with kUndo := c.chunk.kUndo.map fun u => if regKey k u.index = key then u.relink e else u } }

/-- Discard a context's chunk: it executes again from the chunk's start (09 R199). -/
def Context.squash (k : KRegs) (c : Context) : Context :=
  let a := { c.chunk.start with chunkStat := statSquash c.chunk.start.chunkStat }
  { c with
    arch := a
    chunk := { freshChunk k a with attempts := c.chunk.attempts + 1, ins := c.chunk.startIns, startIns := c.chunk.startIns }
    life := if c.life = .waiting then .ready else c.life
    wait := if c.life = .waiting then {} else c.wait }

/-- Squash the context in a slot, with what its chunk did to control registers outside it. -/
def State.squashAt (s : State) (core slot : Nat) : State :=
  let c := s.ctxAt core slot
  let s := c.chunk.kUndo.foldl (State.undoReg core) s
  s.setCtxAt core slot (c.squash (s.core core).k)

/-- Squash every context other than the committing one whose chunk has read or written one of these lines (09 R197). A chunk
that is locked or runs ahead is left alone. -/
def State.squashMeeting (s : State) (lines : List Nat) : State :=
  let hit := fun (c : Context) => !c.chunk.locked && c.life != .runahead && c.chunk.meets lines
  (s.ctxs.filter (fun p => hit p.2)).foldl (fun s p => s.squashAt (p.1 / 64) (p.1 % 64)) s

/-! ### The undo log (23 R400, R406) -/

/-- The undo entries of the interval that is open: those made since the checkpoint of a seam that is being taken, else all. -/
def SeamDomain.current (d : SeamDomain) : List UndoEntry := d.undo.drop ((d.pending.map (·.undo)).getD 0)

/-- Log a line's old bytes on its first overwrite in the interval of a domain. -/
def State.logUndo (s : State) (dom owner : Nat) (va : Option Nat) (line : Nat) : State :=
  match s.domain? dom with
  | none => s
  | some d =>
    if d.current.any (·.line == line) then s
    else s.mapDomain dom fun d => { d with undo := d.undo ++ [{ line := line, owner := owner, va := va, old := s.bytesAt (128 * line) 128 }] }

/-- Another domain than `dom` that wrote the line in its open interval. -/
def State.foreignDomain (s : State) (dom line : Nat) : Option Nat :=
  (s.domains.find? fun d => d.id != dom && d.undo.any (·.line == line)).map (·.id)

/-! ### Seam triggers (23 R396 to R398) -/

/-- A kernel that is placed and has not ended. -/
def KernelState.live : KernelState → Bool
  | .placing | .running | .draining | .preempted | .faulted => true
  | _ => false

/-- The kernels of a seam domain. -/
def State.domainKernels (s : State) (dom : Nat) : List Kernel := s.allKernels.filter fun k => k.seamDomain == dom && k.state.live

/-- Transfers and matrix commands of a kernel's cores that are still running; a transfer that waits for a link write is. -/
def State.enginesBusy (s : State) (k : Kernel) : Bool :=
  k.held.any (fun c => (s.core c).transfers.any (·.live))
    || s.clusters.any (fun p => p.2.queue.any fun q => k.held.contains q.core)

/-- Is a pre-emption of the domain under way? -/
def State.stoppingIn (s : State) (dom : Nat) : Bool :=
  (s.domainKernels dom).any fun k => k.state == .preempted && (s.enginesBusy k || (k.forPriority && k.held != []))

/-- A trigger: the first one gives the seam its tag. The next seam is COMMITTING, unless a pre-emption under way has to complete first. -/
def State.trigger (s : State) (dom : Nat) (tag : Word) : State :=
  let stopping := s.stoppingIn dom
  s.mapDomain dom fun d =>
    if d.triggered then d
    else { d with triggered := true, nextTag := tag, state := if d.state = .opened ∧ !stopping then .committing else d.state }

/-- Does a seam hold a context's issue: its domain's next seam is not OPEN (23 R399, R402)? A chunk that runs locked goes on to its commit (09 R440). -/
def State.seamHolds (s : State) (c : Context) : Bool :=
  !c.chunk.locked && ((s.kernel? c.owner c.knum).map s.seamStops).getD false

/-- Is a seam of the kernel's domain COMMITTING? A pre-emption waits for it (23 R398). -/
def State.seamBars (s : State) (k : Kernel) : Bool := ((s.domain? k.seamDomain).map fun d => d.state == .committing).getD false

/-! ### Commit -/

/-- The core whose L1D takes a line of the executing thread: the core itself, or the member of its cloak the set draw names (15 R289). -/
def State.l1Core (s : State) (line : Nat) : Nat :=
  if s.ctx.cloak.state = .bound then
    s.ctx.cloak.members.getD (l1SetOf s.myCore.k.kseed s.ctx.owner line % s.ctx.cloak.members.length) s.coreId
  else s.coreId

/-- The bytes of the executing core's copy of an SWM line; a copy that is not there is made from memory (10 R237). -/
def State.swmCopy (s : State) (line vline : Nat) : SwmLine :=
  (getT none s.coh.swm (s.coreId * 2 ^ 64 + line)).getD { vline := vline, at_ := s.l1Core vline, clean := s.bytesAt (128 * line) 128, dirty := [] }

def State.putSwm (s : State) (core line : Nat) (l : SwmLine) : State :=
  s.mapCoh fun c => { c with swm := setT none c.swm (core * 2 ^ 64 + line) (some l) }

/-- A committed write reaches the home of a line without an owned copy (10 R233): its data go to the line's slice. -/
def State.writeEvent (s : State) (core line : Nat) : State := (s.fillL2 line).transact evWrite line core

/-- The seam domain of a core's kernel, 0 if none, and its owner. -/
def State.coreSeam (s : State) (core : Nat) : Nat := s.seamOf (s.core core).owner (s.core core).knum

/-- Write one core's dirty bytes of an SWM line back to memory (10 R238), the old ones to the undo log of the core's domain (23 R400); the copy stays, clean. The
earliest task keeps its chunk (08 R182): it read a copy of its own. -/
def State.swmWriteLine (s : State) (core line : Nat) (l : SwmLine) : State :=
  let s := if l.dirty.isEmpty then s else s.logUndo (s.coreSeam core) (s.core core).owner (some l.vline) line
  let s := l.dirty.foldl (fun s (i, b) => match b with | some b => s.setByte (128 * line + i) b | none => s) s
  let s := if l.dirty.isEmpty then s else (if s.meetsEarliestOn [line] then s else s.squashMeeting [line]).writeEvent core l.vline
  let clean := l.clean.zipIdx.map fun (b, i) => (getT none l.dirty i).getD b
  s.putSwm core line { l with clean := clean, dirty := [] }

/-- Write the core's dirty SWM bytes back to memory (10 R238); the copies stay, clean. -/
def State.swmWriteBack (s : State) (core : Nat) : State :=
  s.coh.swm.foldl (fun s (k, l) =>
    if k / 2 ^ 64 = core then
      match l with
      | some l => s.swmWriteLine core (k % 2 ^ 64) l
      | none => s
    else s) s

/-- A core's copy of an SWM line gives way to a write of its own engine: bytes that it has not written back go to memory first (09 R201), and later accesses of
the core find what the engine wrote (09 R207, 18 R363). -/
def State.yieldLine (s : State) (core line : Nat) : State :=
  match getT none s.coh.swm (core * 2 ^ 64 + line) with
  | some l =>
    (if l.dirty.isEmpty then s else s.swmWriteLine core line l).mapCoh fun c => { c with
      l1 := dropTags c.l1 fun k v => k == l.at_ && v == l.vline
      swm := setT none c.swm (core * 2 ^ 64 + line) none }
  | none => s

/-- What a SLEEP that lost a watched line finds when it executes again (09 R220). -/
def Wait.evicted : Wait := { b := 17 }

/-- The SLEEPs of a core that watch a line end with 17 when its L1D evicts the line (09 R220): each executes again and finds why. -/
def State.wakeEvicted (s : State) (core line : Nat) : State :=
  let slots := ((s.core core).watches.filter (·.line == line)).map (·.slot)
  if slots.isEmpty then s
  else s.mapCtxs fun k slot c =>
    if k = core ∧ slots.contains slot ∧ c.life = .waiting ∧ c.wait.kind = .sleep then { c with life := .ready, wait := Wait.evicted } else c

/-- A core's L1D evicts a line: an SWM copy's dirty bytes go back (10 R238), a tracked copy is reported. -/
def State.evictL1 (s : State) (core line : Nat) : State :=
  let mine := s.coh.swm.filterMap fun (k, l) => l.bind fun l => if l.vline = line ∧ l.at_ = core then some (k, l) else none
  let s := mine.foldl (fun s (k, l) => (s.swmWriteLine (k / 2 ^ 64) (k % 2 ^ 64) l).mapCoh fun c => { c with swm := setT none c.swm k none }) s
  (s.dropVictim core line).wakeEvicted core line

/-- Does the L1D that takes a line of the executing thread lack it? -/
def State.missesL1 (s : State) (line : Nat) : Bool :=
  !(getT L1Set.empty s.coh.l1 (l1Key (s.l1Core line) (l1SetOf s.myCore.k.kseed s.ctx.owner line))).ways.contains (some line)

/-- A global access fills its line into the L1D (10 R222, R223); one that misses there goes through the network and the
line's slice. -/
def State.fillL1 (s : State) (line : Nat) : State :=
  let core := s.l1Core line
  let kseed := s.myCore.k.kseed
  let key := l1Key core (l1SetOf kseed s.ctx.owner line)
  let x := getT L1Set.empty s.coh.l1 key
  if x.ways.contains (some line) then s
  else
    let (x, v) := x.fill kseed s.ctx.owner line
    let s := ((s.mapCoh fun c => { c with l1 := setT L1Set.empty c.l1 key x }).crosses s.coreId (s.homeOf line s.coreId)).fillL2 line
    match v with
    | some v => s.evictL1 core v
    | none => s

/-- A byte of which only the bits of a mask are rewritten; mask 0 stands for all of them (09 R205). -/
def mergeBits (mask : Nat) (old new : Byte) : Byte :=
  if mask % 256 = 0 then new else (old &&& ~~~(BitVec.ofNat 8 mask)) ||| (new &&& BitVec.ofNat 8 mask)

/-- One committed byte: into memory, or into the core's own dirty copy under SWM. Bits of a packed element that another core's memory
holds travel to that core (09 R205). -/
def State.commitByte (s : State) (swmLines : List Nat) (part loc : Nat) (b : Byte) : State :=
  if 256 ≤ part then
    { s with packed := s.packed ++ [{ core := part / 256 - 1, loc := loc, mask := part % 256, value := b }] }
  else if swmLines.contains (loc / 128) then
    let l := s.swmCopy (loc / 128) ((getT none s.ctx.chunk.lineVa (loc / 128)).getD 0)
    let old := (getT none l.dirty (loc % 128)).getD (l.clean.getD (loc % 128) (s.byteAt loc))
    s.putSwm s.coreId (loc / 128) { l with dirty := setT none l.dirty (loc % 128) (some (mergeBits part old b)) }
  else s.setByte loc (mergeBits part (s.byteAt loc) b)

/-- The core that owns the memory performs a packed store. -/
def State.performPacked (s : State) (p : PackedStore) : State := s.setByte p.loc (mergeBits p.mask (s.byteAt p.loc) p.value)

/-- Every packed store on its way is performed. -/
def State.drainPacked (s : State) : State := s.packed.foldl State.performPacked { s with packed := [] }

/-- REMOTE_PACKED_STORE: the core performs the oldest packed store sent to it (09 R205). -/
def execRemotePackedStore (core : Nat) (s : State) : Host.Outcome State Fault Refusal :=
  match s.packed.find? (·.core == core) with
  | some p => .next (({ s with packed := s.packed.erase p } : State).performPacked p)
  | none => .next s

/-- An access of an engine goes through the line's slice, unless it is in a local memory (10 R222). -/
def State.fillPath (s : State) (p : Place) : State := if p.fills then s.fillL2 p.lineKey else s

/-- The accesses of a core's vector unit or collective go through the network too. -/
def State.crossPath (s : State) (p : Place) : State := if p.fills then s.crosses s.coreId p.home else s

/-- A line's forward mark is cleared and it is an ordinary dirty line (10 R229): memory still has its own bytes. -/
def Coherence.unmark (c : Coherence) (line vline : Nat) : Coherence :=
  { c with
    behind := if (getT none c.behind vline).isNone then setT none c.behind vline (getT none c.stale line) else c.behind
    marks := setT none c.marks line none, stale := setT none c.stale line none }

/-- The marks a committed write leaves on its line, by location (10 R229): `some 512` stands for an untagged write. Memory keeps the
line's earlier bytes until the line is written back. -/
def State.commitTag (s : State) (line vline : Nat) (tag : Option Nat) (before : List Byte) : State :=
  match tag with
  | none => s
  | some c =>
    (if c = 512 then s else s.fillL2 vline).mapCoh fun h =>
      if c = 512 then h.unmark line vline
      else { h with
        marks := setT none h.marks line (some { core := c, placed := s.fresh, vline := vline })
        stale := if (getT none h.stale line).isSome then h.stale else setT none h.stale line (some ((getT none h.behind vline).getD before)) }

/-- The consumer's read of a marked line has become final (10 R229): FWDTAG_CONSUME comes to its home, whose table returns the entry to I, and the slice drops
the line without writing it to memory. -/
def State.consume (s : State) (core line vline : Nat) : State :=
  match getT none s.coh.marks line with
  | some m =>
    if m.core ≠ core then s
    else
      let s := s.transact evFwdtagConsume vline core
      let s := match getT none s.coh.stale line with
        | some bs => s.setBytes (128 * line) bs
        | none => s
      s.mapCoh fun c => { (c.dropAll vline) with
        l2 := dropL2 c.l2 fun l => l == vline
        marks := setT none c.marks line none, stale := setT none c.stale line none }
  | none => s

/-- A line becomes dirty in some L1D: memory and the slice stay behind, with the bytes they held before (13 R271). -/
def State.noteBehind (s : State) (line : Nat) (before : State) : State :=
  if (getT none s.coh.behind line).isSome then s
  else match s.walk (128 * line) with
    | some l => s.mapCoh fun c => { c with behind := setT none c.behind line (some (before.bytesAt (l.frame + (128 * line - l.va)) 128)) }
    | none => s

/-- Does a lease stand on a line that a chunk writes? Its commit waits for the lease (10 R237). -/
def State.leasesOn (s : State) (c : Chunk) : Bool :=
  s.coh.leases.any fun (k, e) => c.vaLines.contains (k % 2 ^ 64) &&
    (match e with | some t => (s.die (dieOf (k / 2 ^ 64))).gct < t | none => false)

/-- Does a page that migrates hold a line that a chunk writes? Its commit waits (22 R390). -/
def State.blocksOn (s : State) (c : Chunk) : Bool :=
  s.blocks.any fun b => b.move.isSome && c.vaLines.any fun l => decide (b.base ≤ 128 * l) && decide (128 * l < b.base + b.size)

/-- Must the executing context's commit wait at a home, for a lease or a migration (10 R237, 22 R390)? -/
def State.leaseBlocks (s : State) : Bool := s.leasesOn s.ctx.chunk || s.blocksOn s.ctx.chunk

/-- Another context's locked chunk holds every grant (09 R199). -/
def State.foreignLock (s : State) : Bool := s.ctxs.any (fun p => p.2.chunk.locked)

/-- Does any chunk run locked? A pre-emption, a seam and a shoot-down wait for it to commit (09 R440). -/
def State.lockStands (s : State) : Bool := s.allCtxs.any fun (_, _, c) => c.chunk.locked

/-- Has the chunk run or touched anything? -/
def Chunk.isEmpty (c : Chunk) : Bool := c.ins == 0 && c.writes.isEmpty && c.readLines.isEmpty

/-- The dies whose commit arbiters a chunk asks: the executing core's, and the home die of every line it writes, a local memory's being the core's
(09 R197). -/
def State.commitDies (s : State) (c : Chunk) : List Nat :=
  dieOf s.coreId :: c.writeLines.filterMap fun l => (getT none c.lineVa l).bind fun v => (s.walk (128 * v)).map (·.home)

/-- The old bytes of a chunk's lines go to its seam domain's undo log (23 R400), and its writes become visible. -/
def State.landWrites (s : State) (c : Chunk) : State :=
  let dom := s.mySeam
  let s := if dom = 0 then s else c.writeLines.foldl (fun s l => s.logUndo dom s.ctx.owner (getT none c.lineVa l) l) s
  c.writes.foldl (fun s (loc, v) => match v with | some b => s.commitByte c.swmLines (getT 0 c.parts loc) loc b | none => s) s

/-- A chunk's stores place and clear forward marks, and what it read of marked lines becomes final (10 R229); `before` is the state before its writes. -/
def State.landMarks (s : State) (c : Chunk) (before : State) : State :=
  let s := c.tags.foldl (fun s (line, t) => s.commitTag line ((getT none c.lineVa line).getD 0) t (before.bytesAt (128 * line) 128)) s
  let s := { s with fresh := s.fresh + 1 }
  (c.readLines.filter (fun l => !c.writeLines.contains l)).foldl (fun s l => s.consume s.coreId l ((getT none c.lineVa l).getD l)) s

/-- A line that the committing chunk has written is in its core's L1D, whose die owns it, whatever has taken it since the store (10 R227). -/
def State.reown (s : State) (line : Nat) : State := (s.fillL1 line).own (s.l1Core line) line

/-- What a chunk's writes mean to the lines' homes: dirty lines leave memory behind, and lines of WO and UPD ranges report WRITE (10 R238). -/
def State.landHomes (s : State) (c : Chunk) (before : State) : State :=
  let s := c.ownLines.foldl (fun s v => s.noteBehind v before) s
  let s := s.mapCoh fun h => { h with written := insertAll c.woLines h.written }
  (c.woLines ++ c.updLines).foldl (fun s l => s.writeEvent s.coreId l) s

/-- A chunk that holds a release: the core's dirty SWM lines go back as it becomes visible (09 R214). -/
def State.landRelease (s : State) (c : Chunk) : State := if c.releases then s.swmWriteBack s.coreId else s

/-- Commit the executing context's chunk and begin the next (09 R197): its writes become visible at once, chunks that meet
them are squashed, and watch entries on the written lines fire. -/
def State.commitCur (s : State) : State :=
  let c := s.ctx.chunk
  let a := s.ctx.arch
  if c.isEmpty then { s with ctx := { s.ctx with arch := { a with windows := [] }, chunk := { freshChunk s.myCore.k { a with windows := [] } with ins := c.next, startIns := c.next } } }
  else
    let a := { a with chunkStat := statCommit a.chunkStat c }
    let t := s.askCommit s.ctx.owner (s.commitDies c)
    let t := c.ownLines.foldl State.reown t
    let s := ((((t.landWrites c).landMarks c s).landHomes c s).landRelease c).squashMeeting c.writeLines
    let s := s.fireWatches c.vaLines (some s.cur)
    let a := { a with windows := [] }
    let s := { s with ctx := { s.ctx with
      arch := a, chunk := { freshChunk s.myCore.k a with ins := c.next, startIns := c.next }
      handling := s.ctx.handling.map fun h => { h with firstChunk := false } } }
    let s := if c.unwatched.isEmpty then s else
      s.mapCore s.coreId fun k => { k with watches := k.watches.filter fun w => !(c.unwatched.contains w.entry && w.slot == s.cur.2) }
    if c.writeLines.isEmpty && !c.locked && s.ctx.handling.isNone then s else s.wakeRetries

/-- May the executing context's chunk commit now (09 R197, R199, 10 R237, 08 R182)? -/
def State.canCommit (s : State) : Bool := !s.foreignLock && !s.leaseBlocks && !s.taskWaits && !s.meetsEarliest

/-- EndChunk() of 02 R49: the current chunk commits before the instruction goes on. In runahead the instruction ends the
run instead (22 R386). -/
def endChunk : M Unit := fun s =>
  if s.ahead then .error (.wait { kind := .commit })
  else if s.canCommit then .ok ((), s.commitCur)
  else .error (.wait { kind := .commit })

/-- What an instruction hands to another path is not undone by a later squash: the chunk's restart point moves behind it. -/
def State.rebase (s : State) : State :=
  s.mapChunk fun c => { c with start := s.ctx.arch, startIns := c.ins, kUndo := [] }

/-- End the chunk first where the instruction's writes to these lines would take it above MAXLINES (09 R196). A run ahead counts the
lines of the stores it discards and ends there (22 R386). -/
def reserveLines (lines : List Nat) : M Unit := fun s =>
  let tooMany := s.ctx.chunk.maxLines < (insertAll lines s.ctx.chunk.vaLines).length
  if s.ahead then (if tooMany then endChunk s else .ok ((), s.mapChunk fun c => { c with vaLines := insertAll lines c.vaLines }))
  else if tooMany ∧ !s.ctx.chunk.isEmpty then endChunk s
  else .ok ((), s)

/-! ### Where an access lands -/

/-- KIND of a fault record for an access (22 R387). -/
def Access.recordKind : Access → Nat
  | .load => 0 | .store => 1 | .fetch => 2 | .atomic => 3


/-- Write CLASS of a leaf entry, and PCORE where the page becomes PRIVATE, and drop the page from every lookaside buffer; a chunk that has used the entry's line,
lysa's compare-and-swap on it among them, is squashed, so that neither writer loses the other's update (22 R377, R384). -/
def State.setClass (s : State) (l : Leaf) (cls : Nat) (pcore : Option Nat := none) : State :=
  let e := s.natAt l.entry 16
  let core := pcore.getD (e / 2 ^ 112 % 2 ^ 9) % 2 ^ 9
  let s := s.setNat l.entry 16 (e - e / 2 ^ 112 % 2 ^ 12 * 2 ^ 112 + (cls % 8 * 2 ^ 9 + core) * 2 ^ 112)
  let s : State := { s with
    cores := s.cores.map fun (k, c) => (k, { c with plb := c.plb.filter (fun x => x.entry != l.entry) })
    dies := s.dies.map fun (k, d) => (k, { d with tcache := d.tcache.map (fun x => if x.entry = l.entry then { x with cls := cls, pcore := core } else x) }) }
  s.squashMeeting [l.entry / 128]

/-- A core whose owner's range governs a line: one that holds it, else core 0. -/
def State.lineCore (s : State) (line : Nat) : Nat := (getT [] s.coh.holders line).headD 0

/-- FLUSH, or RECALL, on every line of an extent that some die holds: no copy remains in an L1D (10 R233, 22 R384, R389). -/
def State.flushExtent (s : State) (va size : Nat) (ev : Nat := evFlush) : State :=
  let inside := fun line => decide (va ≤ 128 * line ∧ 128 * line < va + size)
  let s := ((s.coh.dir.map (·.1)).filter inside).foldl (fun s line => s.transact ev line (s.lineCore line)) s
  s.mapCoh fun c => { c with
    dir := c.dir.filter (fun p => !inside p.1)
    l1 := dropTags c.l1 fun _ l => inside l
    filters := dropFilters c.filters fun _ l => inside l
    holders := c.holders.filter (fun p => !inside p.1)
    behind := c.behind.filter (fun p => !inside p.1) }

/-- A conflicting access makes a CLS page SHARED: the page is flushed, and RECLASSIFY takes the line from the state its class stands for (10 R237, 22 R384). -/
def State.reclassify (s : State) (l : Leaf) (core line : Nat) : State :=
  let s := (s.flushExtent l.va l.size).setClass l clsShared
  let was : DirEntry := { state := if l.cls = clsPrivate then 5 else 6, sharers := 0, owner := none }
  (s.mapCoh fun c => { c with dir := setT none c.dir line (some was) }).transact evReclassify line core

/-- Does an access conflict with its page's class (22 R384)? -/
def Leaf.conflicts (l : Leaf) (core : Nat) (a : Access) : Bool :=
  (l.cls == clsPrivate && l.pcore != core) || (l.cls == clsReadonly && a.writes)

/-- Is the page in a locked region of the owner that a shoot-down has dropped (22 R381, R382)? -/
def State.pinMissed (s : State) (owner va : Nat) : Bool :=
  s.locked.any fun r => r.owner == owner && r.base ≤ va && va < r.base + r.size && r.dropped.contains (va / 65536)

/-- Does an address lie in a locked region of the owner (22 R381)? -/
def State.inLocked (s : State) (owner va : Nat) : Bool := s.locked.any fun r => r.owner == owner && decide (r.base ≤ va) && decide (va < r.base + r.size)

/-- The range that governs an address for the executing owner: kind, lease and state; slot 0 where no entry covers it. -/
def State.governing (s : State) (va : Nat) : Nat × Nat × Nat :=
  match s.rangeOf s.coreId s.ctx.owner va with
  | some e => (s.kindOf e.slot, e.lease, e.state)
  | none => (s.kindOf 0, 0, 0)

/-- Does a range that covers an address switch (10 R239)? Its entry stays SWITCHING meanwhile. -/
def State.switchingAt (s : State) (va : Nat) : Bool :=
  s.coh.switches.any fun w => (s.rangeEntry w.core w.index).any fun e => decide (e.base ≤ va) && decide (va < e.base + e.size)

/-- Is an address in an extent that a migration or a flushing shoot-down blocks (22 R389, R390)? -/
def State.blockAt (s : State) (va : Nat) : Bool := s.blocks.any fun b => decide (b.base ≤ va) && decide (va < b.base + b.size)

/-- A place in a local memory. -/
def localPlace (loc home : Nat) : Place :=
  { loc := loc, lineKey := loc / 128, kind := kindInv, lease := 0, page := loc / 65536, home := home, tracked := false }

/-- A place in a local memory that the executing thread reaches, where no other domain has written its line in an open interval (23 R406). -/
def localAt (loc home : Nat) : M Place := fun s =>
  match s.foreignDomain s.mySeam (loc / 128) with
  | some d => .error (.wait { kind := .foreignDomain, a := d })
  | none => .ok (localPlace loc home, s)

/-- The checks of 05 R103 and 02 R50 on an access of n bytes, and where it lands. Translation comes from the core's buffer
and the home's cache (22 R379 to R381); a blocked page or a switching range makes the access wait (10 R239, 22 R390). One that conflicts with its page's class
reclassifies the page (22 R384); in runahead it would wait for that, and ends the run (R386), and a chunk that has itself written the page's entry commits first. -/
def placeOf (va n : Nat) (a : Access) : M Place := fun s =>
  let trap := fun (c : Nat) => (Except.error (.trap c (BitVec.ofNat 64 va) a.recordKind) : Except Stop (Place × State))
  let core := s.coreId
  if va % n ≠ 0 then trap causeMisalign
  else if 2 ^ 56 ≤ va then trap causePageFault
  else if a ≠ .fetch ∧ s.transferHolds core va n then .error (.wait { kind := .scoreboard })
  else if inWindowRegion va then
    match (if a = .fetch then none else s.windowLoc core va) with
    | some loc => localAt loc (dieOf core) s
    | none => trap causeProtect
  else if !s.myCore.plbEn then
    if s.prv = 3 then .ok ({ loc := va, lineKey := va / 128, kind := kindInv, lease := 0, page := va / 65536, home := dieOf core, tracked := false }, s)
    else trap causeProtect
  else match s.plbLookup core va with
    | none => trap (if s.pinMissed s.ctx.owner va then causePinMiss else causePageFault)
    | some l =>
      if l.rightsOf s.ctx.domain &&& a.needs ≠ a.needs then trap causeProtect
      else if s.pinMissed s.ctx.owner va then trap causePinMiss
      else if !l.p ∨ l.cls = clsPoisoned then trap causePageFault
      else if l.cls = clsMigrating ∨ s.blockAt va then .error (.wait { kind := .homeBlock })
      else match s.translate l.home va with
        | none => trap (if s.inLocked s.ctx.owner va then causePinMiss else causePageFault)
        | some t =>
          let loc := t.frame + (va - t.va)
          if 2 ^ 51 ≤ loc then trap causeProtect
          else
            let (kind, lease, rstate) := s.governing va
            if rstate = 2 ∨ s.switchingAt va then .error (.wait { kind := .homeBlock })
            else if (s.foreignDomain s.mySeam (loc / 128)).isSome then
              .error (.wait { kind := .foreignDomain, a := (s.foreignDomain s.mySeam (loc / 128)).getD 0 })
            else
              let conflict := kind == kindCls && l.conflicts core a
              if conflict && s.ahead then .error (.wait { kind := .homeBlock })
              else if conflict && s.ctx.chunk.writeLines.contains (l.entry / 128) then .error (.wait { kind := .commit })
              else
              let s := (s.fillPlb core l).fillTcache l.home t
              let s := if conflict then s.reclassify l core (va / 128) else s
              .ok ({ loc := loc, lineKey := va / 128, kind := kind, lease := lease, page := va / 65536, home := l.home
                     tracked := !(kind == kindCls && (l.cls == clsPrivate || l.cls == clsReadonly) && !l.conflicts core a) }, s)

/-! ### Mem.read and Mem.write -/

/-- A byte as its core sees it outside the chunk: its copy of an SWM line, or the committed value. -/
def State.underByte (s : State) (kind loc : Nat) : Byte :=
  if kind = kindSwm then
    match getT none s.coh.swm (s.coreId * 2 ^ 64 + loc / 128) with
    | some l => (getT none l.dirty (loc % 128)).getD (l.clean.getD (loc % 128) (s.byteAt loc))
    | none => s.byteAt loc
  else s.byteAt loc

/-- A byte as the executing thread sees it: its chunk's own latest write, over what its core sees (09 R198). -/
def State.seenByte (s : State) (kind loc : Nat) : Byte :=
  match getT none s.ctx.chunk.writes loc with
  | some b => mergeBits (getT 0 s.ctx.chunk.parts loc) (s.underByte kind loc) b
  | none => s.underByte kind loc

def State.seenBytes (s : State) (kind loc n : Nat) : List Byte := (List.range n).map (fun i => s.seenByte kind (loc + i))

/-- Does the core lack a copy of the line a read names? -/
def State.misses (s : State) (p : Place) : Bool :=
  if p.kind = kindSwm then (getT none s.coh.swm (s.coreId * 2 ^ 64 + p.loc / 128)).isNone else s.missesL1 p.lineKey

/-- Note a core-path read in the chunk and in the caches. -/
def State.noteRead (s : State) (p : Place) : State :=
  let missed := s.misses p
  let s := s.mapChunk fun c => { c with
    readLines := insertN (p.loc / 128) c.readLines, pages := insertN p.page c.pages
    lineVa := if p.loc < 2 ^ 60 then setT none c.lineVa (p.loc / 128) (some p.lineKey) else c.lineVa }
  let s := if p.kind = kindSwm ∧ p.tracked ∧ (getT none s.coh.swm (s.coreId * 2 ^ 64 + p.loc / 128)).isNone then
    s.putSwm s.coreId (p.loc / 128) (s.swmCopy (p.loc / 128) p.lineKey) else s
  (if p.fills then s.fillL1 p.lineKey else s).cacheLoad (s.l1Core p.lineKey) p missed

/-- Mem.read(va, n) of 02 R50: n bytes, little-endian. -/
def memRead (va n : Nat) (a : Access := .load) : M Nat := do
  let p ← placeOf va n a
  modify (·.noteRead p)
  let s ← get
  return ofLeBytes (s.seenBytes p.kind p.loc n)

/-- Put bytes into the chunk buffer. -/
def putWrites (w : Table (Option Byte)) : Nat → List Byte → Table (Option Byte)
  | _, [] => w
  | loc, b :: bs => putWrites (setT none w loc (some b)) (loc + 1) bs

/-- Whole bytes of a location are written: none of them is a packed part any more. -/
def clearParts (t : Table Nat) : (loc n : Nat) → Table Nat
  | _, 0 => t
  | loc, n + 1 => clearParts (setT 0 t loc 0) (loc + 1) n

/-- Note a core-path write in the chunk (09 R197) and in the caches; `tag` is the forward tag of the store, 512 for none. -/
def State.noteWrite (s : State) (p : Place) (bytes : List Byte) (tag : Nat) : State :=
  let line := p.loc / 128
  let marked := p.fills && (tag != 512 || (getT none s.coh.marks line).isSome || (getT none s.ctx.chunk.tags line).isSome)
  let s := s.mapChunk fun c => { c with
    writes := putWrites c.writes p.loc bytes
    parts := clearParts c.parts p.loc bytes.length
    writeLines := insertN line c.writeLines
    vaLines := insertN p.lineKey c.vaLines
    pages := insertN p.page c.pages
    lineVa := if p.loc < 2 ^ 60 then setT none c.lineVa line (some p.lineKey) else c.lineVa
    tags := if marked then setT none c.tags line (some tag) else c.tags
    swmLines := if p.kind = kindSwm then insertN line c.swmLines else c.swmLines
    woLines := if p.kind = kindWo then insertN p.lineKey c.woLines else c.woLines
    updLines := if p.kind = kindUpd then insertN p.lineKey c.updLines else c.updLines
    ownLines := if p.tracked && ownedKind p.kind then insertN p.lineKey c.ownLines else c.ownLines }
  (if p.fills then s.fillL1 p.lineKey else s).cacheStore (s.l1Core p.lineKey) p

/-- Mem.write(va, n, v) of 02 R50: the low n bytes of v. A WRITTEN line of a WO range refuses it (10 R238). In runahead
nothing is written (22 R386). -/
def memWriteTag (tag va n v : Nat) (a : Access := .store) : M Unit := do
  if (← get).ahead then return
  let p ← placeOf va n a
  if p.kind = kindWo ∧ (← get).coh.written.contains p.lineKey then raise causeProtocol va
  modify (·.noteWrite p (leBytes n v) tag)

def memWrite (va n v : Nat) (a : Access := .store) : M Unit := memWriteTag 512 va n v a

/-- Note that a packed element rewrites the bits of `mask` in one byte; `carrier` is 0, or one more than the core that performs it
(09 R205). -/
def State.notePart (s : State) (p : Place) (mask : Nat) (b : Byte) (carrier tag : Nat) : State :=
  let old := getT none s.ctx.chunk.writes p.loc
  let part := getT 0 s.ctx.chunk.parts p.loc
  let whole := old.isSome && part % 256 == 0
  let v := match old with
    | some o => mergeBits mask o b
    | none => b
  let s := s.noteWrite p [v] tag
  if whole then s
  else s.mapChunk fun c => { c with parts := setT 0 c.parts p.loc (part % 256 ||| mask + 256 * carrier) }

/-- The key of the line a scalar store would write, for the line limit. -/
def lineOf (va : Nat) : M (List Nat) := do return [(← get).lineKey (← get).coreId va]

end Sys2Proof.Machine
end

