-- ==== Sys2Proof/Machine/Lysa.lean ====
section
/-!
DEFINITION. Sys2Proof/Machine/Lysa.lean: what lysa keeps and does for every kernel: its memory accesses, fault records
(07 R439), replies (R169), stopping and ending kernels (R163, R164, R168).
-/

namespace Sys2Proof.Machine

/-! ### Memory as lysa reaches it -/

/-- Where an owner's domain reaches a virtual address with these rights: [2] read, [1] write, [0] execute; a link page is not reached (24 R424). -/
def State.ownerLoc (s : State) (domain va rights : Nat) : Option Nat :=
  if inWindowRegion va then none
  else match s.walk va with
    | some l =>
      if l.rightsOf domain &&& rights = rights ∧ l.p ∧ l.frame < 2 ^ 51 ∧ l.cls ≠ clsPoisoned then some (l.frame + (va - l.va)) else none
    | none => none

/-- n bytes of an owner's memory, or the first address that cannot be read. -/
def State.ownerRead (s : State) (domain : Nat) : (n va : Nat) → Except Nat (List Byte)
  | 0, _ => .ok []
  | n + 1, va =>
    match s.ownerLoc domain va 4 with
    | none => .error va
    | some loc =>
      match s.ownerRead domain n (va + 1) with
      | .ok bs => .ok (s.byteAt loc :: bs)
      | .error e => .error e

/-- A write outside any chunk, performed at one point of the commit order: chunks that meet the lines are squashed, entries on
the virtual lines fire (09 R197, R219). A write of a seam domain's engine logs the old lines (23 R400). -/
def State.foreignWrite (s : State) (dom owner loc lineVa : Nat) (bytes : List Byte) : State :=
  let lines := ((List.range ((loc % 128 + bytes.length + 127) / 128)).map fun i => loc / 128 + i)
  let vlines := ((List.range ((loc % 128 + bytes.length + 127) / 128)).map fun i => lineVa + i)
  let s := lines.zip vlines |>.foldl (fun s (l, v) => s.logUndo dom owner (if loc < 2 ^ 60 then some v else none) l) s
  let s := s.setBytes loc bytes
  let s := { s with coh := { s.coh with
      marks := s.coh.marks.filter (fun p => !lines.contains p.1)
      stale := s.coh.stale.filter (fun p => !lines.contains p.1) } }
  (s.squashMeeting lines).fireWatches vlines none

/-- Write bytes at a virtual address of an owner where the domain may write; bytes it may not write are not written. Where a seam domain has written the line in
its open interval, that domain gets a seam trigger and the write waits for its seam (23 R406). -/
def State.ownerWrite (s : State) (domain va : Nat) (bytes : List Byte) : State :=
  match s.ownerLoc domain va 2 with
  | some loc =>
    match ((List.range ((loc % 128 + bytes.length + 127) / 128)).findSome? fun i => s.foreignDomain 0 (loc / 128 + i)) with
    | some d => { s.trigger d 0 with delayed := (s.trigger d 0).delayed ++ [{ domain := domain, va := va, bytes := bytes }] }
    | none => s.foreignWrite 0 0 loc (va / 128) bytes
  | none => s

/-- The writes of lysa that waited for a seam are made; one whose line yet another domain has open waits on. -/
def State.flushDelayed (s : State) : State := s.delayed.foldl (fun s w => s.ownerWrite w.domain w.va w.bytes) { s with delayed := [] }

/-! ### Fault records (07 R439) -/

/-- What an entry of a fault record holds. -/
structure FaultEntry where
  cause : Nat
  etype : Nat
  eflags : Nat
  core : Nat
  group : Nat
  rank : Nat
  port : Nat
  pc : Nat
  value : Nat
  deriving DecidableEq, Repr

def FaultEntry.bytes (e : FaultEntry) : List Byte :=
  leBytes 1 e.cause ++ leBytes 1 e.etype ++ leBytes 2 e.eflags ++ leBytes 2 e.core ++ leBytes 2 e.group ++ leBytes 4 e.rank
    ++ leBytes 1 e.port ++ leBytes 3 0 ++ leBytes 8 e.pc ++ leBytes 8 e.value

def Kernel.recordHeader (k : Kernel) : List Byte :=
  leBytes 4 k.knum ++ leBytes 4 k.nfault ++ leBytes 4 k.nentry ++ leBytes 4 k.dropped ++ List.replicate 48 0

/-- Entries the buffer has room for. -/
def Kernel.recordRoom (k : Kernel) : Nat := (k.frecLen - 64) / 32

/-- The owner's protection domain. -/
def State.domainOf (s : State) (owner : Nat) : Nat := ((s.owner? owner).map (·.domain)).getD 0

/-- Is every page of the kernel's buffer writable by the owner? -/
def State.recordWritable (s : State) (k : Kernel) : Bool :=
  k.frecLen != 0 && (s.ownerLoc (s.domainOf k.owner) k.frecBuf 2).isSome
    && (s.ownerLoc (s.domainOf k.owner) (k.frecBuf + k.frecLen - 1) 2).isSome

/-- FREC of a reply: the buffer when it is writable and at least one event is recorded (07 R169). -/
def State.frecOf (s : State) (k : Kernel) : Nat := if s.recordWritable k ∧ 0 < k.nfault then k.frecBuf else 0

/-- Record one event of a kernel that has not ended. Entry 0 is kept for the first context fault, all zero until then; an event without room is counted only,
and an entry on a page that is not writable is not written, nor counted in NENTRY (07 R439). -/
def State.recordEvent (s : State) (owner knum : Nat) (e : FaultEntry) : State :=
  match s.kernel? owner knum with
  | none => s
  | some k =>
    if k.state = .done ∨ k.state = .aborted then s
    else
    let first := k.nfault == 0 && e.etype != 0
    let k := { k with nfault := k.nfault + 1 }
    if k.frecLen = 0 then s.putKernel k
    else
      let zero := e.etype == 0 && !k.firstFault
      let slot := if zero then 0 else k.nextEntry
      let d := s.domainOf owner
      let at' := fun (n : Nat) => k.frecBuf + 64 + 32 * n
      let fits := decide (slot < k.recordRoom)
      let k := { k with
        firstFault := k.firstFault || e.etype == 0
        nextEntry := if zero ∨ !fits then k.nextEntry else k.nextEntry + 1
        nentry := if fits ∧ (s.ownerLoc d (at' slot) 2).isSome then k.nentry + 1 else k.nentry
        dropped := if fits then k.dropped else k.dropped + 1 }
      let s := s.putKernel k
      let s := if first ∧ 0 < k.recordRoom then s.ownerWrite d (at' 0) (List.replicate 32 0) else s
      let s := if fits then s.ownerWrite d (at' slot) e.bytes else s
      s.ownerWrite d k.frecBuf k.recordHeader

/-! ### Replies (07 R169) -/

/-- The status codes of a reply. -/
def stOk : Nat := 0
def stBadCred : Nat := 1
def stBadRcb : Nat := 2
def stNoFit : Nat := 3
def stNoKernel : Nat := 4
def stBadState : Nat := 5
def stBusy : Nat := 6
def stFaulted : Nat := 7
def stAborted : Nat := 8
def stBadOp : Nat := 9

/-- The 64 bytes of a reply. -/
def State.replyBytes (s : State) (kind status owner kstate rcb tag knum nfault frec : Nat) : List Byte :=
  leBytes 1 kind ++ leBytes 1 status ++ leBytes 2 owner ++ leBytes 1 kstate ++ leBytes 3 0 ++ leBytes 8 rcb ++ leBytes 8 tag
    ++ leBytes 4 knum ++ leBytes 4 nfault ++ leBytes 8 frec ++ leBytes 8 (s.die 0).gct ++ List.replicate 16 0

end Sys2Proof.Machine
end

