-- ==== Sys2Proof/Machine/Numbers.lean ====
section
/-!
DEFINITION. Sys2Proof/Machine/Numbers.lean: number formats and exact arithmetic (04 R79 to R100).
A value is exact; one function per kind of format rounds it once and says which flags that raises.
-/

namespace Sys2Proof.Machine

/-- The flag bits of CR_FCSR: NX 1, UF 2, OF 4, DZ 8, NV 16 (04 R84). -/
abbrev Flags := BitVec 5

def fNX : Flags := 1
def fUF : Flags := 2
def fOF : Flags := 4
def fDZ : Flags := 8
def fNV : Flags := 16

/-- The rounding modes of 04 R86. -/
inductive RMode where
  | rne | rtz | rdn | rup | rmm | dither | satrne
  deriving DecidableEq, Repr

/-- The mode with this code (04 R84); 7 is none. -/
def RMode.ofCode : Nat → Option RMode
  | 0 => some .rne | 1 => some .rtz | 2 => some .rdn | 3 => some .rup | 4 => some .rmm
  | 5 => some .dither | 6 => some .satrne | _ => none

/-- An exact value. `fin neg m e` is (-1)^neg * m * 2^e with m > 0. The value of an irrational or repeating result is
stood in for by one strictly between the two multiples of a grid finer than every rounding boundary that enclose it,
which every rounding of R86 treats alike. -/
inductive Val where
  | nan (signalling : Bool)
  | inf (neg : Bool)
  | zero (neg : Bool)
  | fin (neg : Bool) (m : Nat) (e : Int)
  deriving DecidableEq, Repr

/-- The value with this sign, significand and exponent; a zero significand is the zero of the sign. -/
def Val.mk (neg : Bool) (m : Nat) (e : Int) : Val := if m = 0 then .zero neg else .fin neg m e

/-- A significand known to lie strictly between m and m + 1 when `inexact`. -/
def Val.mkInexact (neg : Bool) (m : Nat) (e : Int) (inexact : Bool) : Val :=
  if inexact then .mk neg (4 * m + 1) (e - 2) else .mk neg m e

def Val.ofInt (v : Int) : Val := .mk (v < 0) v.natAbs 0

def Val.isNan : Val → Bool
  | .nan _ => true
  | _ => false

def Val.isSignalling : Val → Bool
  | .nan s => s
  | _ => false

def Val.isNanOrInf : Val → Bool
  | .nan _ => true
  | .inf _ => true
  | _ => false

/-- The sign of the value; a NaN has none. -/
def Val.neg? : Val → Bool
  | .nan _ => false
  | .inf s => s
  | .zero s => s
  | .fin s _ _ => s

def Val.negate : Val → Val
  | .nan s => .nan s
  | .inf s => .inf !s
  | .zero s => .zero !s
  | .fin s m e => .fin (!s) m e

def Val.abs : Val → Val
  | .nan s => .nan s
  | .inf _ => .inf false
  | .zero _ => .zero false
  | .fin _ m e => .fin false m e

/-- The value times 2^n, exactly. -/
def Val.scale (n : Int) : Val → Val
  | .fin s m e => .fin s m (e + n)
  | v => v

/-! ### The formats -/

/-- The element formats of 02 R20, in the order of their FMT codes. -/
inductive Fmt where
  | fp32 | bf16 | e4m3 | e5m2 | lns6 | int8 | int16 | int32 | mxE4m3 | mxE5m2 | mxLns6 | e8m0
  deriving DecidableEq, Repr

/-- The format with this FMT code; 12 to 15 are reserved (02 R20). -/
def Fmt.ofCode : Nat → Option Fmt
  | 0 => some .fp32 | 1 => some .bf16 | 2 => some .e4m3 | 3 => some .e5m2 | 4 => some .lns6 | 5 => some .int8
  | 6 => some .int16 | 7 => some .int32 | 8 => some .mxE4m3 | 9 => some .mxE5m2 | 10 => some .mxLns6 | 11 => some .e8m0
  | _ => none

/-- The FMT code of a format. -/
def Fmt.code : Fmt → Nat
  | .fp32 => 0 | .bf16 => 1 | .e4m3 => 2 | .e5m2 => 3 | .lns6 => 4 | .int8 => 5 | .int16 => 6 | .int32 => 7
  | .mxE4m3 => 8 | .mxE5m2 => 9 | .mxLns6 => 10 | .e8m0 => 11

/-- The MX formats carry a scale per block of 32 columns (04 R83). -/
def Fmt.isMx : Fmt → Bool
  | .mxE4m3 | .mxE5m2 | .mxLns6 => true
  | _ => false

/-- The format of one element of an MX format; any other format is its own. -/
def Fmt.element : Fmt → Fmt
  | .mxE4m3 => .e4m3 | .mxE5m2 => .e5m2 | .mxLns6 => .lns6
  | f => f

/-- LNS6 elements lie four to a 3-byte group (02 R51). -/
def Fmt.isLns (f : Fmt) : Bool := f.element == .lns6

/-- Bytes per element; 0 for the LNS6 formats, which are packed (02 R51). -/
def Fmt.bytes (f : Fmt) : Nat :=
  match f.element with
  | .fp32 | .int32 => 4
  | .bf16 | .int16 => 2
  | .lns6 => 0
  | _ => 1

/-- Bits per element pattern. -/
def Fmt.bits (f : Fmt) : Nat := if f.isLns then 6 else 8 * f.bytes

/-- What fixes a binary floating-point format (04 R79): fraction bits, the exponent of the smallest subnormal, the
largest finite significand and its exponent, the pattern of +infinity where there is one, the canonical NaN, and the
place of the sign bit. -/
structure FloatSpec where
  frac : Nat
  emin : Int
  maxN : Nat
  qmax : Int
  inf? : Option Nat
  nan : Nat
  signBit : Nat
  signals : Bool

def specFp32 : FloatSpec := ⟨23, -149, 0xFFFFFF, 104, some 0x7F800000, 0x7FC00000, 31, true⟩
def specFp64 : FloatSpec := ⟨52, -1074, 0x1FFFFFFFFFFFFF, 971, some 0x7FF0000000000000, 0x7FF8000000000000, 63, true⟩
def specBf16 : FloatSpec := ⟨7, -133, 0xFF, 120, some 0x7F80, 0x7FC0, 15, true⟩
def specE4m3 : FloatSpec := ⟨3, -9, 14, 5, none, 0x7F, 7, false⟩
def specE5m2 : FloatSpec := ⟨2, -16, 7, 13, some 0x7C, 0x7E, 7, false⟩

/-- The value of a bit pattern (04 R79, R80). -/
def FloatSpec.value (f : FloatSpec) (bits : Nat) : Val :=
  let neg := bits / 2 ^ f.signBit % 2 == 1
  let body := bits % 2 ^ f.signBit
  let isNan := match f.inf? with
    | some i => decide (i < body)
    | none => body == f.nan
  if isNan then .nan (f.signals && body / 2 ^ (f.frac - 1) % 2 == 0)
  else if f.inf? = some body then .inf neg
  else
    let ef := body / 2 ^ f.frac
    let fr := body % 2 ^ f.frac
    if ef = 0 then .mk neg fr f.emin else .fin neg (2 ^ f.frac + fr) (f.emin + (ef : Int) - 1)

/-! ### Rounding -/

/-- One entry of the recursive Bayer matrix (04 R90) from two position bits. -/
def bayerBit (i j : Nat) : Nat :=
  match i % 2, j % 2 with
  | 0, 0 => 0 | 0, _ => 2 | _, 0 => 3 | _, _ => 1

/-- T(i mod 16, j mod 16) of 04 R90. -/
def bayer (i j : Nat) : Nat :=
  64 * bayerBit i j + 16 * bayerBit (i / 2) (j / 2) + 4 * bayerBit (i / 4) (j / 4) + bayerBit (i / 8) (j / 8)

/-- Does the mode move a value with lower neighbour `lo` and discarded part r / 2^d away from zero (04 R86, R89)? -/
def roundsAway (mode : RMode) (t : Nat) (neg : Bool) (loOdd : Bool) (r d : Nat) : Bool :=
  match mode with
  | .rne | .satrne => decide (2 ^ d < 2 * r) || (2 * r == 2 ^ d && loOdd)
  | .rtz => false
  | .rdn => neg && r != 0
  | .rup => !neg && r != 0
  | .rmm => decide (2 ^ d ≤ 2 * r)
  | .dither => decide (t < 256 * r / 2 ^ d)

/-- The multiple of 2^q that the mode picks for m * 2^e, as its count, and whether it differs from the value. A value
more than 2^20 times smaller than the spacing rounds as 2^-20 of it does. -/
def roundTo (mode : RMode) (t : Nat) (neg : Bool) (m : Nat) (e q : Int) : Nat × Bool :=
  if q ≤ e then (m * 2 ^ (e - q).toNat, false)
  else
    let far := m.log2 + 20 < (q - e).toNat
    let m := if far then 1 else m
    let d := if far then 20 else (q - e).toNat
    let lo := m / 2 ^ d
    let r := m % 2 ^ d
    (if roundsAway mode t neg (lo % 2 == 1) r d then lo + 1 else lo, r != 0)

/-- Whether an overflow of this sign is delivered as the largest finite value rather than as infinity (04 R87). -/
def overflowToMax (mode : RMode) (neg : Bool) : Bool :=
  match mode with
  | .rne | .rmm | .dither => false
  | .rtz | .satrne => true
  | .rdn => !neg
  | .rup => neg

/-- The largest finite pattern of a float format. -/
def FloatSpec.maxBits (f : FloatSpec) : Nat := f.maxN + (f.qmax - f.emin).toNat * 2 ^ f.frac

/-- What stands for an overflow or an infinity the format lacks (04 R87). -/
def FloatSpec.overflow (f : FloatSpec) (mode : RMode) (neg : Bool) : Nat :=
  let s := if neg then 2 ^ f.signBit else 0
  if overflowToMax mode neg then s + f.maxBits
  else match f.inf? with
    | some i => s + i
    | none => f.nan

/-- Round a value into a float format (04 R79, R85 to R87). -/
def FloatSpec.deliver (f : FloatSpec) (mode : RMode) (t : Nat) : Val → Nat × Flags
  | .nan _ => (f.nan, 0)
  | .inf neg => (match f.inf? with
      | some i => if neg then 2 ^ f.signBit + i else i
      | none => f.overflow mode neg, 0)
  | .zero neg => (if neg then 2 ^ f.signBit else 0, 0)
  | .fin neg m e =>
    let q0 := (m.log2 : Int) + e - f.frac
    let q := max q0 f.emin
    let (n, inexact) := roundTo mode t neg m e q
    if f.qmax < q ∨ (q = f.qmax ∧ f.maxN < n) then (f.overflow mode neg, fOF ||| fNX)
    else
      let n0 := (roundTo mode t neg m e q0).1
      let tiny := decide ((n0.log2 : Int) + q0 < f.emin + f.frac)
      let bits := n + (q - f.emin).toNat * 2 ^ f.frac
      (if neg then 2 ^ f.signBit + bits else bits,
        if inexact then (if tiny then fUF ||| fNX else fNX) else 0)

/-- Round a value into the integers lo to hi of width w (04 R82, R87, R89). -/
def deliverInt (lo hi : Int) (w : Nat) (mode : RMode) (t : Nat) : Val → Nat × Flags
  | .nan _ => (0, fNV)
  | .inf neg => (((if neg then lo else hi) % 2 ^ w).toNat, fNV)
  | .zero _ => (0, 0)
  | .fin neg m e =>
    if 70 < (m.log2 : Int) + e then (((if neg then lo else hi) % 2 ^ w).toNat, fNV)
    else
      let (n, inexact) := roundTo mode t neg m e 0
      let v : Int := if neg then -n else n
      if v < lo then ((lo % 2 ^ w).toNat, fNV)
      else if hi < v then ((hi % 2 ^ w).toNat, fNV)
      else ((v % 2 ^ w).toNat, if inexact then fNX else 0)

/-- The fraction table F of 04 R81 in units of 2^-23. -/
def lnsF : Nat → Nat
  | 0 => 0x800000 | 1 => 0x9837F0 | 2 => 0xB504F3 | _ => 0xD744FD

/-- The magnitude V(L) in units of 2^-27 (04 R81). Code 32 is the value that would follow the largest. -/
def lnsV (l : Nat) : Nat := lnsF (l % 4) * 2 ^ (l / 4)

/-- The zero code of LNS6 (04 R81). -/
def lnsZero : Nat := 32

/-- The value of a 6-bit LNS6 pattern (04 R81). -/
def lnsValue (bits : Nat) : Val :=
  if bits % 64 = lnsZero then .zero false else .fin (32 ≤ bits % 64) (lnsV (bits % 32)) (-27)

/-- The greatest code in 0..l whose magnitude, in units of 2^-27, is at most x / 2^k; none below V(0). -/
def lnsBelow (x k : Nat) : Nat → Option Nat
  | 0 => if lnsV 0 * 2 ^ k ≤ x then some 0 else none
  | l + 1 => if lnsV (l + 1) * 2 ^ k ≤ x then some (l + 1) else lnsBelow x k l

/-- Pick between two neighbours lo < x < hi of a set, everything in one unit (04 R86, R88). -/
def pickUp (mode : RMode) (neg loEven : Bool) (lo hi x : Nat) : Bool :=
  match mode with
  | .rtz => false
  | .rdn => neg
  | .rup => !neg
  | .rmm => decide (lo + hi ≤ 2 * x)
  | _ => decide (lo + hi < 2 * x) || (2 * x == lo + hi && !loEven)

/-- Round a value into LNS6 (04 R87, R88): a NaN gives the zero code with NV, an infinity the largest magnitude. -/
def deliverLns (mode : RMode) : Val → Nat × Flags
  | .nan _ => (lnsZero, fNV)
  | .inf neg => (if neg then 63 else 31, 0)
  | .zero _ => (lnsZero, 0)
  | .fin neg m e =>
    let s := if neg then 32 else 0
    if 8 < (m.log2 : Int) + e then (s + 31, fOF ||| fNX)
    else
      -- x counts units of 2^-30, odd where there is a remainder, so that every midpoint and every code is an even number
      let g := roundTo .rtz 0 neg m e (-30)
      let x := if g.2 then 2 * (g.1 / 2) + 1 else g.1
      let first := if neg then 1 else 0
      match lnsBelow x 3 32 with
      | some l =>
        if l < first then
          if pickUp mode neg true 0 (lnsV 1 * 8) x then (s + 1, fUF ||| fNX) else (lnsZero, fUF ||| fNX)
        else if l = 32 then (s + 31, fOF ||| fNX)
        else if lnsV l * 8 = x then (s + l, 0)
        else
          let l' := if pickUp mode neg (l % 2 == 0) (lnsV l * 8) (lnsV (l + 1) * 8) x then l + 1 else l
          if l' = 32 then (s + 31, fOF ||| fNX)
          else (s + l', if l' = first then fUF ||| fNX else fNX)
      | none =>
        if pickUp mode neg true 0 (lnsV first * 8) x then (s + first, fUF ||| fNX) else (lnsZero, fUF ||| fNX)

/-- The value of an E8M0 byte (04 R83). -/
def e8m0Value (bits : Nat) : Val := if bits % 256 = 255 then .nan false else .fin false 1 ((bits % 256 : Nat) - 127)

/-- Round a value into E8M0 (04 R85, R87, R88, 16 R318); one above the largest is out of range and raises NV beside OF and NX. -/
def deliverE8m0 (mode : RMode) : Val → Nat × Flags
  | .nan _ => (255, fNV)
  | .inf neg => (if neg then 255 else 254, fNV)
  | .zero _ => (255, fNV)
  | .fin true _ _ => (255, fNV)
  | .fin false m e =>
    let lg := (m.log2 : Int) + e
    if lg < -127 then (0, fUF ||| fNX)
    else if 127 < lg then (254, fNV ||| fOF ||| fNX)
    else
      let code := (lg + 127).toNat
      let p := 2 ^ m.log2
      if m = p then (code, 0)
      else
        let c' := if pickUp mode false (code % 2 == 0) p (2 * p) m then code + 1 else code
        if c' = 255 then (254, fNV ||| fOF ||| fNX) else (c', if c' = 0 then fUF ||| fNX else fNX)

/-- The value of an element pattern, an MX element's scale not yet applied (04 R79 to R83). -/
def Fmt.value (f : Fmt) (bits : Nat) : Val :=
  match f.element with
  | .fp32 => specFp32.value bits
  | .bf16 => specBf16.value bits
  | .e4m3 => specE4m3.value bits
  | .e5m2 => specE5m2.value bits
  | .lns6 => lnsValue bits
  | .int8 => .ofInt (BitVec.ofNat 8 bits).toInt
  | .int16 => .ofInt (BitVec.ofNat 16 bits).toInt
  | .int32 => .ofInt (BitVec.ofNat 32 bits).toInt
  | _ => e8m0Value bits

/-- Round a value once into an element format at destination position (a, c) (04 R86 to R91). -/
def Fmt.deliver (f : Fmt) (mode : RMode) (a c : Nat) (x : Val) : Nat × Flags :=
  let t := bayer a c
  match f.element with
  | .fp32 => specFp32.deliver mode t x
  | .bf16 => specBf16.deliver mode t x
  | .e4m3 => specE4m3.deliver mode t x
  | .e5m2 => specE5m2.deliver mode t x
  | .lns6 => deliverLns mode x
  | .int8 => deliverInt (-128) 127 8 mode t x
  | .int16 => deliverInt (-32768) 32767 16 mode t x
  | .int32 => deliverInt (-2147483648) 2147483647 32 mode t x
  | _ => deliverE8m0 mode x

/-- An MX element's value: the element times its block's scale (04 R83). A NaN scale makes it a NaN. -/
def mxValue (f : Fmt) (elem scale : Nat) : Val :=
  if scale % 256 = 255 then .nan false else (f.value elem).scale ((scale % 256 : Nat) - 127)

/-- floor(log2 |x|) of a nonzero finite value. -/
def Val.log2? : Val → Option Int
  | .fin _ m e => some ((m.log2 : Int) + e)
  | _ => none

/-- The largest exponent of an MX element format (04 R92 step 1). -/
def Fmt.emax : Fmt → Int
  | .mxE4m3 => 8 | .mxE5m2 => 15 | _ => 3

def maxLog (vs : List Val) : Option Int :=
  vs.foldl (fun acc v => match acc, v.log2? with
    | none, l => l
    | some a, some l => some (max a l)
    | some a, none => some a) none

/-- The zero pattern of a format. -/
def Fmt.zeroBits (f : Fmt) : Nat := if f.isLns then lnsZero else 0

/-- The scale byte of one MX block (04 R92 steps 1 to 4). -/
def mxScale (f : Fmt) (vs : List Val) : Nat :=
  if vs.any Val.isNanOrInf then 255
  else match maxLog vs with
    | none => 127
    | some lg => (max (-127) (min 127 (lg - f.emax)) + 127).toNat

/-- One element of an MX block under its scale byte (04 R92), and its flags. Any overflow is the largest value. A zero keeps its sign, in a block of
zeros too: DESIGN CHOICE (log 192), step 3 says that every element is zero. -/
def mxElement (f : Fmt) (scale : Nat) (mode : RMode) (a c : Nat) (x : Val) : Nat × Flags :=
  if scale = 255 then (f.zeroBits, if x.isNanOrInf then fNV else 0)
  else
    let v := x.scale (127 - (scale : Int))
    let r := f.element.deliver mode a c v
    if r.2 &&& fOF = 0 then r
    else match f.element with
      | .e4m3 => ((if v.neg? then 128 else 0) + specE4m3.maxBits, r.2)
      | .e5m2 => ((if v.neg? then 128 else 0) + specE5m2.maxBits, r.2)
      | _ => r

/-! ### Arithmetic -/

/-- NV for a signalling operand (04 R85). -/
def nvIf (b : Bool) : Flags := if b then fNV else 0

/-- m * 2^e brought to exponent e' ≤ e. -/
def alignTo (m : Nat) (e e' : Int) : Nat := m * 2 ^ (e - e').toNat

/-- The exact sum of two values in a mode; the mode decides only the sign of an exact zero sum (04 R86). -/
def Val.add (mode : RMode) (x y : Val) : Val × Flags :=
  match x, y with
  | .nan s, y => (.nan false, nvIf (s || y.isSignalling))
  | x, .nan s => (.nan false, nvIf (s || x.isSignalling))
  | .inf a, .inf b => if a = b then (.inf a, 0) else (.nan false, fNV)
  | .inf a, _ => (.inf a, 0)
  | _, .inf b => (.inf b, 0)
  | .zero a, .zero b => (.zero (if a = b then a else mode == .rdn), 0)
  | .zero _, y => (y, 0)
  | x, .zero _ => (x, 0)
  | .fin a m e, .fin b n k =>
    let q := min e k
    let i : Int := if a then -(alignTo m e q : Int) else alignTo m e q
    let j : Int := if b then -(alignTo n k q : Int) else alignTo n k q
    let v := i + j
    if v = 0 then (.zero (mode == .rdn), 0) else (.fin (v < 0) v.natAbs q, 0)

/-- The exact product (04 R85, R93). -/
def Val.mul (x y : Val) : Val × Flags :=
  match x, y with
  | .nan s, y => (.nan false, nvIf (s || y.isSignalling))
  | x, .nan s => (.nan false, nvIf (s || x.isSignalling))
  | .inf _, .zero _ => (.nan false, fNV)
  | .zero _, .inf _ => (.nan false, fNV)
  | .inf a, y => (.inf (a != y.neg?), 0)
  | x, .inf b => (.inf (x.neg? != b), 0)
  | .zero a, y => (.zero (a != y.neg?), 0)
  | x, .zero b => (.zero (x.neg? != b), 0)
  | .fin a m e, .fin b n k => (.fin (a != b) (m * n) (e + k), 0)

/-- x * y + z with one rounding still to come (05 R117, 16 R312). 0 * inf raises NV whatever z holds. -/
def Val.fma (mode : RMode) (x y z : Val) : Val × Flags :=
  let (p, f) := Val.mul x y
  let (s, g) := Val.add mode p z
  (s, f ||| g)

/-- The quotient, to 256 bits and a remainder mark (04 R94, 05 R121). -/
def Val.div (x y : Val) : Val × Flags :=
  match x, y with
  | .nan s, y => (.nan false, nvIf (s || y.isSignalling))
  | x, .nan s => (.nan false, nvIf (s || x.isSignalling))
  | .inf _, .inf _ => (.nan false, fNV)
  | .inf a, y => (.inf (a != y.neg?), 0)
  | x, .inf b => (.zero (x.neg? != b), 0)
  | .zero _, .zero _ => (.nan false, fNV)
  | .zero a, y => (.zero (a != y.neg?), 0)
  | x, .zero b => (.inf (x.neg? != b), fDZ)
  | .fin a m e, .fin b n k =>
    let s : Nat := 256 + n.log2
    (.mkInexact (a != b) (m * 2 ^ s / n) (e - k - s) (m * 2 ^ s % n != 0), 0)

/-- The integer square root of v, one bit at a time from bit b down. -/
def isqrtFrom (v : Nat) : (b r : Nat) → Nat
  | 0, r => if (r + 1) * (r + 1) ≤ v then r + 1 else r
  | b + 1, r => isqrtFrom v b (if (r + 2 ^ (b + 1)) * (r + 2 ^ (b + 1)) ≤ v then r + 2 ^ (b + 1) else r)

def isqrt (v : Nat) : Nat := isqrtFrom v (v.log2 / 2) 0

/-- √(m * 2^e) with at least 256 bits and a remainder mark. -/
def sqrtFin (m : Nat) (e : Int) : Val :=
  let s : Nat := if e % 2 == 0 then 512 else 513
  let v := m * 2 ^ s
  let r := isqrt v
  .mkInexact false r ((e - (s : Int)) / 2) (r * r != v)

/-- √x (04 R94, 05 R121). -/
def Val.sqrt : Val → Val × Flags
  | .nan s => (.nan false, nvIf s)
  | .inf true => (.nan false, fNV)
  | .inf false => (.inf false, 0)
  | .zero s => (.zero s, 0)
  | .fin true _ _ => (.nan false, fNV)
  | .fin false m e => (sqrtFin m e, 0)

/-- 1/x (04 R94). -/
def Val.rcp (x : Val) : Val × Flags := Val.div (.fin false 1 0) x

/-- 1/√x (04 R94): the root of the reciprocal, whose remainder mark carries over. -/
def Val.rsqrt : Val → Val × Flags
  | .nan s => (.nan false, nvIf s)
  | .inf true => (.nan false, fNV)
  | .inf false => (.zero false, 0)
  | .zero s => (.inf s, fDZ)
  | .fin true _ _ => (.nan false, fNV)
  | .fin false m e =>
    let s : Nat := if e % 2 == 0 then 2 * (300 + m.log2) else 2 * (300 + m.log2) + 1
    let v := 2 ^ s / m
    let r := isqrt v
    (.mkInexact false r (-((e + (s : Int)) / 2)) (r * r * m != 2 ^ s), 0)

/-- The numeric order of two values that are not NaN: -1, 0 or 1, with -0 equal to +0. -/
def Val.cmp (x y : Val) : Int :=
  match x, y with
  | .inf a, .inf b => if a = b then 0 else if a then -1 else 1
  | .inf a, _ => if a then -1 else 1
  | _, .inf b => if b then 1 else -1
  | .zero _, .zero _ => 0
  | .zero _, .fin b _ _ => if b then 1 else -1
  | .fin a _ _, .zero _ => if a then -1 else 1
  | .fin a m e, .fin b n k =>
    if a ≠ b then (if a then -1 else 1)
    else
      let lx := (m.log2 : Int) + e
      let ly := (n.log2 : Int) + k
      let q := min e k
      let mag : Int := if lx < ly then -1 else if ly < lx then 1
        else if alignTo m e q < alignTo n k q then -1 else if alignTo n k q < alignTo m e q then 1 else 0
      if a then -mag else mag
  | _, _ => 0

/-- x below y where -0 counts as less than +0 (04 R95, 05 R118). -/
def Val.before (x y : Val) : Bool :=
  match x, y with
  | .zero a, .zero b => a && !b
  | _, _ => Val.cmp x y == -1

/-- IEEE 754 minimum and maximum: a NaN operand gives NaN (04 R95). -/
def Val.minimum (x y : Val) : Val × Flags :=
  if x.isNan || y.isNan then (.nan false, nvIf (x.isSignalling || y.isSignalling))
  else (if Val.before y x then y else x, 0)

def Val.maximum (x y : Val) : Val × Flags :=
  if x.isNan || y.isNan then (.nan false, nvIf (x.isSignalling || y.isSignalling))
  else (if Val.before x y then y else x, 0)

/-! ### Conversion out of an MX format (04 R92) -/

/-- Does a finite value lie beyond the largest value of a format, or below its smallest normal one? -/
def outside (least : Int) (most : Val) (x : Val) : Bool :=
  match x.log2? with
  | some lg => decide (lg < least) || Val.cmp x.abs most == 1
  | none => false

/-- Does a product leave the range of a destination (04 R92)? LNS6 has no negative value below V(1) in magnitude (R81). Integers saturate in every mode, and MX
blocks choose a scale of their own. -/
def Fmt.leaves : Fmt → Val → Bool
  | .fp32, x => outside (specFp32.emin + specFp32.frac) (specFp32.value specFp32.maxBits) x
  | .bf16, x => outside (specBf16.emin + specBf16.frac) (specBf16.value specBf16.maxBits) x
  | .e4m3, x => outside (specE4m3.emin + specE4m3.frac) (specE4m3.value specE4m3.maxBits) x
  | .e5m2, x => outside (specE5m2.emin + specE5m2.frac) (specE5m2.value specE5m2.maxBits) x
  | .lns6, x => outside (-4) (lnsValue 31) x || Val.cmp (lnsValue 33) x == -1 && Val.cmp x (.zero false) == -1
  | .e8m0, x => outside (-127) (e8m0Value 254) x
  | _, _ => false

/-- The value of an MX element on its way into a format: a product that leaves the format's range is rounded with RNE, whatever the mode (04 R92). -/
def Fmt.fromMx (d : Fmt) (a c : Nat) (x : Val) : Val × Flags :=
  if d.leaves x then
    let r := d.deliver .rne a c x
    (d.value r.1, r.2)
  else (x, nvIf x.isSignalling)

/-! ### Elementary functions (04 R94)

Each is computed in fixed point with 1,024 fraction bits from a convergent series, with an error far below 2^-900. The
result is marked inexact at 2^-700 of a unit, which a rounding boundary of any destination format cannot come near for
the operands the formats admit; the operands with an exact result are taken apart first. -/

/-- Fraction bits of the fixed-point work. -/
def fixBits : Nat := 1024

def fixOne : Nat := 2 ^ fixBits

/-- Σ over k < n of z^(2k+1) / (2k+1): the terms of artanh, z in fixed point; `zz` is z², `pw` the current power. -/
def atanhSum (zz : Nat) : (n k pw : Nat) → Nat
  | 0, _, _ => 0
  | n + 1, k, pw => pw / (2 * k + 1) + atanhSum zz n (k + 1) (pw * zz / fixOne)

/-- artanh of a fixed-point z below 1/2. -/
def atanhFix (z : Nat) : Nat := atanhSum (z * z / fixOne) 520 0 z

/-- ln 2 = 2 artanh(1/3). -/
def ln2Fix : Nat := 2 * atanhFix (fixOne / 3)

/-- Σ of the exponential series of r, r in fixed point below 1. -/
def expSum (r : Nat) : (n k term : Nat) → Nat
  | 0, _, _ => 0
  | n + 1, k, term => term + expSum r n (k + 1) (term * r / fixOne / (k + 1))

/-- e^r for 0 ≤ r < 1, in fixed point. -/
def expFix (r : Nat) : Nat := expSum r 180 0 fixOne

/-- Alternating Σ (-1)^k / ((2k+1) d^(2k+1)): arctan(1/d). -/
def atanInvSum (d : Nat) : (n k pw : Nat) → Int
  | 0, _, _ => 0
  | n + 1, k, pw => (if k % 2 = 0 then ((pw / (2 * k + 1) : Nat) : Int) else -((pw / (2 * k + 1) : Nat) : Int))
      + atanInvSum d n (k + 1) (pw / (d * d))

/-- π by Machin's formula. -/
def piFix : Nat := (16 * atanInvSum 5 260 0 (fixOne / 5) - 4 * atanInvSum 239 80 0 (fixOne / 239)).toNat

/-- Alternating series of sine (from term r) or cosine (from term 1): k is the factorial's current argument. -/
def trigSum (rr : Nat) : (n k term : Nat) → Int
  | 0, _, _ => 0
  | n + 1, k, term => (term : Int) - trigSum rr n (k + 2) (term * rr / fixOne / ((k + 1) * (k + 2)))

/-- sin and cos of a fixed-point r in [0, 2). -/
def sinFix (r : Nat) : Nat := (trigSum (r * r / fixOne) 110 1 r).toNat
def cosFix (r : Nat) : Nat := (trigSum (r * r / fixOne) 110 0 fixOne).toNat

/-- A fixed-point magnitude that is not exact, as a value: its top 700 or more bits with the inexact mark. -/
def ofFix (neg : Bool) (v : Nat) : Val := .mkInexact neg (v / 2 ^ 100) (100 - (fixBits : Int)) true

/-- m * 2^e in fixed point, for |x| < 2^64 and e ≥ -1024. -/
def toFix (m : Nat) (e : Int) : Nat := m * 2 ^ (e + fixBits).toNat

/-- A nonzero magnitude below every format's smallest value. -/
def vanishing (neg : Bool) : Val := .fin neg 1 (-4096)

/-- The value just below 1. -/
def justBelowOne (neg : Bool) : Val := .mkInexact neg (2 ^ 700 - 1) (-700) true

/-- e^-x for a fixed-point x below 2^9: 2^-k * e^r with x = k ln 2 - r. -/
def expNegFix (x : Nat) : Nat :=
  let k := x / ln2Fix + 1
  expFix (k * ln2Fix - x) / 2 ^ k

/-- 2^x (04 R94). -/
def Val.exp2 : Val → Val × Flags
  | .nan s => (.nan false, nvIf s)
  | .inf true => (.zero false, 0)
  | .inf false => (.inf false, 0)
  | .zero _ => (.fin false 1 0, 0)
  | .fin neg m e =>
    if 12 < (m.log2 : Int) + e then (if neg then vanishing false else .fin false 1 8192, 0)
    else
      let x := toFix m e
      let n := x / fixOne
      let r := x % fixOne
      if r = 0 then (.fin false 1 (if neg then -(n : Int) else n), 0)
      else if neg then ((ofFix false (expFix ((fixOne - r) * ln2Fix / fixOne))).scale (-(n : Int) - 1), 0)
      else ((ofFix false (expFix (r * ln2Fix / fixOne))).scale n, 0)

/-- log2 x (04 R94). -/
def Val.log2v : Val → Val × Flags
  | .nan s => (.nan false, nvIf s)
  | .inf true => (.nan false, fNV)
  | .inf false => (.inf false, 0)
  | .zero _ => (.inf true, fDZ)
  | .fin true _ _ => (.nan false, fNV)
  | .fin false m e =>
    let lg := (m.log2 : Int) + e
    if m = 2 ^ m.log2 then (if lg = 0 then .zero false else .ofInt lg, 0)
    else
      let y := m * 2 ^ fixBits / 2 ^ m.log2
      let z := (y - fixOne) * fixOne / (y + fixOne)
      let fr := 2 * atanhFix z * fixOne / ln2Fix
      let v : Int := lg * fixOne + fr
      (ofFix (v < 0) v.natAbs, 0)

/-- tanh x (04 R94). -/
def Val.tanh : Val → Val × Flags
  | .nan s => (.nan false, nvIf s)
  | .inf s => (.fin s 1 0, 0)
  | .zero s => (.zero s, 0)
  | .fin neg m e =>
    if 5 < (m.log2 : Int) + e then (justBelowOne neg, 0)
    else
      let t := expNegFix (2 * toFix m e)
      (ofFix neg ((fixOne - t) * fixOne / (fixOne + t)), 0)

/-- 1/(1 + e^-x) (04 R94). -/
def Val.sigm : Val → Val × Flags
  | .nan s => (.nan false, nvIf s)
  | .inf true => (.zero false, 0)
  | .inf false => (.fin false 1 0, 0)
  | .zero _ => (.fin false 1 (-1), 0)
  | .fin neg m e =>
    if 6 < (m.log2 : Int) + e then (if neg then vanishing false else justBelowOne false, 0)
    else
      let t := expNegFix (toFix m e)
      (ofFix false (if neg then t * fixOne / (fixOne + t) else fixOne * fixOne / (fixOne + t)), 0)

/-- sin(π r) for r in fixed point, 0 < r < 1/2 or the complement above, by the nearer of sine and cosine. -/
def sinPiFix (r : Nat) : Nat :=
  if 4 * r < fixOne then sinFix (r * piFix / fixOne) else cosFix ((fixOne / 2 - r) * piFix / fixOne)

/-- sin(π x) of a magnitude: the quadrant of x mod 2 gives sign and argument. -/
def sinPiMag (neg : Bool) (m : Nat) (e : Int) : Val :=
  if 0 ≤ e then .zero neg
  else
    let x := toFix m e % (2 * fixOne)
    let s := neg != decide (fixOne ≤ x)
    let r := x % fixOne
    if r = 0 then .zero neg
    else if 2 * r = fixOne then .fin s 1 0
    else ofFix s (sinPiFix (if 2 * r < fixOne then r else fixOne - r))

/-- sin(πx) (04 R94): an integer x gives the zero of x's sign. -/
def Val.sinpi : Val → Val × Flags
  | .nan s => (.nan false, nvIf s)
  | .inf _ => (.nan false, fNV)
  | .zero s => (.zero s, 0)
  | .fin neg m e => (sinPiMag neg m e, 0)

/-- cos(πx) (04 R94): x = n + 1/2 gives +0. -/
def Val.cospi : Val → Val × Flags
  | .nan s => (.nan false, nvIf s)
  | .inf _ => (.nan false, fNV)
  | .zero _ => (.fin false 1 0, 0)
  | .fin _ m e =>
    if 1 ≤ e then (.fin false 1 0, 0)
    else
      let x := toFix m e % (2 * fixOne)
      let y := if fixOne ≤ x then 2 * fixOne - x else x
      if y = 0 then (.fin false 1 0, 0)
      else if y = fixOne then (.fin true 1 0, 0)
      else if 2 * y = fixOne then (.zero false, 0)
      else if 2 * y < fixOne then (ofFix false (sinPiFix (fixOne / 2 - y)), 0)
      else (ofFix true (sinPiFix (y - fixOne / 2)), 0)

/-! ### Reduction trees and scans (04 R95 to R100) -/

/-- One node: an absent operand gives the other (04 R95). -/
def node {α : Type} (op : α → α → α × Flags) (x y : Option α) : Option α × Flags :=
  match x, y with
  | x, none => (x, 0)
  | none, y => (y, 0)
  | some a, some b => ((op a b).1, (op a b).2)

/-- One level of the tree: neighbours are combined in pairs. -/
def treeLevel {α : Type} (op : α → α → α × Flags) : List α → List α × Flags
  | a :: b :: rest =>
    let (xs, f) := treeLevel op rest
    let (x, g) := op a b
    (x :: xs, f ||| g)
  | xs => (xs, 0)

def treeLoop {α : Type} (op : α → α → α × Flags) : Nat → List α → List α × Flags
  | 0, xs => (xs, 0)
  | n + 1, xs =>
    if xs.length ≤ 1 then (xs, 0)
    else
      let (ys, f) := treeLevel op xs
      let (zs, g) := treeLoop op n ys
      (zs, f ||| g)

/-- TreeReduce of 04 R95; none for no elements. -/
def treeReduce {α : Type} (op : α → α → α × Flags) (v : List α) : Option α × Flags :=
  let (xs, f) := treeLoop op v.length v
  (xs.head?, f)

/-- The smallest power of two that is at least n. -/
def pow2Above (n : Nat) : Nat := if n ≤ 1 then 1 else 2 ^ ((n - 1).log2 + 1)

/-- One sweep step: every position k that `hit` names combines with position k - d; the flags stay with k (16 R437). -/
def scanStep {α : Type} (op : α → α → α × Flags) (d : Nat) (hit : Nat → Bool)
    (y : List (Option α × Flags)) : List (Option α × Flags) :=
  y.zipIdx.map fun (v, k) =>
    if hit k then
      let r := node op ((y.getD (k - d) (none, 0)).1) v.1
      (r.1, v.2 ||| r.2)
    else v

def scanUp {α : Type} (op : α → α → α × Flags) (p : Nat) : (fuel d : Nat) → List (Option α × Flags) → List (Option α × Flags)
  | 0, _, y => y
  | n + 1, d, y =>
    if d < p then scanUp op p n (2 * d) (scanStep op d (fun k => (k + 1) % (2 * d) == 0) y) else y

def scanDown {α : Type} (op : α → α → α × Flags) : (fuel d : Nat) → List (Option α × Flags) → List (Option α × Flags)
  | 0, _, y => y
  | n + 1, d, y =>
    if 1 ≤ d then scanDown op n (d / 2) (scanStep op d (fun k => (k + 1) % (2 * d) == d && 3 * d ≤ k + 1) y) else y

/-- The Brent–Kung scan of 04 R99, inclusive, over the padded positions; each carries the flags of its nodes. -/
def scanPadded {α : Type} (op : α → α → α × Flags) (x : List α) : List (Option α × Flags) :=
  let p := pow2Above x.length
  let y0 := x.map (fun a => (some a, (0 : Flags))) ++ List.replicate (p - x.length) (none, 0)
  scanDown op (p.log2 + 1) (p / 4) (scanUp op p (p.log2 + 1) 1 y0)

/-- The n outputs of a scan with the flags attributed to each under 16 R437: a node at position k belongs to output k, or
k + 1 in the exclusive form, and to the last output where that lies beyond it. -/
def scan {α : Type} (op : α → α → α × Flags) (identity : α) (exclusive : Bool) (x : List α) : List (α × Flags) :=
  let y := scanPadded op x
  let n := x.length
  let shift := if exclusive then 1 else 0
  (List.range n).map fun k =>
    let v := if exclusive then (if k = 0 then identity else ((y.getD (k - 1) (none, 0)).1).getD identity)
      else ((y.getD k (none, 0)).1).getD identity
    let own := if shift ≤ k then (y.getD (k - shift) (none, 0)).2 else 0
    let rest := if k + 1 = n then (y.drop (n - shift)).foldl (fun f z => f ||| z.2) 0 else 0
    (v, own ||| rest)

/-- Round(x + y, FP32, mode) on FP32 patterns: the sum of a tree node (04 R95, R100). -/
def addFp32 (mode : RMode) (x y : Nat) : Nat × Flags :=
  let (v, f) := Val.add mode (specFp32.value x) (specFp32.value y)
  let (b, g) := specFp32.deliver mode 0 v
  (b, f ||| g)

def maxFp32 (x y : Nat) : Nat × Flags :=
  let (v, f) := Val.maximum (specFp32.value x) (specFp32.value y)
  ((specFp32.deliver .rne 0 v).1, f)

def minFp32 (x y : Nat) : Nat × Flags :=
  let (v, f) := Val.minimum (specFp32.value x) (specFp32.value y)
  ((specFp32.deliver .rne 0 v).1, f)

/-- The affine node (04 R100): (a1, b1) then (a2, b2); the second component is fused and rounded once. -/
def affFp32 (mode : RMode) (x y : Nat × Nat) : (Nat × Nat) × Flags :=
  let a1 := specFp32.value x.1
  let b1 := specFp32.value x.2
  let a2 := specFp32.value y.1
  let b2 := specFp32.value y.2
  let (p, f1) := Val.mul a1 a2
  let (a, f2) := specFp32.deliver mode 0 p
  let (s, f3) := Val.fma mode a2 b1 b2
  let (b, f4) := specFp32.deliver mode 0 s
  ((a, b), f1 ||| f2 ||| f3 ||| f4)

end Sys2Proof.Machine
end

