-- ==== Sys2Proof/Machine/Operands.lean ====
section
/-!
DEFINITION. Sys2Proof/Machine/Operands.lean: which registers and handles each instruction names, explicitly or as an implied
operand (02 R45, 05 R126), and the operand forms of immediates, branches and addresses (02 R27).
-/

namespace Sys2Proof.Machine

/-! ### Immediates (02 R27) -/

/-- An immediate sign-extended to 64 bits. -/
def sext {n : Nat} (imm : BitVec n) : Word := imm.signExtend 64

/-- The S and I forms' byte offset. -/
def ea14 (base : Word) (imm : BitVec 14) : Nat := (base + sext imm).toNat

/-- The LD form's offset, scaled by the access size. -/
def ea9 (base : Word) (imm : BitVec 9) (n : Nat) : Nat := (base + sext imm * BitVec.ofNat 64 n).toNat

/-- The H form's offset: imm8 blocks of 32 bytes, unsigned. -/
def eaH (base : Word) (imm : BitVec 8) : Nat := (base + BitVec.ofNat 64 (32 * imm.toNat)).toNat

/-- The compressed forms' unsigned offset of n units of the access size (02 R41). -/
def eaC (base : Word) (n : BitVec 3) (size : Nat) : Nat := (base + BitVec.ofNat 64 (size * n.toNat)).toNat

/-- The address k halfwords from pc. -/
def halfwords {n : Nat} (pc : Word) (off : BitVec n) : Word := pc + sext off * 2

/-- The U form: sext(imm21) << 13. -/
def upper (imm : BitVec 21) : Word := sext imm <<< 13

/-! ### Named operands -/

/-- The scalar registers an instruction reads, implied operands included (02 R45). -/
def instrSources : Instr → List Reg
  | .lb _ rs1 _ _ _ => [rs1]
  | .lh _ rs1 _ _ _ => [rs1]
  | .lw _ rs1 _ _ _ => [rs1]
  | .ld _ rs1 _ _ _ => [rs1]
  | .lbu _ rs1 _ _ _ => [rs1]
  | .lhu _ rs1 _ _ _ => [rs1]
  | .lwu _ rs1 _ _ _ => [rs1]
  | .sb rs1 rs2 _ => [rs1, rs2]
  | .sh rs1 rs2 _ => [rs1, rs2]
  | .sw rs1 rs2 _ => [rs1, rs2]
  | .sd rs1 rs2 _ => [rs1, rs2]
  | .swRel rs1 rs2 _ => [rs1, rs2]
  | .sdRel rs1 rs2 _ => [rs1, rs2]
  | .sdFwd rs1 rs2 _ => [rs1, rs2]
  | .addi _ rs1 _ => [rs1]
  | .slli _ rs1 _ => [rs1]
  | .slti _ rs1 _ => [rs1]
  | .sltiu _ rs1 _ => [rs1]
  | .xori _ rs1 _ => [rs1]
  | .srli _ rs1 _ => [rs1]
  | .srai _ rs1 _ => [rs1]
  | .ori _ rs1 _ => [rs1]
  | .andi _ rs1 _ => [rs1]
  | .add _ rs1 rs2 => [rs1, rs2]
  | .sub _ rs1 rs2 => [rs1, rs2]
  | .sll _ rs1 rs2 => [rs1, rs2]
  | .slt _ rs1 rs2 => [rs1, rs2]
  | .sltu _ rs1 rs2 => [rs1, rs2]
  | .xor _ rs1 rs2 => [rs1, rs2]
  | .srl _ rs1 rs2 => [rs1, rs2]
  | .sra _ rs1 rs2 => [rs1, rs2]
  | .or _ rs1 rs2 => [rs1, rs2]
  | .and _ rs1 rs2 => [rs1, rs2]
  | .min _ rs1 rs2 => [rs1, rs2]
  | .max _ rs1 rs2 => [rs1, rs2]
  | .minu _ rs1 rs2 => [rs1, rs2]
  | .maxu _ rs1 rs2 => [rs1, rs2]
  | .mul _ rs1 rs2 => [rs1, rs2]
  | .mulh _ rs1 rs2 => [rs1, rs2]
  | .mulhu _ rs1 rs2 => [rs1, rs2]
  | .clz _ rs1 => [rs1]
  | .ctz _ rs1 => [rs1]
  | .popc _ rs1 => [rs1]
  | .brev _ rs1 => [rs1]
  | .seq _ rs1 rs2 => [rs1, rs2]
  | .sne _ rs1 rs2 => [rs1, rs2]
  | .addw _ rs1 rs2 => [rs1, rs2]
  | .subw _ rs1 rs2 => [rs1, rs2]
  | .lui _ _ => []
  | .auipc _ _ => []
  | .beq rs1 rs2 _ => [rs1, rs2]
  | .bne rs1 rs2 _ => [rs1, rs2]
  | .blt rs1 rs2 _ => [rs1, rs2]
  | .bge rs1 rs2 _ => [rs1, rs2]
  | .bltu rs1 rs2 _ => [rs1, rs2]
  | .bgeu rs1 rs2 _ => [rs1, rs2]
  | .jal _ _ => []
  | .jalr _ rs1 _ => [rs1]
  | .div _ rs1 rs2 _ _ => [rs1, rs2]
  | .divu _ rs1 rs2 _ _ => [rs1, rs2]
  | .rem _ rs1 rs2 _ _ => [rs1, rs2]
  | .remu _ rs1 rs2 _ _ => [rs1, rs2]
  | .fadd _ rs1 rs2 _ _ => [rs1, rs2]
  | .fsub _ rs1 rs2 _ _ => [rs1, rs2]
  | .fmul _ rs1 rs2 _ _ => [rs1, rs2]
  | .fmin _ rs1 rs2 _ => [rs1, rs2]
  | .fmax _ rs1 rs2 _ => [rs1, rs2]
  | .fsgnj _ rs1 rs2 _ _ => [rs1, rs2]
  | .feq _ rs1 rs2 _ => [rs1, rs2]
  | .flt _ rs1 rs2 _ => [rs1, rs2]
  | .fle _ rs1 rs2 _ => [rs1, rs2]
  | .fclass _ rs1 _ => [rs1]
  | .fcvtFI _ rs1 _ _ _ _ => [rs1]
  | .fcvtIF _ rs1 _ _ _ _ => [rs1]
  | .fcvtFF _ rs1 _ _ => [rs1]
  | .fmac rd rs1 rs2 _ _ => [rs1, rs2, rd]
  | .fdiv _ rs1 rs2 _ _ _ => [rs1, rs2]
  | .fsqrt _ rs1 _ _ _ => [rs1]
  | .amoAdd _ rs1 rs2 _ _ _ => [rs1, rs2]
  | .amoAnd _ rs1 rs2 _ _ _ => [rs1, rs2]
  | .amoOr _ rs1 rs2 _ _ _ => [rs1, rs2]
  | .amoXor _ rs1 rs2 _ _ _ => [rs1, rs2]
  | .amoMin _ rs1 rs2 _ _ _ => [rs1, rs2]
  | .amoMax _ rs1 rs2 _ _ _ => [rs1, rs2]
  | .amoMinu _ rs1 rs2 _ _ _ => [rs1, rs2]
  | .amoMaxu _ rs1 rs2 _ _ _ => [rs1, rs2]
  | .amoSwap _ rs1 rs2 _ _ _ => [rs1, rs2]
  | .amoCas rd rs1 rs2 _ _ _ => [rs1, rs2, rd]
  | .amoFadd _ rs1 rs2 _ _ => [rs1, rs2]
  | .fence _ _ => []
  | .fenceX _ _ _ => []
  | .chunk => []
  | .seam rs1 => [rs1]
  | .watch _ rs1 => [rs1]
  | .sleep _ rs1 => [rs1]
  | .unwatch rs1 => [rs1]
  | .hld _ rs1 _ => [rs1]
  | .hst _ rs1 _ => [rs1]
  | .hset _ rs2 _ => [rs2]
  | .hget _ _ _ => []
  | .hmov _ _ => []
  | .hadv _ rs1 rs2 => [rs1, rs2]
  | .hzero _ => []
  | .rep rs1 _ _ _ _ => [rs1]
  | .vadd _ _ _ _ _ => []
  | .vsub _ _ _ _ _ => []
  | .vmul _ _ _ _ _ => []
  | .vfma _ _ _ _ _ _ => []
  | .vmin _ _ _ _ _ => []
  | .vmax _ _ _ _ _ => []
  | .vabs _ _ _ _ => []
  | .vneg _ _ _ _ => []
  | .vand _ _ _ _ => []
  | .vor _ _ _ _ => []
  | .vxor _ _ _ _ => []
  | .vshl _ _ _ _ => []
  | .vshr _ _ _ _ => []
  | .vsra _ _ _ _ => []
  | .vsel _ _ _ _ _ => []
  | .vcmpeq _ _ _ _ => []
  | .vcmplt _ _ _ _ => []
  | .vcmple _ _ _ _ => []
  | .vset _ _ _ _ => []
  | .vcopy _ _ _ => []
  | .vrcp _ _ _ _ => []
  | .vrsq _ _ _ _ => []
  | .vsqrt _ _ _ _ => []
  | .vdiv _ _ _ _ _ => []
  | .vexp2 _ _ _ _ => []
  | .vlog2 _ _ _ _ => []
  | .vtanh _ _ _ _ => []
  | .vsigm _ _ _ _ => []
  | .vsinpi _ _ _ _ => []
  | .vcospi _ _ _ _ => []
  | .vcvt _ _ _ _ => []
  | .vqsplit _ _ _ _ _ => []
  | .vscale _ _ _ _ _ => []
  | .viota _ _ _ _ _ => []
  | .vredRowAdd _ _ _ _ => []
  | .vredRowMax _ _ _ => []
  | .vredRowMin _ _ _ => []
  | .vredColAdd _ _ _ _ => []
  | .vredColMax _ _ _ => []
  | .vredColMin _ _ _ => []
  | .vscanRowAdd _ _ _ _ _ => []
  | .vscanRowAff _ _ _ _ _ _ => []
  | .vscanColAdd _ _ _ _ _ => []
  | .vscanColAff _ _ _ _ _ _ => []
  | .vscanRowMax _ _ _ _ => []
  | .vgather _ _ _ _ => []
  | .vscatter _ _ _ _ => []
  | .vtrn _ _ _ => []
  | .vbcastRow _ _ _ => []
  | .vbcastCol _ _ _ => []
  | .vpack _ _ _ _ => []
  | .vunpack _ _ _ _ => []
  | .mctx _ _ _ => []
  | .mbld _ _ _ => []
  | .mmul _ _ _ _ _ _ _ => []
  | .mdrain _ _ _ _ => []
  | .mzero _ _ => []
  | .mwait => []
  | .mrem _ _ _ _ _ => []
  | .gscanAdd _ _ _ _ _ => []
  | .gscanAff _ _ _ _ _ _ => []
  | .gscanMax _ _ _ _ => []
  | .gredAdd _ _ _ _ => []
  | .gredMax _ _ _ => []
  | .gbcast _ _ _ _ => []
  | .gsync => []
  | .xset rs1 _ _ => [rs1]
  | .xgo _ _ => []
  | .xwait _ rs1 rs2 _ _ => [rs1, rs2]
  | .xtest _ rs1 _ => [rs1]
  | .xcancel _ rs1 _ => [rs1]
  | .xstat _ rs1 sel _ => if sel = 4 then [] else [rs1]
  | .binit _ rs1 rs2 _ => [rs1, rs2]
  | .barrive _ rs1 rs2 _ => [rs1, rs2]
  | .bexpect _ rs1 rs2 _ => [rs1, rs2]
  | .bwait _ rs1 rs2 _ => [rs1, rs2]
  | .btry _ rs1 rs2 _ => [rs1, rs2]
  | .barriveExp _ rs1 rs2 _ => [rs1, rs2]
  | .send _ rs1 rs2 _ => [rs1, rs2]
  | .sendm _ rs1 rs2 _ => [rs1, rs2]
  | .spawn _ rs1 rs2 _ => [rs1, rs2]
  | .done => []
  | .qstat _ _ _ => []
  | .carry _ rs1 rs2 _ => [rs1, rs2]
  | .carryw _ rs1 rs2 _ => [rs1, rs2]
  | .yield _ => []
  | .reseed _ rs1 rs2 ownerForm _ _ => if ownerForm then [rs1, rs2] else [rs1]
  | .draw _ rs1 _ => [rs1]
  | .exq _ rs1 _ _ _ => [rs1]
  | .excurve _ rs1 rs2 _ _ _ => [rs1, rs2]
  | .plq _ rs1 _ _ => [rs1]
  | .xlpin _ rs1 rs2 _ _ => [rs1, rs2]
  | .xlunpin _ rs1 _ => [rs1]
  | .pclass _ rs1 _ _ => [rs1]
  | .rangeq _ rs1 _ => [rs1]
  | .regsw _ rs1 rs2 _ => [rs1, rs2]
  | .pload _ rs1 rs2 _ => [rs1, rs2]
  | .replay _ rs1 rs2 _ => [rs1, rs2]
  | .migrate _ rs1 rs2 _ => [rs1, rs2]
  | .shoot _ rs1 rs2 _ _ => [rs1, rs2]
  | .compose _ _ => []
  | .release _ => []
  | .cstat _ _ => []
  | .crr _ _ => []
  | .crw _ rs1 _ => [rs1]
  | .crs _ rs1 _ => [rs1]
  | .crc _ rs1 _ => [rs1]
  | .trap rs1 => [rs1]
  | .eret => []
  | .brk _ => []
  | .nop => []
  | .synci rs1 rs2 => [rs1, rs2]
  | .carve _ rs1 => [rs1]
  | .capmint _ rs1 => [rs1]
  | .wfi _ => []
  | .cLw _ rs1 _ => [rs1]
  | .cLd _ rs1 _ => [rs1]
  | .cSw rs1 rs2 _ => [rs1, rs2]
  | .cSd rs1 rs2 _ => [rs1, rs2]
  | .cBeqz rs1 _ => [rs1, 0]
  | .cBnez rs1 _ => [rs1, 0]
  | .cJ _ => [0]
  | .cJr rs1 => [rs1]
  | .cMv _ rs1 => [rs1]
  | .cAdd rd rs1 => [rd, rs1]
  | .cSub rd rs1 => [rd, rs1]
  | .cAnd rd rs1 => [rd, rs1]
  | .cOr rd rs1 => [rd, rs1]
  | .cXor rd rs1 => [rd, rs1]
  | .cAddi rd _ => [rd]
  | .cLi _ _ => [0]
  | .cSlli rd _ => [rd]
  | .cSrli rd _ => [rd]
  | .cSrai rd _ => [rd]
  | .cNop => []
  | .cDone => []
  | .reservedEncoding _ _ => []
  | .fetchFromAddressZero => []
  | .instructionFetchFault _ _ => []
  | .slotSelection _ _ => []
  | .chunkCommit _ _ => []
  | .faultBatchWrite _ _ => []
  | .faultBatchService _ _ => []
  | .syscallService _ _ => []
  | .logFull _ => []
  | .messageArrival _ _ => []
  | .messageResend _ _ => []
  | .messageDispatch _ => []
  | .launch _ => []
  | .abort _ => []
  | .preempt _ => []
  | .preemptResume _ => []
  | .query _ => []
  | .badopRequest _ _ => []
  | .map _ => []
  | .unmap _ => []
  | .populate _ => []
  | .window _ => []
  | .ranges _ => []
  | .faultans _ => []
  | .ownerCreate _ _ => []
  | .ownerRetire _ => []
  | .partitionReady _ => []
  | .seamjoin _ => []
  | .attestationRequest _ => []
  | .rdmaWrite _ _ _ => []
  | .rdmaRead _ _ _ => []
  | .kernelPlacement _ _ => []
  | .priorityPreemption _ _ => []
  | .gangPreemption _ _ => []
  | .kernelResume _ _ => []
  | .transferStart _ _ => []
  | .transferChunkLanding _ _ _ => []
  | .transferCancellation _ _ => []
  | .mzeroExecute _ _ => []
  | .mbldExecute _ _ => []
  | .mmulExecute _ _ => []
  | .mdrainExecute _ _ => []
  | .remoteMatrixCommand _ _ => []
  | .collectiveComplete _ _ _ => []
  | .collectiveTimeout _ _ => []
  | .bwaitTimeout _ _ => []
  | .sleepTimeout _ _ => []
  | .wfiTimeout _ _ => []
  | .xwaitTimeout _ _ => []
  | .carrywTimeout _ _ => []
  | .leaseExpiry _ _ => []
  | .remotePackedStore _ => []
  | .arbitrationRound _ _ => []
  | .gets _ _ => []
  | .getm _ _ => []
  | .upgrade _ _ => []
  | .puts _ _ => []
  | .putm _ _ => []
  | .atomic _ _ => []
  | .write _ _ => []
  | .dirEvict _ => []
  | .recallLine _ => []
  | .flush _ => []
  | .reclassify _ => []
  | .fwdtagConsume _ _ => []
  | .inv _ _ => []
  | .fwdS _ _ => []
  | .fwdM _ _ => []
  | .update _ _ => []
  | .dieRecall _ _ => []
  | .ack _ _ => []
  | .data _ _ => []
  | .seamIntervalExpiry _ => []
  | .seamCommit _ => []
  | .uncorrectableError _ => []
  | .rollback _ => []
  | .directoryEntryError _ _ => []
  | .patrolScrub _ => []
  | .refreshManagement _ _ => []
  | .coreSparing _ => []
  | .sliceSparing _ _ => []
  | .pseudoChannelSparing _ => []
  | .lysaUpdate _ _ => []
  | .partnerDetected _ => []
  | .linkTrained _ _ => []
  | .linkFault _ _ => []
  | .rtlimitExpiry _ => []
  | .linkRepair _ => []
  | .uePortFault _ => []
  | .dataFlit _ _ => []
  | .ackFlit _ _ => []
  | .nakFlit _ _ => []
  | .trainingFlit _ _ => []
  | .flitResendLimit _ => []
  | .carryArrival _ => []
  | .carryResend _ _ => []
  | .carryAcknowledgement _ _ _ => []
  | .powerOn => []
  | .railFault _ => []
  | .powerLimit => []
  | .powerRecovery => []
  | .thermalThrottle _ => []
  | .thermalRecovery _ => []
  | .thermalTrip _ => []
  | .watchdogExpiry _ => []
  | .wdogKick _ _ => []
  | .plbFlush _ => []
  | .bmReset => []
  | .bypass => []
  | .idcode => []
  | .samplePreload _ => []
  | .extest _ => []
  | .partnerLost _ => []
  | .idleFlit _ _ => []

/-- The scalar registers an instruction writes, implied operands included; TRAP implies s4 (02 R45). -/
def instrDests : Instr → List Reg
  | .lb rd _ _ _ _ => [rd]
  | .lh rd _ _ _ _ => [rd]
  | .lw rd _ _ _ _ => [rd]
  | .ld rd _ _ _ _ => [rd]
  | .lbu rd _ _ _ _ => [rd]
  | .lhu rd _ _ _ _ => [rd]
  | .lwu rd _ _ _ _ => [rd]
  | .sb _ _ _ => []
  | .sh _ _ _ => []
  | .sw _ _ _ => []
  | .sd _ _ _ => []
  | .swRel _ _ _ => []
  | .sdRel _ _ _ => []
  | .sdFwd _ _ _ => []
  | .addi rd _ _ => [rd]
  | .slli rd _ _ => [rd]
  | .slti rd _ _ => [rd]
  | .sltiu rd _ _ => [rd]
  | .xori rd _ _ => [rd]
  | .srli rd _ _ => [rd]
  | .srai rd _ _ => [rd]
  | .ori rd _ _ => [rd]
  | .andi rd _ _ => [rd]
  | .add rd _ _ => [rd]
  | .sub rd _ _ => [rd]
  | .sll rd _ _ => [rd]
  | .slt rd _ _ => [rd]
  | .sltu rd _ _ => [rd]
  | .xor rd _ _ => [rd]
  | .srl rd _ _ => [rd]
  | .sra rd _ _ => [rd]
  | .or rd _ _ => [rd]
  | .and rd _ _ => [rd]
  | .min rd _ _ => [rd]
  | .max rd _ _ => [rd]
  | .minu rd _ _ => [rd]
  | .maxu rd _ _ => [rd]
  | .mul rd _ _ => [rd]
  | .mulh rd _ _ => [rd]
  | .mulhu rd _ _ => [rd]
  | .clz rd _ => [rd]
  | .ctz rd _ => [rd]
  | .popc rd _ => [rd]
  | .brev rd _ => [rd]
  | .seq rd _ _ => [rd]
  | .sne rd _ _ => [rd]
  | .addw rd _ _ => [rd]
  | .subw rd _ _ => [rd]
  | .lui rd _ => [rd]
  | .auipc rd _ => [rd]
  | .beq _ _ _ => []
  | .bne _ _ _ => []
  | .blt _ _ _ => []
  | .bge _ _ _ => []
  | .bltu _ _ _ => []
  | .bgeu _ _ _ => []
  | .jal rd _ => [rd]
  | .jalr rd _ _ => [rd]
  | .div rd _ _ _ _ => [rd]
  | .divu rd _ _ _ _ => [rd]
  | .rem rd _ _ _ _ => [rd]
  | .remu rd _ _ _ _ => [rd]
  | .fadd rd _ _ _ _ => [rd]
  | .fsub rd _ _ _ _ => [rd]
  | .fmul rd _ _ _ _ => [rd]
  | .fmin rd _ _ _ => [rd]
  | .fmax rd _ _ _ => [rd]
  | .fsgnj rd _ _ _ _ => [rd]
  | .feq rd _ _ _ => [rd]
  | .flt rd _ _ _ => [rd]
  | .fle rd _ _ _ => [rd]
  | .fclass rd _ _ => [rd]
  | .fcvtFI rd _ _ _ _ _ => [rd]
  | .fcvtIF rd _ _ _ _ _ => [rd]
  | .fcvtFF rd _ _ _ => [rd]
  | .fmac rd _ _ _ _ => [rd]
  | .fdiv rd _ _ _ _ _ => [rd]
  | .fsqrt rd _ _ _ _ => [rd]
  | .amoAdd rd _ _ _ _ _ => [rd]
  | .amoAnd rd _ _ _ _ _ => [rd]
  | .amoOr rd _ _ _ _ _ => [rd]
  | .amoXor rd _ _ _ _ _ => [rd]
  | .amoMin rd _ _ _ _ _ => [rd]
  | .amoMax rd _ _ _ _ _ => [rd]
  | .amoMinu rd _ _ _ _ _ => [rd]
  | .amoMaxu rd _ _ _ _ _ => [rd]
  | .amoSwap rd _ _ _ _ _ => [rd]
  | .amoCas rd _ _ _ _ _ => [rd]
  | .amoFadd rd _ _ _ _ => [rd]
  | .fence _ _ => []
  | .fenceX _ _ _ => []
  | .chunk => []
  | .seam _ => []
  | .watch rd _ => [rd]
  | .sleep rd _ => [rd]
  | .unwatch _ => []
  | .hld _ _ _ => []
  | .hst _ _ _ => []
  | .hset _ _ _ => []
  | .hget _ rs2 _ => [rs2]
  | .hmov _ _ => []
  | .hadv _ _ _ => []
  | .hzero _ => []
  | .rep _ _ _ _ _ => []
  | .vadd _ _ _ _ _ => []
  | .vsub _ _ _ _ _ => []
  | .vmul _ _ _ _ _ => []
  | .vfma _ _ _ _ _ _ => []
  | .vmin _ _ _ _ _ => []
  | .vmax _ _ _ _ _ => []
  | .vabs _ _ _ _ => []
  | .vneg _ _ _ _ => []
  | .vand _ _ _ _ => []
  | .vor _ _ _ _ => []
  | .vxor _ _ _ _ => []
  | .vshl _ _ _ _ => []
  | .vshr _ _ _ _ => []
  | .vsra _ _ _ _ => []
  | .vsel _ _ _ _ _ => []
  | .vcmpeq _ _ _ _ => []
  | .vcmplt _ _ _ _ => []
  | .vcmple _ _ _ _ => []
  | .vset _ _ _ _ => []
  | .vcopy _ _ _ => []
  | .vrcp _ _ _ _ => []
  | .vrsq _ _ _ _ => []
  | .vsqrt _ _ _ _ => []
  | .vdiv _ _ _ _ _ => []
  | .vexp2 _ _ _ _ => []
  | .vlog2 _ _ _ _ => []
  | .vtanh _ _ _ _ => []
  | .vsigm _ _ _ _ => []
  | .vsinpi _ _ _ _ => []
  | .vcospi _ _ _ _ => []
  | .vcvt _ _ _ _ => []
  | .vqsplit _ _ _ _ _ => []
  | .vscale _ _ _ _ _ => []
  | .viota _ _ _ _ _ => []
  | .vredRowAdd _ _ _ _ => []
  | .vredRowMax _ _ _ => []
  | .vredRowMin _ _ _ => []
  | .vredColAdd _ _ _ _ => []
  | .vredColMax _ _ _ => []
  | .vredColMin _ _ _ => []
  | .vscanRowAdd _ _ _ _ _ => []
  | .vscanRowAff _ _ _ _ _ _ => []
  | .vscanColAdd _ _ _ _ _ => []
  | .vscanColAff _ _ _ _ _ _ => []
  | .vscanRowMax _ _ _ _ => []
  | .vgather _ _ _ _ => []
  | .vscatter _ _ _ _ => []
  | .vtrn _ _ _ => []
  | .vbcastRow _ _ _ => []
  | .vbcastCol _ _ _ => []
  | .vpack _ _ _ _ => []
  | .vunpack _ _ _ _ => []
  | .mctx _ _ _ => []
  | .mbld _ _ _ => []
  | .mmul _ _ _ _ _ _ _ => []
  | .mdrain _ _ _ _ => []
  | .mzero _ _ => []
  | .mwait => []
  | .mrem _ _ _ _ _ => []
  | .gscanAdd _ _ _ _ _ => []
  | .gscanAff _ _ _ _ _ _ => []
  | .gscanMax _ _ _ _ => []
  | .gredAdd _ _ _ _ => []
  | .gredMax _ _ _ => []
  | .gbcast _ _ _ _ => []
  | .gsync => []
  | .xset _ _ _ => []
  | .xgo rd _ => [rd]
  | .xwait rd _ _ _ _ => [rd]
  | .xtest rd _ _ => [rd]
  | .xcancel rd _ _ => [rd]
  | .xstat rd _ _ _ => [rd]
  | .binit rd _ _ _ => [rd]
  | .barrive rd _ _ _ => [rd]
  | .bexpect rd _ _ _ => [rd]
  | .bwait rd _ _ _ => [rd]
  | .btry rd _ _ _ => [rd]
  | .barriveExp rd _ _ _ => [rd]
  | .send rd _ _ _ => [rd]
  | .sendm rd _ _ _ => [rd]
  | .spawn rd _ _ _ => [rd]
  | .done => []
  | .qstat rd _ _ => [rd]
  | .carry rd _ _ _ => [rd]
  | .carryw rd _ _ _ => [rd]
  | .yield rd => [rd]
  | .reseed rd _ _ _ _ _ => [rd]
  | .draw rd _ _ => [rd]
  | .exq rd _ _ _ _ => [rd]
  | .excurve rd _ _ _ _ _ => [rd]
  | .plq rd _ _ _ => [rd]
  | .xlpin rd _ _ _ _ => [rd]
  | .xlunpin rd _ _ => [rd]
  | .pclass rd _ _ _ => [rd]
  | .rangeq rd _ _ => [rd]
  | .regsw rd _ _ _ => [rd]
  | .pload rd _ _ _ => [rd]
  | .replay rd _ _ _ => [rd]
  | .migrate rd _ _ _ => [rd]
  | .shoot rd _ _ _ _ => [rd]
  | .compose rd _ => [rd]
  | .release rd => [rd]
  | .cstat rd _ => [rd]
  | .crr rd _ => [rd]
  | .crw rd _ _ => [rd]
  | .crs rd _ _ => [rd]
  | .crc rd _ _ => [rd]
  | .trap _ => [4]
  | .eret => []
  | .brk _ => []
  | .nop => []
  | .synci _ _ => []
  | .carve rd _ => [rd]
  | .capmint rd _ => [rd]
  | .wfi rd => [rd]
  | .cLw rd _ _ => [rd]
  | .cLd rd _ _ => [rd]
  | .cSw _ _ _ => []
  | .cSd _ _ _ => []
  | .cBeqz _ _ => []
  | .cBnez _ _ => []
  | .cJ _ => []
  | .cJr rs1 => [rs1]
  | .cMv rd _ => [rd]
  | .cAdd rd _ => [rd]
  | .cSub rd _ => [rd]
  | .cAnd rd _ => [rd]
  | .cOr rd _ => [rd]
  | .cXor rd _ => [rd]
  | .cAddi rd _ => [rd]
  | .cLi rd _ => [rd]
  | .cSlli rd _ => [rd]
  | .cSrli rd _ => [rd]
  | .cSrai rd _ => [rd]
  | .cNop => []
  | .cDone => []
  | .reservedEncoding _ _ => []
  | .fetchFromAddressZero => []
  | .instructionFetchFault _ _ => []
  | .slotSelection _ _ => []
  | .chunkCommit _ _ => []
  | .faultBatchWrite _ _ => []
  | .faultBatchService _ _ => []
  | .syscallService _ _ => []
  | .logFull _ => []
  | .messageArrival _ _ => []
  | .messageResend _ _ => []
  | .messageDispatch _ => []
  | .launch _ => []
  | .abort _ => []
  | .preempt _ => []
  | .preemptResume _ => []
  | .query _ => []
  | .badopRequest _ _ => []
  | .map _ => []
  | .unmap _ => []
  | .populate _ => []
  | .window _ => []
  | .ranges _ => []
  | .faultans _ => []
  | .ownerCreate _ _ => []
  | .ownerRetire _ => []
  | .partitionReady _ => []
  | .seamjoin _ => []
  | .attestationRequest _ => []
  | .rdmaWrite _ _ _ => []
  | .rdmaRead _ _ _ => []
  | .kernelPlacement _ _ => []
  | .priorityPreemption _ _ => []
  | .gangPreemption _ _ => []
  | .kernelResume _ _ => []
  | .transferStart _ _ => []
  | .transferChunkLanding _ _ _ => []
  | .transferCancellation _ _ => []
  | .mzeroExecute _ _ => []
  | .mbldExecute _ _ => []
  | .mmulExecute _ _ => []
  | .mdrainExecute _ _ => []
  | .remoteMatrixCommand _ _ => []
  | .collectiveComplete _ _ _ => []
  | .collectiveTimeout _ _ => []
  | .bwaitTimeout _ _ => []
  | .sleepTimeout _ _ => []
  | .wfiTimeout _ _ => []
  | .xwaitTimeout _ _ => []
  | .carrywTimeout _ _ => []
  | .leaseExpiry _ _ => []
  | .remotePackedStore _ => []
  | .arbitrationRound _ _ => []
  | .gets _ _ => []
  | .getm _ _ => []
  | .upgrade _ _ => []
  | .puts _ _ => []
  | .putm _ _ => []
  | .atomic _ _ => []
  | .write _ _ => []
  | .dirEvict _ => []
  | .recallLine _ => []
  | .flush _ => []
  | .reclassify _ => []
  | .fwdtagConsume _ _ => []
  | .inv _ _ => []
  | .fwdS _ _ => []
  | .fwdM _ _ => []
  | .update _ _ => []
  | .dieRecall _ _ => []
  | .ack _ _ => []
  | .data _ _ => []
  | .seamIntervalExpiry _ => []
  | .seamCommit _ => []
  | .uncorrectableError _ => []
  | .rollback _ => []
  | .directoryEntryError _ _ => []
  | .patrolScrub _ => []
  | .refreshManagement _ _ => []
  | .coreSparing _ => []
  | .sliceSparing _ _ => []
  | .pseudoChannelSparing _ => []
  | .lysaUpdate _ _ => []
  | .partnerDetected _ => []
  | .linkTrained _ _ => []
  | .linkFault _ _ => []
  | .rtlimitExpiry _ => []
  | .linkRepair _ => []
  | .uePortFault _ => []
  | .dataFlit _ _ => []
  | .ackFlit _ _ => []
  | .nakFlit _ _ => []
  | .trainingFlit _ _ => []
  | .flitResendLimit _ => []
  | .carryArrival _ => []
  | .carryResend _ _ => []
  | .carryAcknowledgement _ _ _ => []
  | .powerOn => []
  | .railFault _ => []
  | .powerLimit => []
  | .powerRecovery => []
  | .thermalThrottle _ => []
  | .thermalRecovery _ => []
  | .thermalTrip _ => []
  | .watchdogExpiry _ => []
  | .wdogKick _ _ => []
  | .plbFlush _ => []
  | .bmReset => []
  | .bypass => []
  | .idcode => []
  | .samplePreload _ => []
  | .extest _ => []
  | .partnerLost _ => []
  | .idleFlit _ _ => []

/-- The handle registers an instruction names. -/
def instrHandles : Instr → List HReg
  | .lb _ _ _ _ _ => []
  | .lh _ _ _ _ _ => []
  | .lw _ _ _ _ _ => []
  | .ld _ _ _ _ _ => []
  | .lbu _ _ _ _ _ => []
  | .lhu _ _ _ _ _ => []
  | .lwu _ _ _ _ _ => []
  | .sb _ _ _ => []
  | .sh _ _ _ => []
  | .sw _ _ _ => []
  | .sd _ _ _ => []
  | .swRel _ _ _ => []
  | .sdRel _ _ _ => []
  | .sdFwd _ _ _ => []
  | .addi _ _ _ => []
  | .slli _ _ _ => []
  | .slti _ _ _ => []
  | .sltiu _ _ _ => []
  | .xori _ _ _ => []
  | .srli _ _ _ => []
  | .srai _ _ _ => []
  | .ori _ _ _ => []
  | .andi _ _ _ => []
  | .add _ _ _ => []
  | .sub _ _ _ => []
  | .sll _ _ _ => []
  | .slt _ _ _ => []
  | .sltu _ _ _ => []
  | .xor _ _ _ => []
  | .srl _ _ _ => []
  | .sra _ _ _ => []
  | .or _ _ _ => []
  | .and _ _ _ => []
  | .min _ _ _ => []
  | .max _ _ _ => []
  | .minu _ _ _ => []
  | .maxu _ _ _ => []
  | .mul _ _ _ => []
  | .mulh _ _ _ => []
  | .mulhu _ _ _ => []
  | .clz _ _ => []
  | .ctz _ _ => []
  | .popc _ _ => []
  | .brev _ _ => []
  | .seq _ _ _ => []
  | .sne _ _ _ => []
  | .addw _ _ _ => []
  | .subw _ _ _ => []
  | .lui _ _ => []
  | .auipc _ _ => []
  | .beq _ _ _ => []
  | .bne _ _ _ => []
  | .blt _ _ _ => []
  | .bge _ _ _ => []
  | .bltu _ _ _ => []
  | .bgeu _ _ _ => []
  | .jal _ _ => []
  | .jalr _ _ _ => []
  | .div _ _ _ _ _ => []
  | .divu _ _ _ _ _ => []
  | .rem _ _ _ _ _ => []
  | .remu _ _ _ _ _ => []
  | .fadd _ _ _ _ _ => []
  | .fsub _ _ _ _ _ => []
  | .fmul _ _ _ _ _ => []
  | .fmin _ _ _ _ => []
  | .fmax _ _ _ _ => []
  | .fsgnj _ _ _ _ _ => []
  | .feq _ _ _ _ => []
  | .flt _ _ _ _ => []
  | .fle _ _ _ _ => []
  | .fclass _ _ _ => []
  | .fcvtFI _ _ _ _ _ _ => []
  | .fcvtIF _ _ _ _ _ _ => []
  | .fcvtFF _ _ _ _ => []
  | .fmac _ _ _ _ _ => []
  | .fdiv _ _ _ _ _ _ => []
  | .fsqrt _ _ _ _ _ => []
  | .amoAdd _ _ _ _ _ _ => []
  | .amoAnd _ _ _ _ _ _ => []
  | .amoOr _ _ _ _ _ _ => []
  | .amoXor _ _ _ _ _ _ => []
  | .amoMin _ _ _ _ _ _ => []
  | .amoMax _ _ _ _ _ _ => []
  | .amoMinu _ _ _ _ _ _ => []
  | .amoMaxu _ _ _ _ _ _ => []
  | .amoSwap _ _ _ _ _ _ => []
  | .amoCas _ _ _ _ _ _ => []
  | .amoFadd _ _ _ _ _ => []
  | .fence _ _ => []
  | .fenceX _ _ _ => []
  | .chunk => []
  | .seam _ => []
  | .watch _ _ => []
  | .sleep _ _ => []
  | .unwatch _ => []
  | .hld hd _ _ => [hd]
  | .hst hd _ _ => [hd]
  | .hset hd _ _ => [hd]
  | .hget hd _ _ => [hd]
  | .hmov hd hk => [hd, hk]
  | .hadv hd _ _ => [hd]
  | .hzero hd => [hd]
  | .rep _ _ _ _ _ => []
  | .vadd hd ha hb _ _ => [hd, ha, hb]
  | .vsub hd ha hb _ _ => [hd, ha, hb]
  | .vmul hd ha hb _ _ => [hd, ha, hb]
  | .vfma hd ha hb hc _ _ => [hd, ha, hb, hc]
  | .vmin hd ha hb _ _ => [hd, ha, hb]
  | .vmax hd ha hb _ _ => [hd, ha, hb]
  | .vabs hd ha _ _ => [hd, ha]
  | .vneg hd ha _ _ => [hd, ha]
  | .vand hd ha hb _ => [hd, ha, hb]
  | .vor hd ha hb _ => [hd, ha, hb]
  | .vxor hd ha hb _ => [hd, ha, hb]
  | .vshl hd ha hb _ => [hd, ha, hb]
  | .vshr hd ha hb _ => [hd, ha, hb]
  | .vsra hd ha hb _ => [hd, ha, hb]
  | .vsel hd ha hb hc _ => [hd, ha, hb, hc]
  | .vcmpeq hd ha hb _ => [hd, ha, hb]
  | .vcmplt hd ha hb _ => [hd, ha, hb]
  | .vcmple hd ha hb _ => [hd, ha, hb]
  | .vset hd ha _ _ => [hd, ha]
  | .vcopy hd ha _ => [hd, ha]
  | .vrcp hd ha _ _ => [hd, ha]
  | .vrsq hd ha _ _ => [hd, ha]
  | .vsqrt hd ha _ _ => [hd, ha]
  | .vdiv hd ha hb _ _ => [hd, ha, hb]
  | .vexp2 hd ha _ _ => [hd, ha]
  | .vlog2 hd ha _ _ => [hd, ha]
  | .vtanh hd ha _ _ => [hd, ha]
  | .vsigm hd ha _ _ => [hd, ha]
  | .vsinpi hd ha _ _ => [hd, ha]
  | .vcospi hd ha _ _ => [hd, ha]
  | .vcvt hd ha _ _ => [hd, ha]
  | .vqsplit hd ha hb hc _ => [hd, ha, hb, hc]
  | .vscale hd ha hb _ _ => [hd, ha, hb]
  | .viota hd ha hb _ _ => [hd, ha, hb]
  | .vredRowAdd hd ha _ _ => [hd, ha]
  | .vredRowMax hd ha _ => [hd, ha]
  | .vredRowMin hd ha _ => [hd, ha]
  | .vredColAdd hd ha _ _ => [hd, ha]
  | .vredColMax hd ha _ => [hd, ha]
  | .vredColMin hd ha _ => [hd, ha]
  | .vscanRowAdd hd ha _ _ _ => [hd, ha]
  | .vscanRowAff hd ha hb hc _ _ => [hd, ha, hb, hc]
  | .vscanColAdd hd ha _ _ _ => [hd, ha]
  | .vscanColAff hd ha hb hc _ _ => [hd, ha, hb, hc]
  | .vscanRowMax hd ha _ _ => [hd, ha]
  | .vgather hd ha hb _ => [hd, ha, hb]
  | .vscatter hd ha hb _ => [hd, ha, hb]
  | .vtrn hd ha _ => [hd, ha]
  | .vbcastRow hd ha _ => [hd, ha]
  | .vbcastCol hd ha _ => [hd, ha]
  | .vpack hd ha hb _ => [hd, ha, hb]
  | .vunpack hd ha hb _ => [hd, ha, hb]
  | .mctx ha hb _ => [ha, hb]
  | .mbld hd ha _ => [hd, ha]
  | .mmul hd ha hb hc _ _ _ => [hd, ha, hb, hc]
  | .mdrain hd ha _ _ => [hd, ha]
  | .mzero hd _ => [hd]
  | .mwait => []
  | .mrem hd ha hb hc _ => [hd, ha, hb, hc]
  | .gscanAdd hd ha _ _ _ => [hd, ha]
  | .gscanAff hd ha hb _ _ _ => [hd, ha, hb]
  | .gscanMax hd ha _ _ => [hd, ha]
  | .gredAdd hd ha _ _ => [hd, ha]
  | .gredMax hd ha _ => [hd, ha]
  | .gbcast hd ha hb _ => [hd, ha, hb]
  | .gsync => []
  | .xset _ _ _ => []
  | .xgo _ _ => []
  | .xwait _ _ _ _ _ => []
  | .xtest _ _ _ => []
  | .xcancel _ _ _ => []
  | .xstat _ _ _ _ => []
  | .binit _ _ _ _ => []
  | .barrive _ _ _ _ => []
  | .bexpect _ _ _ _ => []
  | .bwait _ _ _ _ => []
  | .btry _ _ _ _ => []
  | .barriveExp _ _ _ _ => []
  | .send _ _ _ _ => []
  | .sendm _ _ _ _ => []
  | .spawn _ _ _ _ => []
  | .done => []
  | .qstat _ _ _ => []
  | .carry _ _ _ _ => []
  | .carryw _ _ _ _ => []
  | .yield _ => []
  | .reseed _ _ _ _ _ _ => []
  | .draw _ _ _ => []
  | .exq _ _ _ _ _ => []
  | .excurve _ _ _ _ _ _ => []
  | .plq _ _ _ _ => []
  | .xlpin _ _ _ _ _ => []
  | .xlunpin _ _ _ => []
  | .pclass _ _ _ _ => []
  | .rangeq _ _ _ => []
  | .regsw _ _ _ _ => []
  | .pload _ _ _ _ => []
  | .replay _ _ _ _ => []
  | .migrate _ _ _ _ => []
  | .shoot _ _ _ _ _ => []
  | .compose _ _ => []
  | .release _ => []
  | .cstat _ _ => []
  | .crr _ _ => []
  | .crw _ _ _ => []
  | .crs _ _ _ => []
  | .crc _ _ _ => []
  | .trap _ => []
  | .eret => []
  | .brk _ => []
  | .nop => []
  | .synci _ _ => []
  | .carve _ _ => []
  | .capmint _ _ => []
  | .wfi _ => []
  | .cLw _ _ _ => []
  | .cLd _ _ _ => []
  | .cSw _ _ _ => []
  | .cSd _ _ _ => []
  | .cBeqz _ _ => []
  | .cBnez _ _ => []
  | .cJ _ => []
  | .cJr _ => []
  | .cMv _ _ => []
  | .cAdd _ _ => []
  | .cSub _ _ => []
  | .cAnd _ _ => []
  | .cOr _ _ => []
  | .cXor _ _ => []
  | .cAddi _ _ => []
  | .cLi _ _ => []
  | .cSlli _ _ => []
  | .cSrli _ _ => []
  | .cSrai _ _ => []
  | .cNop => []
  | .cDone => []
  | .reservedEncoding _ _ => []
  | .fetchFromAddressZero => []
  | .instructionFetchFault _ _ => []
  | .slotSelection _ _ => []
  | .chunkCommit _ _ => []
  | .faultBatchWrite _ _ => []
  | .faultBatchService _ _ => []
  | .syscallService _ _ => []
  | .logFull _ => []
  | .messageArrival _ _ => []
  | .messageResend _ _ => []
  | .messageDispatch _ => []
  | .launch _ => []
  | .abort _ => []
  | .preempt _ => []
  | .preemptResume _ => []
  | .query _ => []
  | .badopRequest _ _ => []
  | .map _ => []
  | .unmap _ => []
  | .populate _ => []
  | .window _ => []
  | .ranges _ => []
  | .faultans _ => []
  | .ownerCreate _ _ => []
  | .ownerRetire _ => []
  | .partitionReady _ => []
  | .seamjoin _ => []
  | .attestationRequest _ => []
  | .rdmaWrite _ _ _ => []
  | .rdmaRead _ _ _ => []
  | .kernelPlacement _ _ => []
  | .priorityPreemption _ _ => []
  | .gangPreemption _ _ => []
  | .kernelResume _ _ => []
  | .transferStart _ _ => []
  | .transferChunkLanding _ _ _ => []
  | .transferCancellation _ _ => []
  | .mzeroExecute _ _ => []
  | .mbldExecute _ _ => []
  | .mmulExecute _ _ => []
  | .mdrainExecute _ _ => []
  | .remoteMatrixCommand _ _ => []
  | .collectiveComplete _ _ _ => []
  | .collectiveTimeout _ _ => []
  | .bwaitTimeout _ _ => []
  | .sleepTimeout _ _ => []
  | .wfiTimeout _ _ => []
  | .xwaitTimeout _ _ => []
  | .carrywTimeout _ _ => []
  | .leaseExpiry _ _ => []
  | .remotePackedStore _ => []
  | .arbitrationRound _ _ => []
  | .gets _ _ => []
  | .getm _ _ => []
  | .upgrade _ _ => []
  | .puts _ _ => []
  | .putm _ _ => []
  | .atomic _ _ => []
  | .write _ _ => []
  | .dirEvict _ => []
  | .recallLine _ => []
  | .flush _ => []
  | .reclassify _ => []
  | .fwdtagConsume _ _ => []
  | .inv _ _ => []
  | .fwdS _ _ => []
  | .fwdM _ _ => []
  | .update _ _ => []
  | .dieRecall _ _ => []
  | .ack _ _ => []
  | .data _ _ => []
  | .seamIntervalExpiry _ => []
  | .seamCommit _ => []
  | .uncorrectableError _ => []
  | .rollback _ => []
  | .directoryEntryError _ _ => []
  | .patrolScrub _ => []
  | .refreshManagement _ _ => []
  | .coreSparing _ => []
  | .sliceSparing _ _ => []
  | .pseudoChannelSparing _ => []
  | .lysaUpdate _ _ => []
  | .partnerDetected _ => []
  | .linkTrained _ _ => []
  | .linkFault _ _ => []
  | .rtlimitExpiry _ => []
  | .linkRepair _ => []
  | .uePortFault _ => []
  | .dataFlit _ _ => []
  | .ackFlit _ _ => []
  | .nakFlit _ _ => []
  | .trainingFlit _ _ => []
  | .flitResendLimit _ => []
  | .carryArrival _ => []
  | .carryResend _ _ => []
  | .carryAcknowledgement _ _ _ => []
  | .powerOn => []
  | .railFault _ => []
  | .powerLimit => []
  | .powerRecovery => []
  | .thermalThrottle _ => []
  | .thermalRecovery _ => []
  | .thermalTrip _ => []
  | .watchdogExpiry _ => []
  | .wdogKick _ _ => []
  | .plbFlush _ => []
  | .bmReset => []
  | .bypass => []
  | .idcode => []
  | .samplePreload _ => []
  | .extest _ => []
  | .partnerLost _ => []
  | .idleFlit _ _ => []

/-- The instruction with its register fields renamed (05 R126). -/
def renameInstr (f : Reg → Reg) (g : HReg → HReg) : Instr → Instr
  | .lb rd rs1 imm la acq => .lb (f rd) (f rs1) imm la acq
  | .lh rd rs1 imm la acq => .lh (f rd) (f rs1) imm la acq
  | .lw rd rs1 imm la acq => .lw (f rd) (f rs1) imm la acq
  | .ld rd rs1 imm la acq => .ld (f rd) (f rs1) imm la acq
  | .lbu rd rs1 imm la acq => .lbu (f rd) (f rs1) imm la acq
  | .lhu rd rs1 imm la acq => .lhu (f rd) (f rs1) imm la acq
  | .lwu rd rs1 imm la acq => .lwu (f rd) (f rs1) imm la acq
  | .sb rs1 rs2 imm => .sb (f rs1) (f rs2) imm
  | .sh rs1 rs2 imm => .sh (f rs1) (f rs2) imm
  | .sw rs1 rs2 imm => .sw (f rs1) (f rs2) imm
  | .sd rs1 rs2 imm => .sd (f rs1) (f rs2) imm
  | .swRel rs1 rs2 imm => .swRel (f rs1) (f rs2) imm
  | .sdRel rs1 rs2 imm => .sdRel (f rs1) (f rs2) imm
  | .sdFwd rs1 rs2 imm => .sdFwd (f rs1) (f rs2) imm
  | .addi rd rs1 imm => .addi (f rd) (f rs1) imm
  | .slli rd rs1 shamt => .slli (f rd) (f rs1) shamt
  | .slti rd rs1 imm => .slti (f rd) (f rs1) imm
  | .sltiu rd rs1 imm => .sltiu (f rd) (f rs1) imm
  | .xori rd rs1 imm => .xori (f rd) (f rs1) imm
  | .srli rd rs1 shamt => .srli (f rd) (f rs1) shamt
  | .srai rd rs1 shamt => .srai (f rd) (f rs1) shamt
  | .ori rd rs1 imm => .ori (f rd) (f rs1) imm
  | .andi rd rs1 imm => .andi (f rd) (f rs1) imm
  | .add rd rs1 rs2 => .add (f rd) (f rs1) (f rs2)
  | .sub rd rs1 rs2 => .sub (f rd) (f rs1) (f rs2)
  | .sll rd rs1 rs2 => .sll (f rd) (f rs1) (f rs2)
  | .slt rd rs1 rs2 => .slt (f rd) (f rs1) (f rs2)
  | .sltu rd rs1 rs2 => .sltu (f rd) (f rs1) (f rs2)
  | .xor rd rs1 rs2 => .xor (f rd) (f rs1) (f rs2)
  | .srl rd rs1 rs2 => .srl (f rd) (f rs1) (f rs2)
  | .sra rd rs1 rs2 => .sra (f rd) (f rs1) (f rs2)
  | .or rd rs1 rs2 => .or (f rd) (f rs1) (f rs2)
  | .and rd rs1 rs2 => .and (f rd) (f rs1) (f rs2)
  | .min rd rs1 rs2 => .min (f rd) (f rs1) (f rs2)
  | .max rd rs1 rs2 => .max (f rd) (f rs1) (f rs2)
  | .minu rd rs1 rs2 => .minu (f rd) (f rs1) (f rs2)
  | .maxu rd rs1 rs2 => .maxu (f rd) (f rs1) (f rs2)
  | .mul rd rs1 rs2 => .mul (f rd) (f rs1) (f rs2)
  | .mulh rd rs1 rs2 => .mulh (f rd) (f rs1) (f rs2)
  | .mulhu rd rs1 rs2 => .mulhu (f rd) (f rs1) (f rs2)
  | .clz rd rs1 => .clz (f rd) (f rs1)
  | .ctz rd rs1 => .ctz (f rd) (f rs1)
  | .popc rd rs1 => .popc (f rd) (f rs1)
  | .brev rd rs1 => .brev (f rd) (f rs1)
  | .seq rd rs1 rs2 => .seq (f rd) (f rs1) (f rs2)
  | .sne rd rs1 rs2 => .sne (f rd) (f rs1) (f rs2)
  | .addw rd rs1 rs2 => .addw (f rd) (f rs1) (f rs2)
  | .subw rd rs1 rs2 => .subw (f rd) (f rs1) (f rs2)
  | .lui rd imm => .lui (f rd) imm
  | .auipc rd imm => .auipc (f rd) imm
  | .beq rs1 rs2 imm => .beq (f rs1) (f rs2) imm
  | .bne rs1 rs2 imm => .bne (f rs1) (f rs2) imm
  | .blt rs1 rs2 imm => .blt (f rs1) (f rs2) imm
  | .bge rs1 rs2 imm => .bge (f rs1) (f rs2) imm
  | .bltu rs1 rs2 imm => .bltu (f rs1) (f rs2) imm
  | .bgeu rs1 rs2 imm => .bgeu (f rs1) (f rs2) imm
  | .jal rd imm => .jal (f rd) imm
  | .jalr rd rs1 imm => .jalr (f rd) (f rs1) imm
  | .div rd rs1 rs2 w32 la => .div (f rd) (f rs1) (f rs2) w32 la
  | .divu rd rs1 rs2 w32 la => .divu (f rd) (f rs1) (f rs2) w32 la
  | .rem rd rs1 rs2 w32 la => .rem (f rd) (f rs1) (f rs2) w32 la
  | .remu rd rs1 rs2 w32 la => .remu (f rd) (f rs1) (f rs2) w32 la
  | .fadd rd rs1 rs2 rm fmt => .fadd (f rd) (f rs1) (f rs2) rm fmt
  | .fsub rd rs1 rs2 rm fmt => .fsub (f rd) (f rs1) (f rs2) rm fmt
  | .fmul rd rs1 rs2 rm fmt => .fmul (f rd) (f rs1) (f rs2) rm fmt
  | .fmin rd rs1 rs2 fmt => .fmin (f rd) (f rs1) (f rs2) fmt
  | .fmax rd rs1 rs2 fmt => .fmax (f rd) (f rs1) (f rs2) fmt
  | .fsgnj rd rs1 rs2 j fmt => .fsgnj (f rd) (f rs1) (f rs2) j fmt
  | .feq rd rs1 rs2 fmt => .feq (f rd) (f rs1) (f rs2) fmt
  | .flt rd rs1 rs2 fmt => .flt (f rd) (f rs1) (f rs2) fmt
  | .fle rd rs1 rs2 fmt => .fle (f rd) (f rs1) (f rs2) fmt
  | .fclass rd rs1 fmt => .fclass (f rd) (f rs1) fmt
  | .fcvtFI rd rs1 w32 uns rm fmt => .fcvtFI (f rd) (f rs1) w32 uns rm fmt
  | .fcvtIF rd rs1 w32 uns rm fmt => .fcvtIF (f rd) (f rs1) w32 uns rm fmt
  | .fcvtFF rd rs1 rm fmt => .fcvtFF (f rd) (f rs1) rm fmt
  | .fmac rd rs1 rs2 rm fmt => .fmac (f rd) (f rs1) (f rs2) rm fmt
  | .fdiv rd rs1 rs2 rm dbl la => .fdiv (f rd) (f rs1) (f rs2) rm dbl la
  | .fsqrt rd rs1 rm dbl la => .fsqrt (f rd) (f rs1) rm dbl la
  | .amoAdd rd rs1 rs2 ord dbl la => .amoAdd (f rd) (f rs1) (f rs2) ord dbl la
  | .amoAnd rd rs1 rs2 ord dbl la => .amoAnd (f rd) (f rs1) (f rs2) ord dbl la
  | .amoOr rd rs1 rs2 ord dbl la => .amoOr (f rd) (f rs1) (f rs2) ord dbl la
  | .amoXor rd rs1 rs2 ord dbl la => .amoXor (f rd) (f rs1) (f rs2) ord dbl la
  | .amoMin rd rs1 rs2 ord dbl la => .amoMin (f rd) (f rs1) (f rs2) ord dbl la
  | .amoMax rd rs1 rs2 ord dbl la => .amoMax (f rd) (f rs1) (f rs2) ord dbl la
  | .amoMinu rd rs1 rs2 ord dbl la => .amoMinu (f rd) (f rs1) (f rs2) ord dbl la
  | .amoMaxu rd rs1 rs2 ord dbl la => .amoMaxu (f rd) (f rs1) (f rs2) ord dbl la
  | .amoSwap rd rs1 rs2 ord dbl la => .amoSwap (f rd) (f rs1) (f rs2) ord dbl la
  | .amoCas rd rs1 rs2 ord dbl la => .amoCas (f rd) (f rs1) (f rs2) ord dbl la
  | .amoFadd rd rs1 rs2 ord la => .amoFadd (f rd) (f rs1) (f rs2) ord la
  | .fence kind scope => .fence kind scope
  | .fenceX link later earlier => .fenceX link later earlier
  | .chunk => .chunk
  | .seam rs1 => .seam (f rs1)
  | .watch rd rs1 => .watch (f rd) (f rs1)
  | .sleep rd rs1 => .sleep (f rd) (f rs1)
  | .unwatch rs1 => .unwatch (f rs1)
  | .hld hd rs1 imm => .hld (g hd) (f rs1) imm
  | .hst hd rs1 imm => .hst (g hd) (f rs1) imm
  | .hset hd rs2 fld => .hset (g hd) (f rs2) fld
  | .hget hd rs2 fld => .hget (g hd) (f rs2) fld
  | .hmov hd hk => .hmov (g hd) (g hk)
  | .hadv hd rs1 rs2 => .hadv (g hd) (f rs1) (f rs2)
  | .hzero hd => .hzero (g hd)
  | .rep rs1 len hstride sstride span => .rep (f rs1) len hstride sstride span
  | .vadd hd ha hb rm la => .vadd (g hd) (g ha) (g hb) rm la
  | .vsub hd ha hb rm la => .vsub (g hd) (g ha) (g hb) rm la
  | .vmul hd ha hb rm la => .vmul (g hd) (g ha) (g hb) rm la
  | .vfma hd ha hb hc rm la => .vfma (g hd) (g ha) (g hb) (g hc) rm la
  | .vmin hd ha hb rm la => .vmin (g hd) (g ha) (g hb) rm la
  | .vmax hd ha hb rm la => .vmax (g hd) (g ha) (g hb) rm la
  | .vabs hd ha rm la => .vabs (g hd) (g ha) rm la
  | .vneg hd ha rm la => .vneg (g hd) (g ha) rm la
  | .vand hd ha hb la => .vand (g hd) (g ha) (g hb) la
  | .vor hd ha hb la => .vor (g hd) (g ha) (g hb) la
  | .vxor hd ha hb la => .vxor (g hd) (g ha) (g hb) la
  | .vshl hd ha hb la => .vshl (g hd) (g ha) (g hb) la
  | .vshr hd ha hb la => .vshr (g hd) (g ha) (g hb) la
  | .vsra hd ha hb la => .vsra (g hd) (g ha) (g hb) la
  | .vsel hd ha hb hc la => .vsel (g hd) (g ha) (g hb) (g hc) la
  | .vcmpeq hd ha hb la => .vcmpeq (g hd) (g ha) (g hb) la
  | .vcmplt hd ha hb la => .vcmplt (g hd) (g ha) (g hb) la
  | .vcmple hd ha hb la => .vcmple (g hd) (g ha) (g hb) la
  | .vset hd ha rm la => .vset (g hd) (g ha) rm la
  | .vcopy hd ha la => .vcopy (g hd) (g ha) la
  | .vrcp hd ha rm la => .vrcp (g hd) (g ha) rm la
  | .vrsq hd ha rm la => .vrsq (g hd) (g ha) rm la
  | .vsqrt hd ha rm la => .vsqrt (g hd) (g ha) rm la
  | .vdiv hd ha hb rm la => .vdiv (g hd) (g ha) (g hb) rm la
  | .vexp2 hd ha rm la => .vexp2 (g hd) (g ha) rm la
  | .vlog2 hd ha rm la => .vlog2 (g hd) (g ha) rm la
  | .vtanh hd ha rm la => .vtanh (g hd) (g ha) rm la
  | .vsigm hd ha rm la => .vsigm (g hd) (g ha) rm la
  | .vsinpi hd ha rm la => .vsinpi (g hd) (g ha) rm la
  | .vcospi hd ha rm la => .vcospi (g hd) (g ha) rm la
  | .vcvt hd ha rm la => .vcvt (g hd) (g ha) rm la
  | .vqsplit hd ha hb hc rm => .vqsplit (g hd) (g ha) (g hb) (g hc) rm
  | .vscale hd ha hb rm la => .vscale (g hd) (g ha) (g hb) rm la
  | .viota hd ha hb rm la => .viota (g hd) (g ha) (g hb) rm la
  | .vredRowAdd hd ha rm la => .vredRowAdd (g hd) (g ha) rm la
  | .vredRowMax hd ha la => .vredRowMax (g hd) (g ha) la
  | .vredRowMin hd ha la => .vredRowMin (g hd) (g ha) la
  | .vredColAdd hd ha rm la => .vredColAdd (g hd) (g ha) rm la
  | .vredColMax hd ha la => .vredColMax (g hd) (g ha) la
  | .vredColMin hd ha la => .vredColMin (g hd) (g ha) la
  | .vscanRowAdd hd ha rm excl la => .vscanRowAdd (g hd) (g ha) rm excl la
  | .vscanRowAff hd ha hb hc rm excl => .vscanRowAff (g hd) (g ha) (g hb) (g hc) rm excl
  | .vscanColAdd hd ha rm excl la => .vscanColAdd (g hd) (g ha) rm excl la
  | .vscanColAff hd ha hb hc rm excl => .vscanColAff (g hd) (g ha) (g hb) (g hc) rm excl
  | .vscanRowMax hd ha excl la => .vscanRowMax (g hd) (g ha) excl la
  | .vgather hd ha hb la => .vgather (g hd) (g ha) (g hb) la
  | .vscatter hd ha hb la => .vscatter (g hd) (g ha) (g hb) la
  | .vtrn hd ha la => .vtrn (g hd) (g ha) la
  | .vbcastRow hd ha la => .vbcastRow (g hd) (g ha) la
  | .vbcastCol hd ha la => .vbcastCol (g hd) (g ha) la
  | .vpack hd ha hb la => .vpack (g hd) (g ha) (g hb) la
  | .vunpack hd ha hb la => .vunpack (g hd) (g ha) (g hb) la
  | .mctx ha hb rm => .mctx (g ha) (g hb) rm
  | .mbld hd ha la => .mbld (g hd) (g ha) la
  | .mmul hd ha hb hc last first la => .mmul (g hd) (g ha) (g hb) (g hc) last first la
  | .mdrain hd ha rel la => .mdrain (g hd) (g ha) rel la
  | .mzero hd la => .mzero (g hd) la
  | .mwait => .mwait
  | .mrem hd ha hb hc kind => .mrem (g hd) (g ha) (g hb) (g hc) kind
  | .gscanAdd hd ha rm excl la => .gscanAdd (g hd) (g ha) rm excl la
  | .gscanAff hd ha hb rm excl la => .gscanAff (g hd) (g ha) (g hb) rm excl la
  | .gscanMax hd ha excl la => .gscanMax (g hd) (g ha) excl la
  | .gredAdd hd ha rm la => .gredAdd (g hd) (g ha) rm la
  | .gredMax hd ha la => .gredMax (g hd) (g ha) la
  | .gbcast hd ha hb la => .gbcast (g hd) (g ha) (g hb) la
  | .gsync => .gsync
  | .xset rs1 fld la => .xset (f rs1) fld la
  | .xgo rd la => .xgo (f rd) la
  | .xwait rd rs1 rs2 word la => .xwait (f rd) (f rs1) (f rs2) word la
  | .xtest rd rs1 la => .xtest (f rd) (f rs1) la
  | .xcancel rd rs1 la => .xcancel (f rd) (f rs1) la
  | .xstat rd rs1 sel la => .xstat (f rd) (f rs1) sel la
  | .binit rd rs1 rs2 la => .binit (f rd) (f rs1) (f rs2) la
  | .barrive rd rs1 rs2 la => .barrive (f rd) (f rs1) (f rs2) la
  | .bexpect rd rs1 rs2 la => .bexpect (f rd) (f rs1) (f rs2) la
  | .bwait rd rs1 rs2 la => .bwait (f rd) (f rs1) (f rs2) la
  | .btry rd rs1 rs2 la => .btry (f rd) (f rs1) (f rs2) la
  | .barriveExp rd rs1 rs2 la => .barriveExp (f rd) (f rs1) (f rs2) la
  | .send rd rs1 rs2 la => .send (f rd) (f rs1) (f rs2) la
  | .sendm rd rs1 rs2 la => .sendm (f rd) (f rs1) (f rs2) la
  | .spawn rd rs1 rs2 la => .spawn (f rd) (f rs1) (f rs2) la
  | .done => .done
  | .qstat rd sel la => .qstat (f rd) sel la
  | .carry rd rs1 rs2 la => .carry (f rd) (f rs1) (f rs2) la
  | .carryw rd rs1 rs2 la => .carryw (f rd) (f rs1) (f rs2) la
  | .yield rd => .yield (f rd)
  | .reseed rd rs1 rs2 ownerForm remap la => .reseed (f rd) (f rs1) (f rs2) ownerForm remap la
  | .draw rd rs1 la => .draw (f rd) (f rs1) la
  | .exq rd rs1 align cur la => .exq (f rd) (f rs1) align cur la
  | .excurve rd rs1 rs2 align cur la => .excurve (f rd) (f rs1) (f rs2) align cur la
  | .plq rd rs1 sel la => .plq (f rd) (f rs1) sel la
  | .xlpin rd rs1 rs2 pinData la => .xlpin (f rd) (f rs1) (f rs2) pinData la
  | .xlunpin rd rs1 la => .xlunpin (f rd) (f rs1) la
  | .pclass rd rs1 sel la => .pclass (f rd) (f rs1) sel la
  | .rangeq rd rs1 la => .rangeq (f rd) (f rs1) la
  | .regsw rd rs1 rs2 la => .regsw (f rd) (f rs1) (f rs2) la
  | .pload rd rs1 rs2 la => .pload (f rd) (f rs1) (f rs2) la
  | .replay rd rs1 rs2 la => .replay (f rd) (f rs1) (f rs2) la
  | .migrate rd rs1 rs2 la => .migrate (f rd) (f rs1) (f rs2) la
  | .shoot rd rs1 rs2 doFlush la => .shoot (f rd) (f rs1) (f rs2) doFlush la
  | .compose rd n => .compose (f rd) n
  | .release rd => .release (f rd)
  | .cstat rd la => .cstat (f rd) la
  | .crr rd cr => .crr (f rd) cr
  | .crw rd rs1 cr => .crw (f rd) (f rs1) cr
  | .crs rd rs1 cr => .crs (f rd) (f rs1) cr
  | .crc rd rs1 cr => .crc (f rd) (f rs1) cr
  | .trap rs1 => .trap (f rs1)
  | .eret => .eret
  | .brk code => .brk code
  | .nop => .nop
  | .synci rs1 rs2 => .synci (f rs1) (f rs2)
  | .carve rd rs1 => .carve (f rd) (f rs1)
  | .capmint rd rs1 => .capmint (f rd) (f rs1)
  | .wfi rd => .wfi (f rd)
  | .cLw rd rs1 n => .cLw (f rd) (f rs1) n
  | .cLd rd rs1 n => .cLd (f rd) (f rs1) n
  | .cSw rs1 rs2 n => .cSw (f rs1) (f rs2) n
  | .cSd rs1 rs2 n => .cSd (f rs1) (f rs2) n
  | .cBeqz rs1 imm => .cBeqz (f rs1) imm
  | .cBnez rs1 imm => .cBnez (f rs1) imm
  | .cJ imm => .cJ imm
  | .cJr rs1 => .cJr (f rs1)
  | .cMv rd rs1 => .cMv (f rd) (f rs1)
  | .cAdd rd rs1 => .cAdd (f rd) (f rs1)
  | .cSub rd rs1 => .cSub (f rd) (f rs1)
  | .cAnd rd rs1 => .cAnd (f rd) (f rs1)
  | .cOr rd rs1 => .cOr (f rd) (f rs1)
  | .cXor rd rs1 => .cXor (f rd) (f rs1)
  | .cAddi rd imm => .cAddi (f rd) imm
  | .cLi rd imm => .cLi (f rd) imm
  | .cSlli rd shamt => .cSlli (f rd) shamt
  | .cSrli rd shamt => .cSrli (f rd) shamt
  | .cSrai rd shamt => .cSrai (f rd) shamt
  | .cNop => .cNop
  | .cDone => .cDone
  | .reservedEncoding bits short => .reservedEncoding bits short
  | .fetchFromAddressZero => .fetchFromAddressZero
  | .instructionFetchFault cause va => .instructionFetchFault cause va
  | .slotSelection core slot => .slotSelection core slot
  | .chunkCommit core slot => .chunkCommit core slot
  | .faultBatchWrite owner batch => .faultBatchWrite owner batch
  | .faultBatchService owner batch => .faultBatchService owner batch
  | .syscallService core slot => .syscallService core slot
  | .logFull domain => .logFull domain
  | .messageArrival src dst => .messageArrival src dst
  | .messageResend core entry => .messageResend core entry
  | .messageDispatch core => .messageDispatch core
  | .launch r => .launch r
  | .abort r => .abort r
  | .preempt r => .preempt r
  | .preemptResume r => .preemptResume r
  | .query r => .query r
  | .badopRequest r admin => .badopRequest r admin
  | .map r => .map r
  | .unmap r => .unmap r
  | .populate r => .populate r
  | .window r => .window r
  | .ranges r => .ranges r
  | .faultans r => .faultans r
  | .ownerCreate r ownerRecord => .ownerCreate r ownerRecord
  | .ownerRetire r => .ownerRetire r
  | .partitionReady owner => .partitionReady owner
  | .seamjoin r => .seamjoin r
  | .attestationRequest r => .attestationRequest r
  | .rdmaWrite packet va bytes => .rdmaWrite packet va bytes
  | .rdmaRead packet va n => .rdmaRead packet va n
  | .kernelPlacement owner knum => .kernelPlacement owner knum
  | .priorityPreemption owner knum => .priorityPreemption owner knum
  | .gangPreemption owner knum => .gangPreemption owner knum
  | .kernelResume owner knum => .kernelResume owner knum
  | .transferStart core tid => .transferStart core tid
  | .transferChunkLanding core tid chunk => .transferChunkLanding core tid chunk
  | .transferCancellation core tid => .transferCancellation core tid
  | .mzeroExecute unit core => .mzeroExecute unit core
  | .mbldExecute unit core => .mbldExecute unit core
  | .mmulExecute unit core => .mmulExecute unit core
  | .mdrainExecute unit core => .mdrainExecute unit core
  | .remoteMatrixCommand unit core => .remoteMatrixCommand unit core
  | .collectiveComplete owner knum group => .collectiveComplete owner knum group
  | .collectiveTimeout core slot => .collectiveTimeout core slot
  | .bwaitTimeout core slot => .bwaitTimeout core slot
  | .sleepTimeout core slot => .sleepTimeout core slot
  | .wfiTimeout core slot => .wfiTimeout core slot
  | .xwaitTimeout core slot => .xwaitTimeout core slot
  | .carrywTimeout core slot => .carrywTimeout core slot
  | .leaseExpiry core line => .leaseExpiry core line
  | .remotePackedStore core => .remotePackedStore core
  | .arbitrationRound cls arbiter => .arbitrationRound cls arbiter
  | .gets core line => .gets core line
  | .getm core line => .getm core line
  | .upgrade core line => .upgrade core line
  | .puts core line => .puts core line
  | .putm core line => .putm core line
  | .atomic core line => .atomic core line
  | .write core line => .write core line
  | .dirEvict line => .dirEvict line
  | .recallLine line => .recallLine line
  | .flush line => .flush line
  | .reclassify access => .reclassify access
  | .fwdtagConsume core line => .fwdtagConsume core line
  | .inv die line => .inv die line
  | .fwdS die line => .fwdS die line
  | .fwdM die line => .fwdM die line
  | .update die line => .update die line
  | .dieRecall die line => .dieRecall die line
  | .ack die line => .ack die line
  | .data die line => .data die line
  | .seamIntervalExpiry domain => .seamIntervalExpiry domain
  | .seamCommit part => .seamCommit part
  | .uncorrectableError what => .uncorrectableError what
  | .rollback domain => .rollback domain
  | .directoryEntryError line recallError => .directoryEntryError line recallError
  | .patrolScrub loc => .patrolScrub loc
  | .refreshManagement stack bank => .refreshManagement stack bank
  | .coreSparing core => .coreSparing core
  | .sliceSparing die slice => .sliceSparing die slice
  | .pseudoChannelSparing pc => .pseudoChannelSparing pc
  | .lysaUpdate image version => .lysaUpdate image version
  | .partnerDetected port => .partnerDetected port
  | .linkTrained port lanes => .linkTrained port lanes
  | .linkFault port physical => .linkFault port physical
  | .rtlimitExpiry port => .rtlimitExpiry port
  | .linkRepair port => .linkRepair port
  | .uePortFault port => .uePortFault port
  | .dataFlit port flit => .dataFlit port flit
  | .ackFlit port flit => .ackFlit port flit
  | .nakFlit port flit => .nakFlit port flit
  | .trainingFlit port flit => .trainingFlit port flit
  | .flitResendLimit port => .flitResendLimit port
  | .carryArrival packet => .carryArrival packet
  | .carryResend core entry => .carryResend core entry
  | .carryAcknowledgement core entry reply => .carryAcknowledgement core entry reply
  | .powerOn => .powerOn
  | .railFault rail => .railFault rail
  | .powerLimit => .powerLimit
  | .powerRecovery => .powerRecovery
  | .thermalThrottle temp => .thermalThrottle temp
  | .thermalRecovery temp => .thermalRecovery temp
  | .thermalTrip temp => .thermalTrip temp
  | .watchdogExpiry die => .watchdogExpiry die
  | .wdogKick core value => .wdogKick core value
  | .plbFlush core => .plbFlush core
  | .bmReset => .bmReset
  | .bypass => .bypass
  | .idcode => .idcode
  | .samplePreload cells => .samplePreload cells
  | .extest cells => .extest cells
  | .partnerLost port => .partnerLost port
  | .idleFlit port flit => .idleFlit port flit

end Sys2Proof.Machine
end

