-- ==== Sys2Proof/Machine/Ops.lean ====
section
/-!
DEFINITION. Sys2Proof/Machine/Ops.lean: the operations every meaning shares: retiring an instruction, branching, taking an
exception and returning from one (06 R144 to R147, R153), waiting, and running ahead of a page fault (22 R386).
-/

namespace Sys2Proof.Machine

/-! ### Running ahead of a page fault (22 R386, R387) -/

/-- The handle registers an instruction of the HANDLE major writes. -/
def handleDests : Instr → List HReg
  | .hld hd _ _ => [hd]
  | .hset hd _ _ => [hd]
  | .hmov hd _ => [hd]
  | .hadv hd _ _ => [hd]
  | .hzero hd => [hd]
  | _ => []

/-- What a record says of the page it names: H and malformed flags, and whether the page is POISONED (22 R387). -/
def State.faultFlags (s : State) (va kind : Nat) : Nat × Nat :=
  match s.walk va with
  | some l => ((if l.h then 2 else 0), if l.cls = clsPoisoned then 7 else kind)
  | none => ((if s.malformed va then 8 else 0), kind)

/-- A fault record of the executing context: whether it is the batch's FIRST, and whether it is collected in runahead (22 R387). -/
def State.faultRecord (s : State) (va kind : Nat) (first ahead : Bool) : FaultRecord :=
  let (fl, k) := s.faultFlags va kind
  { va := va, kind := k, flags := fl + (if first then 4 else 0)
    who := s.cur.1 + 512 * s.cur.2 + (if ahead then 32768 else 0)
    knum := s.ctx.knum, aux := (s.die (dieOf s.cur.1)).gct }

/-- Mark what an instruction would write as invalid (22 R386). -/
def Runahead.poison (i : Instr) (ra : Runahead) : Runahead :=
  { ra with badRegs := instrDests i ++ ra.badRegs, badHandles := handleDests i ++ ra.badHandles }

/-- Does a record of a run ahead name the page of an address (22 R386)? -/
def State.recorded (s : State) (ra : Runahead) (va : Nat) : Bool := ra.records.any fun r => s.pageAt r.va == s.pageAt va

/-- Start a batch of an owner (22 R387): ids count from 1 and skip 0. -/
def State.addBatch (s : State) (owner core : Nat) (records : List FaultRecord) (ctxs transfers : List (Nat × Nat)) : State × Nat :=
  let id := (getT 0 s.batchIds owner + 1) % 2 ^ 32
  let id := if id = 0 then 1 else id
  ({ s with
      batchIds := setT 0 s.batchIds owner id
      batches := s.batches ++ [{ owner := owner, id := id, core := core, records := records, ctxs := ctxs
                                 transfers := transfers, written := false, counted := false, forwarded := false, ended := false }] }, id)

/-- Runahead ends: the registers return to the checkpoint, the batch is made, and the context parks on it (22 R386). -/
def State.endRunahead (s : State) : State :=
  match s.ctx.runahead with
  | none => s
  | some ra =>
    let n := ra.records.length
    let recs := ra.records.zipIdx.map fun (r, i) => if i + 1 = n then { r with flags := r.flags + 1 } else r
    let (s, id) := s.addBatch s.ctx.owner s.cur.1 recs [s.cur] []
    { s with ctx := { s.ctx with
        life := .parked, wait := { kind := .faultBatch, a := id }, arch := ra.checkpoint
        chunk := freshChunk s.myCore.k ra.checkpoint, runahead := none } }

/-! ### Retiring an instruction -/

/-- The pc after an instruction of `len` bytes. Inside a repetition the last body instruction starts the next pass or ends
the repetition (05 R127, 06 R140). -/
def Arch.next (a : Arch) (len : Nat) : Arch :=
  let seq := { a with pc := a.pc + BitVec.ofNat 64 len }
  if a.inRep && a.repAct then
    match a.body.getLast? with
    | some l =>
      if l.addr = a.pc.toNat then
        if a.repCnt.toNat ≤ 1 then { seq with status := putBits a.status 8 1 0, repCnt := 0, inRep := false, body := [] }
        else { a with pc := a.repBase, repCnt := a.repCnt - 1, status := putBits a.status 23 3 (bitsOf a.status 23 3 + 1) }
      else seq
    | none => seq
  else seq

/-- Every open lookahead window has one instruction fewer to go (02 R44). -/
def Arch.tickWindows (a : Arch) : Arch :=
  { a with windows := (a.windows.map fun w => { w with left := w.left - 1 }).filter fun w => 0 < w.left }

/-- Count an executed instruction in the chunk; the MAXINS-th ends it (09 R196), and ends a run ahead (22 R386). -/
def State.countIns (s : State) : State :=
  let s := s.mapChunk fun c => { c with ins := c.ins + 1 }
  if s.ctx.chunk.maxIns ≤ s.ctx.chunk.ins then
    (if s.ahead then s.endRunahead else if s.canCommit then s.commitCur else s.mapChunk fun c => { c with full := true })
  else s

/-- Is the executing context's cloak BOUND (15 R284)? -/
def State.isBound (s : State) : Bool := s.ctx.cloak.state == .bound

/-- An instruction of a BOUND cloak belongs to a block, which begins with it if none is in progress, and ends with it at a taken
branch or after 16 instructions (15 R287). -/
def Arch.blockStep (a : Arch) (bound ends : Bool) : Arch :=
  if !bound then a
  else { a with
    cloakBlocks := if a.cloakIns = 0 then a.cloakBlocks + 1 else a.cloakBlocks
    cloakIns := if ends ∨ 15 ≤ a.cloakIns then 0 else a.cloakIns + 1 }

/-- A cloak is released: its members are free again (15 R292, R293). -/
def Context.uncloak (c : Context) (lost : Bool) : Context :=
  if c.cloak.state = .bound then { c with cloak := { state := .unbound, members := [], lost := lost }, arch := { c.arch with cloakIns := 0 } } else c

/-- The state after the executing instruction, of `len` bytes, has completed. -/
def State.retired (s : State) (len : Nat) : State :=
  (s.mapArch fun a => ((a.next len).tickWindows).blockStep s.isBound false).countIns

/-- The instruction completes and the next one in order follows. -/
def retire (len : Nat) : M Unit := modify (·.retired len)

/-- A window of `la` instructions opens after the windows that are open. -/
def Arch.openWindow (a : Arch) (addr : Nat) (la : BitVec 4) (dest : Dest) : Arch :=
  if la = 0 then a else { a with windows := a.windows ++ [{ addr := addr, dest := dest, left := la.toNat }] }

/-- The state after a long-latency instruction has completed: its window of `la` instructions opens (02 R43, R44), unless the chunk ends with
it (R47). -/
def State.retiredLong (s : State) (len : Nat) (la : BitVec 4) (dest : Dest) : State :=
  (s.mapArch fun a => (((a.next len).tickWindows).openWindow s.ctx.arch.pc.toNat la dest).blockStep s.isBound false).countIns

/-- A long-latency instruction completes. -/
def retireLong (len : Nat) (la : BitVec 4) (dest : Dest) : M Unit := modify (·.retiredLong len la dest)

/-- A long-latency instruction at `addr` that is a chunk of its own ends with that chunk (09 R213): its window of `la` instructions lies in the
next one (02 R44), and is open where a squash of that one goes back to. -/
def State.endedAlone (s : State) (addr : Nat) (la : BitVec 4) (dest : Dest) : State := ((s.commitCur).mapArch (·.openWindow addr la dest)).rebase

/-- A long-latency instruction that handed work over completes: a later squash does not undo it. -/
def retireHanded (len : Nat) (la : BitVec 4) (dest : Dest) : M Unit := do
  retireLong len la dest
  modify (·.rebase)

/-- An instruction that ended the chunk and acted outside it completes: a later squash goes back to the next instruction. -/
def retireDone (len : Nat) : M Unit := do
  retire len
  modify (·.rebase)

/-- The state after a taken branch or jump to t. -/
def State.jumped (s : State) (t : Word) : State :=
  (s.mapArch fun a => ({ a with pc := t }.tickWindows).blockStep s.isBound true).countIns

/-- Continue at t, which must lie in the 56-bit space: else PAGEFAULT at the branch itself (02 R23). -/
def jumpTo (t : Word) : M Unit := do
  if 2 ^ 56 ≤ t.toNat then raise causePageFault t.toNat
  modify (·.jumped t)

/-! ### Taking an exception (06 R144 to R147) -/

/-- Write CR_EPC, CR_CAUSE, CR_TVAL and PDONE (06 R145, R146). -/
def Arch.recordTrap (a : Arch) (cause : Nat) (tval : Word) (pdone : Bool) : Arch :=
  { a with
    epc := putBits a.pc 0 1 0
    cause := BitVec.ofNat 64 cause
    tval := tval
    status := putBits a.status 5 1 (if pdone then 1 else 0)
    windows := [] }

/-- Delegated entry: INH is set, the repetition fields are kept, privilege stays user (06 R145). -/
def Arch.enterDelegated (a : Arch) (tvec : Word) : Arch :=
  { a with status := putBits a.status 4 1 1, pc := tvec, inRep := false }

/-- Entry at supervisor or machine level: PPRV := PRV, the level stays (06 R146). -/
def Arch.enterPrivileged (a : Arch) (tvec : Word) : Arch :=
  { a with status := putBits a.status 2 2 a.prv, pc := tvec, inRep := false }

/-- Is this cause delegated for the executing context (06 R143, R145)? -/
def State.delegates (s : State) (cause : Nat) : Bool :=
  bitsOf s.myCore.k.tdeleg cause 1 == 1 && cause != causePageFault && cause != causePriv && cause != causeSyscall
    && !s.ctx.arch.inh

/-- A further page fault in runahead: a record for a page not yet in the batch; the destination is invalid. The 32nd page
ends the run (22 R386). -/
def State.aheadFault (s : State) (i : Instr) (va kind : Nat) : State :=
  match s.ctx.runahead with
  | none => s
  | some ra =>
    if 2 ^ 56 ≤ va then s.endRunahead
    else
      let ra := if s.recorded ra va then ra else { ra with records := ra.records ++ [s.faultRecord va kind false true] }
      let s := ({ s with ctx := { s.ctx with runahead := some (ra.poison i) } } : State)
      if 32 ≤ ra.records.length then s.endRunahead
      else (s.mapArch fun a => (a.next i.len).tickWindows).countIns

/-- Does an instruction end a run ahead whatever its operands: a branch or jump whose operand is invalid, and what ends a chunk (22 R386, 09 R196)? -/
def endsRun : Instr → Bool
  | .beq .. | .bne .. | .blt .. | .bge .. | .bltu .. | .bgeu .. | .jal .. | .jalr .. | .cBeqz .. | .cBnez .. | .cJ .. | .cJr .. | .rep .. => true
  | .seam .. | .watch .. | .sleep .. | .xgo .. | .xwait .. | .xcancel .. => true
  | .mctx .. | .mbld .. | .mmul .. | .mdrain .. | .mzero .. | .mrem .. => true
  | .gscanAdd .. | .gscanAff .. | .gscanMax .. | .gredAdd .. | .gredMax .. | .gbcast .. => true
  | .binit .. | .barrive .. | .bexpect .. | .bwait .. | .barriveExp .. | .send .. | .sendm .. | .spawn .. | .carry .. | .carryw .. => true
  | .reseed .. | .xlpin .. | .xlunpin .. | .pclass .. | .rangeq .. | .regsw .. | .pload .. | .replay .. | .migrate .. | .shoot .. => true
  | .trap .. | .synci .. | .carve .. | .capmint .. => true
  | _ => false

/-- An instruction with an invalid operand in runahead: its results are invalid, or it ends the run. -/
def State.aheadInvalid (s : State) (i : Instr) : State :=
  if endsRun i then s.endRunahead
  else
    let s := ({ s with ctx := { s.ctx with runahead := s.ctx.runahead.map (·.poison i) } } : State)
    (s.mapArch fun a => (a.next i.len).tickWindows).countIns

/-- Enter runahead at the faulting instruction: a checkpoint, the first record, the further pages of an XLPIN, which are recorded before
runahead begins, and the instruction's results invalid. A fault
on the fetch itself ends the run at once (22 R386). -/
def State.enterRunahead (s : State) (i : Instr) (va kind : Nat) (more : List Nat) : State :=
  let first := s.faultRecord va kind true false
  let rest := (more.take 31).map fun v => s.faultRecord v kind false false
  let ra : Runahead := { checkpoint := s.ctx.arch, badRegs := [], badHandles := [], records := first :: rest }
  let s := ({ s with ctx := { s.ctx with life := .runahead, runahead := some (ra.poison i) } } : State)
  if kind = 2 ∨ 32 ≤ ra.records.length then s.endRunahead
  else (s.mapArch fun a => (a.next i.len).tickWindows).countIns

/-- Waits of instructions that have ended the chunk before they wait (09 R196, R440). -/
def WaitKind.afterEnd : WaitKind → Bool
  | .bwait | .sleep | .xwait | .xcancel | .wfi | .carryw | .seam | .transferPlace | .replayEntry | .collective | .matrix | .remoteCommand
  | .fence | .rangeSwitch | .reseed | .pageBlock => true
  | _ => false

/-- Instructions that end the chunk and then access memory, where they may wait again (09 R196). -/
def endsFirst : Instr → Bool
  | .send .. | .sendm .. | .spawn .. | .carry .. | .carryw .. | .xgo .. | .xwait .. | .binit .. | .barrive .. | .bexpect .. | .barriveExp ..
  | .bwait .. | .gscanAdd .. | .gscanAff .. | .gscanMax .. | .gredAdd .. | .gredMax .. | .gbcast .. | .gsync => true
  | .reseed .. | .shoot .. | .migrate .. => true
  | _ => false

/-- Block the executing context: it stays at its instruction (06 R130). The chunk it has ended has committed. In runahead an instruction that would wait ends the run.
An access to a line that another domain wrote in its open interval gives that domain a seam trigger (23 R406). One that a home blocks takes its place in the order
of arrival there (10 R239, 22 R390). A
locked chunk commits before it waits (09 R440), once the leases on its lines have run out (10 R237). -/
def State.block (s : State) (w : Wait) : State :=
  if s.ahead then s.endRunahead
  else if w.kind ≠ .commit ∧ s.ctx.chunk.locked ∧ s.leaseBlocks then
    { s.mapChunk (fun c => { c with full := true }) with ctx := { s.ctx with
        chunk := { s.ctx.chunk with full := true }, life := .waiting, wait := { kind := .commit } } }
  else
    let s := if w.kind = .foreignDomain then s.trigger w.a 0 else s
    let ended := w.kind.afterEnd || (w.ins.map endsFirst).getD false
    let s := if w.kind ≠ .commit ∧ (s.ctx.chunk.locked ∨ (ended ∧ s.canCommit)) then s.commitCur else s
    if w.kind = .homeBlock then { s with ctx := { s.ctx with life := .waiting, wait := { w with a := s.fresh } }, fresh := s.fresh + 1 }
    else { s with ctx := { s.ctx with life := .waiting, wait := w } }

/-- The state a meaning ends with. -/
def nextOf (s : State) : Host.Outcome State Fault Refusal → State
  | .next t => t
  | _ => s

/-- Work on another context's slot as if it were executing. -/
def State.inSlot (s : State) (core slot : Nat) (f : State → State) : State :=
  let old := s.cur
  (f (s.switchTo core slot)).switchTo old.1 old.2

/-- A context that is no longer blocked in a BWAIT leaves the object's WAITERS; `a` of its wait is where the object lies (19 R374). -/
def State.leaveBarrier (s : State) (core slot : Nat) : State :=
  let c := s.ctxAt core slot
  if c.life = .waiting ∧ c.wait.kind = .bwait then
    s.foreignWrite (s.seamOf c.owner c.knum) c.owner (c.wait.a + 12) (c.wait.b / 16) (leBytes 2 (s.natAt (c.wait.a + 12) 2 - 1))
  else s

/-- No window is open in a saved context: every long-latency instruction has completed or not issued (02 R47). -/
def Context.closeWindows (c : Context) : Context :=
  { c with arch := { c.arch with windows := [] }, chunk := { c.chunk with start := { c.chunk.start with windows := [] } } }

/-- Stop a context at a chunk boundary (06 R149): a locked chunk commits, any other is squashed back to its start, runahead
ends, and the context parks in its store. -/
def State.suspendCtx (s : State) (core slot : Nat) : State :=
  let s := s.leaveBarrier core slot
  let c := s.ctxAt core slot
  match c.life with
  | .free | .retired | .faulted => s
  | .runahead => s.inSlot core slot fun s =>
      let s := s.endRunahead
      { s with ctx := { s.ctx with preempted := true } }
  | .parked | .spilled => s.setCtxAt core slot { c with preempted := true }
  | _ =>
    let s := if c.chunk.locked then s.inSlot core slot State.commitCur
      else if c.chunk.isEmpty then s.inSlot core slot State.commitCur
      else s.squashAt core slot
    s.mapCtxAt core slot fun d => { (d.closeWindows).uncloak true with life := .parked, preempted := true, wait := if c.wait.kind = .commit ∨ !c.chunk.isEmpty then {} else c.wait }

/-- The slot of a link write whose thread has retired. -/
def noSlot : Nat := 64

/-- The link writes of a thread that retires go on without it. -/
def State.orphanWrites (s : State) (core slot : Nat) : State :=
  { s with links := { s.links with writes := s.links.writes.map fun w => if w.core = core ∧ w.slot = slot then { w with slot := noSlot } else w } }

/-- The contexts of a kernel. -/
def State.ctxsOf (s : State) (owner knum : Nat) : List (Nat × Nat × Context) :=
  s.allCtxs.filter fun (_, _, c) => c.life != .free && c.owner == owner && c.knum == knum

def State.suspendCtxs (s : State) (owner knum : Nat) : State :=
  (s.ctxsOf owner knum).foldl (fun s (core, slot, _) => s.suspendCtx core slot) s

/-- Every context of the kernel is retired and its slot freed (07 R168). -/
def State.retireCtxs (s : State) (owner knum : Nat) : State :=
  (s.ctxsOf owner knum).foldl (fun s (core, slot, _) =>
    (((s.leaveBarrier core slot).setCtxAt core slot Context.free).orphanWrites core slot).mapCore core fun k => { k with watches := k.watches.filter (·.slot != slot) }) s

/-- A receive queue is CLOSED while its kernel is stopped, and accepts again when it resumes (08 R174). -/
def Core.closeQueue (c : Core) (closed : Bool) : Core :=
  { c with queueMode := match c.queueMode with
      | .drained => .drained
      | _ => if closed then .closed else .active }

/-- Every context of a kernel stops and its queues close (06 R149, 07 R164, 08 R174). -/
def State.stopKernel (s : State) (k : Kernel) (st : KernelState) : State :=
  let s := k.held.foldl (fun s c => s.mapCore c (·.closeQueue true)) (s.suspendCtxs k.owner k.knum)
  s.putKernel { k with state := st, groups := k.groups.map fun g => { g with state := .suspended } }

/-- A kernel stops as a fault domain (07 R163, R164). -/
def State.faultDomainStop (s : State) (k : Kernel) : State := s.stopKernel k .faulted

/-- The accumulation slots that some cores hold become FREE (17 R334). -/
def State.freeSlots (s : State) (cores : List Nat) : State :=
  { s with clusters := s.clusters.map fun (n, u) => (n, { u with
      acc := u.acc.map fun a => if cores.contains a.holder && a.state != .free then { state := .free, holder := 0, m := 0, k := 0 } else a }) }

/-- A kernel is aborted with a completion status: its contexts retire, its copies and matrix commands finish, and it then ends
ABORTED (07 R163, R168). Slots that it held as it was spilled, on cores that no kernel has taken since, are given up. -/
def State.abortKernel (s : State) (k : Kernel) (status : Nat) : State :=
  let s := s.freeSlots ((k.spill.cores.map (·.1)).filter fun c => (s.core c).knum == 0)
  (s.retireCtxs k.owner k.knum).putKernel { k with state := .draining, aborting := true, status := status, spill := {} }

/-- The nodes strictly between a kernel's own node and the nearest ancestor that bounds a fault domain, and that ancestor. -/
def faultBound : List ChainNode → List Nat × Option Nat
  | [] => ([], none)
  | n :: rest =>
    if n.faultDom then ([], some n.addr)
    else let (b, a) := faultBound rest; (n.addr :: b, a)

/-- A thread of the kernel has reached FAULTED (07 R163): the kernel stops, or its fault domain is aborted up to the bound. -/
def State.kernelFaulted (s : State) (owner knum : Nat) : State :=
  match s.kernel? owner knum with
  | none => s
  | some k =>
    if k.state ≠ .running then s
    else match k.chain with
      | [] => s.faultDomainStop k
      | self :: up =>
        if self.faultDom then s.faultDomainStop k
        else
          let (between, bound) := faultBound up
          let s := s.abortKernel k stFaulted
          let s := (s.allKernels.filter (fun j => j.owner == owner && j.state == .running && between.contains j.node)).foldl
            (fun s j => s.abortKernel j stAborted) s
          (s.allKernels.filter (fun j => j.owner == owner && j.state == .running && bound == some j.node)).foldl
            (fun s j => s.faultDomainStop j) s

/-- A non-delegated trap sends the context to lysa in FAULTED, and the event is recorded (06 R146). -/
def State.goFaulted (s : State) : State :=
  let c := s.ctx
  let s := { s with ctx := { s.ctx with life := .faulted, wait := {}, runahead := none } }
  s.recordEvent c.owner c.knum
    { cause := c.arch.cause.toNat, etype := 0, eflags := 0, core := s.cur.1, group := c.group
      rank := if c.handling.isSome then 0xFFFFFFFF else c.rank, port := 0, pc := c.arch.epc.toNat, value := c.arch.tval.toNat }

/-- Lysa acts on a kernel one of whose contexts has reached FAULTED (07 R163). Until it does, the other contexts run on, and may fault
too (06 R146). -/
def State.serveFaulted (s : State) (owner knum : Nat) : State :=
  if (s.ctxsOf owner knum).any (fun (_, _, c) => c.life == .faulted) then s.kernelFaulted owner knum else s

/-- Enter a trap of the executing context (06 R144 to R147) whose chunk may commit. The chunk of the older instructions commits first; the
saved registers are written; then the trap is delegated, taken at the same privileged level, or handed to lysa. `pdone` marks the causes whose
instruction has completed. A page fault that a mapping could serve runs ahead; SYSCALL parks. Entry is one step: the next chunk starts after
it. -/
def State.takeTrap (s : State) (i : Instr) (cause : Nat) (tval : Word) (pdone : Bool) (kind : Nat) (more : List Nat) : State :=
  let s := s.commitCur
  let s := s.mapArch fun a => (a.blockStep s.isBound true).recordTrap cause tval pdone
  if s.prv ≠ 0 then (s.mapArch fun a => a.enterPrivileged s.myCore.k.tvec).rebase
  else if s.delegates cause then (s.mapArch fun a => a.enterDelegated s.myCore.k.tvec).rebase
  else
    let s := ({ s with ctx := s.ctx.uncloak true } : State).rebase
    if cause = causePageFault ∧ tval.toNat < 2 ^ 56 then s.enterRunahead i tval.toNat kind more
    else if cause = causeSyscall then { s with ctx := { s.ctx with life := .parked, wait := { kind := .syscall } } }
    else s.goFaulted

/-- Take a trap of the executing context; the instruction is executed again where the chunk before it may not commit yet. -/
def State.trap (s : State) (i : Instr) (cause : Nat) (tval : Word) (pdone : Bool) (kind : Nat) (more : List Nat) : State :=
  if s.canCommit then s.takeTrap i cause tval pdone kind more else s.block { kind := .commit }

/-- How a meaning ends: its new state, or what its stop does to the executing context. In runahead no trap but PAGEFAULT is
taken (22 R386). -/
def complete (i : Instr) (m : M Unit) (s : State) : Host.Outcome State Fault Refusal :=
  match m s with
  | .ok (_, t) => .next t
  | .error (.trap cause tval kind) =>
    .next (if s.ahead then (if cause = causePageFault then s.aheadFault i tval.toNat kind else s.endRunahead)
      else s.trap i cause tval false kind [])
  | .error (.wait w) => .next (s.block { w with ins := some i })
  | .error .invalid => .next (s.aheadInvalid i)

/-- An instruction that completes and then traps with PDONE = 1: FPX, BREAK, SYSCALL (06 R144, R147, R152). `m` is its effect,
which does not advance the pc; the chunk ends with it. -/
def State.trapDone (s : State) (i : Instr) (cause : Nat) (tval : Word) : State :=
  if s.ahead then s.endRunahead else s.trap i cause tval true 0 []

/-- An instruction that has raised an enabled flag ends its chunk, whose commit takes FPX at it with PDONE = 1 (06 R147). A chunk that may not
commit yet keeps the instruction's effect and the exception. -/
def State.fpxDone (s : State) (i : Instr) (elem : Nat) : State :=
  let s := s.mapChunk fun c => { c with ins := c.ins + 1 }
  if s.ahead ∨ s.canCommit then s.trapDone i causeFpx (BitVec.ofNat 64 elem)
  else (s.mapChunk fun c => { c with full := true, fpx := some (BitVec.ofNat 64 elem) }).block { kind := .commit }

/-- A chunk that has ended commits, and the exception it holds is taken (06 R147). -/
def State.endFull (s : State) : State :=
  match s.ctx.chunk.fpx with
  | some v => s.takeTrap .nop causeFpx v true 0 []
  | none => s.commitCur

/-! ### What a FENCE.X holds (09 R203, R217) -/

/-- Is every transfer, matrix command and link write that a condition names done? -/
def State.conditionMet (s : State) (core : Nat) (c : Condition) : Bool :=
  !(s.core core).transfers.any (fun t => t.live && c.transfers.contains t.tid)
    && !s.clusters.any (fun p => p.2.queue.any fun q => c.commands.contains q.id)
    && !s.links.writes.any (fun w => c.writes.contains w.id)

/-- Does a condition of the executing thread still hold what `pick` names? -/
def State.held (s : State) (pick : Condition → Bool) : Bool :=
  s.ctx.conditions.any fun c => pick c && !s.conditionMet s.coreId c

def State.port (s : State) (p : Nat) : Port := getT Port.reset s.links.ports p

/-- Has a link write been handed to its port and not been acknowledged (24 R420, R422)? -/
def CarryState.carried : CarryState → Bool
  | .sent | .busy | .behind => true
  | .held | .lost => false

/-- Is an unacknowledged write lost, or its port DOWN or FAILED (09 R216)? -/
def State.writeLost (s : State) (w : LinkWrite) : Bool :=
  let st := (s.port w.port).state
  w.state == .lost || w.state.carried && (st == .down || st == .failed)

/-- The first port that is DOWN or FAILED under unacknowledged writes of a thread, and how many of its writes are
unacknowledged (09 R216). -/
def State.linkLost (s : State) (core slot : Nat) : Option (Nat × Nat) :=
  let mine := s.links.writes.filter fun w => w.core == core && w.slot == slot
  (mine.find? s.writeLost).map fun w => (w.port, mine.length)

/-- A condition without the link writes that are lost. -/
def State.dropLost (s : State) (c : Condition) : Condition :=
  { c with writes := c.writes.filter fun id => !s.links.writes.any fun w => w.id == id && s.writeLost w }

/-- A link fails after its FENCE.X has retired, and nothing but lost writes keeps a condition from holding: the port and count of the LINK_LOST that what it
holds then raises (09 R216, R217; DESIGN CHOICE, log 199). -/
def State.lostSince (s : State) (pick : Condition → Bool) : Option (Nat × Nat) :=
  if s.ctx.conditions.any fun c => pick c && !s.conditionMet s.coreId c && s.conditionMet s.coreId (s.dropLost c) then s.linkLost s.coreId s.cur.2 else none

/-- CR_TVAL of LINK_LOST: the port, and how many writes are unacknowledged (09 R216). -/
def linkLostValue (port n : Nat) : Nat := port % 128 + n * 2 ^ 32

/-- A hand-off to a path waits for the conditions that hold it. -/
def handOff (pick : Condition → Bool) : M Unit := fun s =>
  if s.held pick then match s.lostSince pick with
    | some (p, n) => raise causeLinkLost (linkLostValue p n) s
    | none => .error (.wait { kind := .fence })
  else .ok ((), s)

/-! ### Floating-point flags (04 R84, 02 R52, 06 R147) -/

/-- Raise flags in CR_FCSR. -/
def Arch.raiseFlags (a : Arch) (f : Flags) : Arch := { a with fcsr := a.fcsr ||| f.setWidth 64 }

/-- The flags whose trap is enabled. -/
def Arch.enabled (a : Arch) (f : Flags) : Flags := f &&& BitVec.ofNat 5 (bitsOf a.fcsr 8 5)

/-- An instruction whose flags include an enabled one takes FPX when its chunk commits; its chunk commits up to and including
it and the trap is taken with PDONE = 1 (06 R147). Taking it at the instruction's end leaves the same state as taking it at
the chunk's end: younger instructions are discarded there. -/
def completeFp (i : Instr) (m : M (Flags × Nat)) (len : Nat) (la : BitVec 4) (dest : Dest) (s : State) : Host.Outcome State Fault Refusal :=
  match m s with
  | .ok ((f, elem), t) =>
    let t := t.mapArch fun a => a.raiseFlags f
    if t.ctx.arch.enabled f = 0 ∨ t.ahead then
      match retireLong len la dest t with
      | .ok (_, u) => .next u
      | .error _ => .next t
    else .next (t.fpxDone i elem)
  | .error e => complete i (fun _ => .error e) s

/-! ### Returning from an exception (06 R153) -/

/-- Does an address begin one of the instructions of a body? -/
def inBody (body : List BodyIns) (t : Nat) : Bool := body.any (·.addr == t)

/-- The status after ERET: INH cleared at user level, PRV := PPRV above it; PDONE cleared. -/
def Arch.eretStatus (a : Arch) : Word :=
  let st := putBits a.status 5 1 0
  if a.prv = 0 then putBits st 4 1 0 else putBits st 0 2 (bitsOf a.status 2 2)

/-- Where ERET goes: CR_EPC, or 4 past it where the instruction had completed. -/
def Arch.eretTarget (a : Arch) : Word := if a.pdone then a.epc + 4 else a.epc

end Sys2Proof.Machine
end

