-- ==== Sys2Proof/Machine/Flags.lean ====
section
/-!
DEFINITION. Sys2Proof/Machine/Flags.lean: scalar operands of the FP and FPL majors, the rounding mode they take, the class
word, comparisons, minimum and maximum, and the flags each raises (05 R115 to R121, 04 R84, R85).
-/

namespace Sys2Proof.Machine

/-- The format of an FP instruction: 0 FP32, 1 FP64 (02 R34). -/
def fpSpec (dbl : Bool) : FloatSpec := if dbl then specFp64 else specFp32

/-- An operand: FP32 takes bits [31:0] of its register, FP64 all 64 (05 R115). -/
def fpBits (dbl : Bool) (w : Word) : Nat := if dbl then w.toNat else w.toNat % 2 ^ 32

def fpVal (dbl : Bool) (w : Word) : Val := (fpSpec dbl).value (fpBits dbl w)

/-- The sign bit of an operand as stored. -/
def fpSign (dbl : Bool) (w : Word) : Bool := fpBits dbl w / 2 ^ (fpSpec dbl).signBit % 2 == 1

/-- The static rounding mode, or CR_FCSR.FRM for code 7; FRM 5, 6 and 7 raise ILLEGAL in these majors (05 R116, 04 R84). -/
def fpMode (rm : BitVec 3) : M RMode := fun s =>
  let code := if rm = 7 then bitsOf s.ctx.arch.fcsr 5 3 else rm.toNat
  if 5 ≤ code then .error (.trap causeIllegal s.ir)
  else match RMode.ofCode code with
    | some m => .ok (m, s)
    | none => .error (.trap causeIllegal s.ir)

/-- Round into FP32 or FP64; an FP32 result is zero-extended (05 R115). -/
def fpDeliver (dbl : Bool) (mode : RMode) (x : Val × Flags) : Word × Flags :=
  let (b, f) := (fpSpec dbl).deliver mode 0 x.1
  (BitVec.ofNat 64 b, x.2 ||| f)

/-- FMIN and FMAX: one NaN gives the other operand, two give the canonical NaN; only NV is raised (05 R118). -/
def fpMinMax (dbl : Bool) (isMax : Bool) (a b : Word) : Word × Flags :=
  let x := fpVal dbl a
  let y := fpVal dbl b
  let nv := nvIf (x.isSignalling || y.isSignalling)
  let pick := if x.isNan && y.isNan then (fpSpec dbl).nan
    else if x.isNan then fpBits dbl b
    else if y.isNan then fpBits dbl a
    else if (if isMax then Val.before x y else Val.before y x) then fpBits dbl b else fpBits dbl a
  (BitVec.ofNat 64 pick, nv)

/-- FSGNJ: the magnitude of x with y's sign bit, its inverse, or the XOR of both; a NaN x gives the canonical NaN (05 R119). -/
def fpSignInject (dbl : Bool) (j : Nat) (a b : Word) : Word × Flags :=
  let x := fpVal dbl a
  let y := fpVal dbl b
  let sy := fpSign dbl b
  let sign := if j = 0 then sy else if j = 1 then !sy else fpSign dbl a != sy
  let mag := fpBits dbl a % 2 ^ (fpSpec dbl).signBit
  (BitVec.ofNat 64 (if x.isNan then (fpSpec dbl).nan else mag + (if sign then 2 ^ (fpSpec dbl).signBit else 0)),
    nvIf (x.isSignalling || y.isSignalling))

/-- x = y, x < y, x ≤ y; every comparison with a NaN is false. FEQ signals only for a signalling NaN (05 R119). -/
inductive Cmp where
  | eq | lt | le
  deriving DecidableEq, Repr

def cmpVals (c : Cmp) (x y : Val) : Bool × Flags :=
  if x.isNan || y.isNan then
    (false, match c with | .eq => nvIf (x.isSignalling || y.isSignalling) | _ => fNV)
  else
    let o := Val.cmp x y
    (match c with | .eq => o == 0 | .lt => o == -1 | .le => o != 1, 0)

def fpCompare (dbl : Bool) (c : Cmp) (a b : Word) : Word × Flags :=
  let (r, f) := cmpVals c (fpVal dbl a) (fpVal dbl b)
  ((if r then 1 else 0), f)

/-- Has a finite value no fraction? -/
def Val.isInteger : Val → Bool
  | .zero _ => true
  | .fin _ m e => decide (0 ≤ e) || (decide ((-e).toNat ≤ m.log2) && m % 2 ^ (-e).toNat == 0)
  | _ => false

/-- The class word of FCLASS: INT [8], SIGN [7], KIND [2:0] (05 R119). -/
def fpClass (dbl : Bool) (a : Word) : Word :=
  let f := fpSpec dbl
  let x := fpVal dbl a
  let kind := match x with
    | .zero _ => 0
    | .fin _ _ _ => if fpBits dbl a % 2 ^ f.signBit < 2 ^ f.frac then 1 else 2
    | .inf _ => 3
    | .nan s => if s then 5 else 4
  BitVec.ofNat 64 ((if x.isInteger then 256 else 0) + (if fpSign dbl a then 128 else 0) + kind)

/-- The integer operand of FCVT.F.I (05 R120). -/
def intOperand (w32 uns : Bool) (a : Word) : Int :=
  match w32, uns with
  | true, true => (a.toNat % 2 ^ 32 : Nat)
  | true, false => (a.setWidth 32).toInt
  | false, true => a.toNat
  | false, false => a.toInt

/-- FCVT.I.F: 32-bit signed results are sign-extended, unsigned ones zero-extended (05 R120). -/
def toIntReg (w32 uns : Bool) (mode : RMode) (x : Val) : Word × Flags :=
  let n := if w32 then 32 else 64
  let lo : Int := if uns then 0 else -(2 ^ (n - 1))
  let hi : Int := if uns then 2 ^ n - 1 else 2 ^ (n - 1) - 1
  let (v, f) := deliverInt lo hi n mode 0 x
  (if w32 && !uns then ((BitVec.ofNat 32 v).signExtend 64) else BitVec.ofNat 64 v, f)

end Sys2Proof.Machine
end

