-- ==== Sys2Proof/Machine/Scalar.lean ====
section
/-!
DEFINITION. Sys2Proof/Machine/Scalar.lean: integer arithmetic, division, branches and jumps, scalar loads and stores
(05 R101 to R114), and the 16-bit forms of them (02 R41, R42).
-/

namespace Sys2Proof.Machine

/-! ### What each member computes -/

/-- 1 or 0. -/
def flag (b : Bool) : Word := if b then 1 else 0

def clz64 (a : Word) : Word := if a = 0 then 64 else BitVec.ofNat 64 (63 - a.toNat.log2)

/-- Trailing zeros among the first n bits from bit k. -/
def ctzFrom (a : Nat) : (n k : Nat) → Nat
  | 0, k => k
  | n + 1, k => if a / 2 ^ k % 2 = 1 then k else ctzFrom a n (k + 1)

def ctz64 (a : Word) : Word := BitVec.ofNat 64 (ctzFrom a.toNat 64 0)

def popcN : (n v : Nat) → Nat
  | 0, _ => 0
  | n + 1, v => v % 2 + popcN n (v / 2)

def popc64 (a : Word) : Word := BitVec.ofNat 64 (popcN 64 a.toNat)

/-- Bit k of v moved to bit n - 1 - k. -/
def brevN : (n v acc : Nat) → Nat
  | 0, _, acc => acc
  | n + 1, v, acc => brevN n (v / 2) (2 * acc + v % 2)

def brev64 (a : Word) : Word := BitVec.ofNat 64 (brevN 64 a.toNat 0)

/-- The shift amount b[5:0] (05 R105). -/
def amount (b : Word) : Nat := b.toNat % 64

def sll64 (a : Word) (n : Nat) : Word := a <<< n
def srl64 (a : Word) (n : Nat) : Word := a >>> n
def sra64 (a : Word) (n : Nat) : Word := a.sshiftRight n

def mulh64 (a b : Word) : Word := BitVec.ofInt 64 (a.toInt * b.toInt / 2 ^ 64)
def mulhu64 (a b : Word) : Word := BitVec.ofNat 64 (a.toNat * b.toNat / 2 ^ 64)

/-- sext of the low 32 bits. -/
def sextW (a : Word) : Word := (a.setWidth 32).signExtend 64

/-- Divide of 05 R107 at width n, signed: quotient and remainder. -/
def divSigned (n : Nat) (a b : Int) : Int × Int :=
  if b = 0 then (2 ^ n - 1, a)
  else if a = -(2 ^ (n - 1)) ∧ b = -1 then (-(2 ^ (n - 1)), 0)
  else (a.tdiv b, a - a.tdiv b * b)

def divUnsigned (n a b : Nat) : Nat × Nat := if b = 0 then (2 ^ n - 1, a) else (a / b, a % b)

/-- The four members: DIV, DIVU, REM, REMU (05 R107); `.W` results are sign-extended from bit 31. -/
def divideSigned (rem w32 : Bool) (a b : Word) : Word :=
  if w32 then
    let (q, r) := divSigned 32 (a.setWidth 32).toInt (b.setWidth 32).toInt
    sextW (BitVec.ofInt 64 (if rem then r else q))
  else
    let (q, r) := divSigned 64 a.toInt b.toInt
    BitVec.ofInt 64 (if rem then r else q)

def divideUnsigned (rem w32 : Bool) (a b : Word) : Word :=
  if w32 then
    let (q, r) := divUnsigned 32 (a.toNat % 2 ^ 32) (b.toNat % 2 ^ 32)
    sextW (BitVec.ofNat 64 (if rem then r else q))
  else
    let (q, r) := divUnsigned 64 a.toNat b.toNat
    BitVec.ofNat 64 (if rem then r else q)

/-! ### The shared shapes -/

/-- rd := f(rs1), and on. -/
def unary (i : Instr) (rd rs1 : Reg) (f : Word → Word) (s : State) : Host.Outcome State Fault Refusal :=
  complete i (do
    let a ← rdReg rs1
    wrReg rd (f a)
    retire i.len) s

/-- rd := f(rs1, rs2), both read before the write (05 R101). -/
def binary (i : Instr) (rd rs1 rs2 : Reg) (f : Word → Word → Word) (s : State) : Host.Outcome State Fault Refusal :=
  complete i (do
    let a ← rdReg rs1
    let b ← rdReg rs2
    wrReg rd (f a b)
    retire i.len) s

/-- A long-latency rd := f(rs1, rs2). -/
def binaryLong (i : Instr) (rd rs1 rs2 : Reg) (la : BitVec 4) (f : Word → Word → Word) (s : State) : Host.Outcome State Fault Refusal :=
  complete i (do
    let a ← rdReg rs1
    let b ← rdReg rs2
    wrReg rd (f a b)
    retireLong i.len la (.reg rd)) s

/-- A conditional branch by `off` halfwords from its own address (05 R108). -/
def branch {n : Nat} (i : Instr) (rs1 rs2 : Reg) (off : BitVec n) (taken : Word → Word → Bool) (s : State) : Host.Outcome State Fault Refusal :=
  complete i (do
    let a ← rdReg rs1
    let b ← rdReg rs2
    if taken a b then jumpTo (halfwords (← get).ctx.arch.pc off) else retire i.len) s

/-- Write the address of the next instruction to rd and continue at t; a target outside the space traps with rd unchanged
(02 R33, 05 R109). -/
def link (i : Instr) (rd : Reg) (target : M Word) (s : State) : Host.Outcome State Fault Refusal :=
  complete i (do
    let t ← target
    let pc := (← get).ctx.arch.pc
    wrReg rd (pc + BitVec.ofNat 64 i.len)
    jumpTo t) s

/-- JALR's target: (s[rs1] + imm) with bit 0 cleared (02 R33). -/
def jalrTarget (a : Word) (imm : Word) : Word := putBits (a + imm) 0 1 0

/-- A scalar load: rd := extend of the n bytes at the address (05 R110). -/
def load (i : Instr) (rd rs1 : Reg) (la : BitVec 4) (n : Nat) (signedLoad : Bool) (ea : Word → Nat) (s : State) : Host.Outcome State Fault Refusal :=
  complete i (do
    let a ← rdReg rs1
    let v ← memRead (ea a) n
    wrReg rd (if signedLoad then BitVec.ofInt 64 (signed v (8 * n)) else BitVec.ofNat 64 v)
    retireLong i.len la (.reg rd)) s

/-- A scalar store of the low n bytes of rs2 (05 R112). -/
def store (i : Instr) (rs1 rs2 : Reg) (n : Nat) (ea : Word → Nat) (s : State) : Host.Outcome State Fault Refusal :=
  complete i (do
    let a ← rdReg rs1
    let v ← rdReg rs2
    reserveLines (← lineOf (ea a))
    memWrite (ea a) n v.toNat
    retire i.len) s

/-! ### Acquire and release (05 R111, R113, 09 R214)

Chunks commit in one order and every load reads at its place in it, so an acquire or a release adds nothing but for SWM lines: an acquire in an SWM
range drops the core's clean ones, and a release, wherever it lies, writes the dirty ones back (DEDUCED, log 95). -/

/-- Drop the core's clean SWM copies (09 R214, R216). -/
def State.swmInvalidate (s : State) (core : Nat) : State :=
  let gone := s.coh.swm.filterMap fun (k, l) => l.bind fun l => if k / 2 ^ 64 = core ∧ l.dirty.isEmpty then some (l.at_, l.vline) else none
  s.mapCoh fun c => { c with
    l1 := dropTags c.l1 fun k l => gone.contains (k, l)
    swm := c.swm.filter fun (k, l) => k / 2 ^ 64 != core || (match l with | some l => !l.dirty.isEmpty | none => false) }

/-- Does the address lie in an SWM range of the executing owner? -/
def State.isSwm (s : State) (va : Nat) : Bool := s.myCore.plbEn && !inWindowRegion va && (s.governing va).1 == kindSwm

/-- The state after an access that may be an acquire: in an SWM range the core's clean copies go, once the access has been made (05 R111, 09 R214). -/
def State.acquired (s : State) (acq : Bool) (va : Nat) : State := if acq ∧ s.isSwm va then s.swmInvalidate s.coreId else s

/-- An acquire in an SWM range: no clean copy of the core is there for a later access (09 R214). -/
def acquireAt (va : Nat) : M Unit := modify fun s => s.acquired true va

/-- A release in the chunk: the core's dirty SWM lines, the chunk's own among them, are written back in the step that makes the chunk visible (09 R214). -/
def State.released (s : State) : State := s.mapChunk fun c => { c with releases := true }

/-- A load whose acquire bit may be set, which does not change what it reads (05 R111). -/
def loadAcq (i : Instr) (rd rs1 : Reg) (la : BitVec 4) (acq : Bool) (n : Nat) (signedLoad : Bool) (imm : BitVec 9) (s : State) : Host.Outcome State Fault Refusal :=
  complete i (do
    let a ← rdReg rs1
    let ea := ea9 a imm n
    let v ← memRead ea n
    modify fun s => s.acquired acq ea
    wrReg rd (if signedLoad then BitVec.ofInt 64 (signed v (8 * n)) else BitVec.ofNat 64 v)
    retireLong i.len la (.reg rd)) s

/-- A release store (05 R113, 09 R214). -/
def storeRel (i : Instr) (rs1 rs2 : Reg) (n : Nat) (imm : BitVec 14) (s : State) : Host.Outcome State Fault Refusal :=
  complete i (do
    let a ← rdReg rs1
    let v ← rdReg rs2
    reserveLines (← lineOf (ea14 a imm))
    memWrite (ea14 a imm) n v.toNat
    modify (·.released)
    retire i.len) s

/-- The forward tag a tagged store carries: CR_FWDTAG.CORE when V is set, else none (10 R229). -/
def fwdTagOf (a : Arch) : Nat := if bitsOf a.fwdTag 9 1 = 1 then bitsOf a.fwdTag 0 9 else 512

/-! ### Meanings: OPI, OP, LUI and AUIPC (05 R104 to R106) -/

/-- ADDI: rd := a + i (05 R104). -/
def execAddi (rd rs1 : Reg) (imm : BitVec 14) (s : State) : Host.Outcome State Fault Refusal :=
  unary (.addi rd rs1 imm) rd rs1 (fun a => a + sext imm) s

/-- SLTI: rd := 1 if a < i, signed (05 R104). -/
def execSlti (rd rs1 : Reg) (imm : BitVec 14) (s : State) : Host.Outcome State Fault Refusal :=
  unary (.slti rd rs1 imm) rd rs1 (fun a => flag (a.slt (sext imm))) s

/-- SLTIU: rd := 1 if a < i, both unsigned (05 R104). -/
def execSltiu (rd rs1 : Reg) (imm : BitVec 14) (s : State) : Host.Outcome State Fault Refusal :=
  unary (.sltiu rd rs1 imm) rd rs1 (fun a => flag (a.ult (sext imm))) s

/-- XORI: rd := a XOR i (05 R104). -/
def execXori (rd rs1 : Reg) (imm : BitVec 14) (s : State) : Host.Outcome State Fault Refusal :=
  unary (.xori rd rs1 imm) rd rs1 (fun a => a ^^^ sext imm) s

/-- ORI: rd := a OR i (05 R104). -/
def execOri (rd rs1 : Reg) (imm : BitVec 14) (s : State) : Host.Outcome State Fault Refusal :=
  unary (.ori rd rs1 imm) rd rs1 (fun a => a ||| sext imm) s

/-- ANDI: rd := a AND i (05 R104). -/
def execAndi (rd rs1 : Reg) (imm : BitVec 14) (s : State) : Host.Outcome State Fault Refusal :=
  unary (.andi rd rs1 imm) rd rs1 (fun a => a &&& sext imm) s

/-- SLLI: a shifted left by imm[5:0] (05 R104). -/
def execSlli (rd rs1 : Reg) (shamt : BitVec 6) (s : State) : Host.Outcome State Fault Refusal :=
  unary (.slli rd rs1 shamt) rd rs1 (fun a => sll64 a shamt.toNat) s

/-- SRLI: a shifted right with zero fill by imm[5:0] (05 R104). -/
def execSrli (rd rs1 : Reg) (shamt : BitVec 6) (s : State) : Host.Outcome State Fault Refusal :=
  unary (.srli rd rs1 shamt) rd rs1 (fun a => srl64 a shamt.toNat) s

/-- SRAI: a shifted right with copies of bit 63 by imm[5:0] (05 R104). -/
def execSrai (rd rs1 : Reg) (shamt : BitVec 6) (s : State) : Host.Outcome State Fault Refusal :=
  unary (.srai rd rs1 shamt) rd rs1 (fun a => sra64 a shamt.toNat) s

/-- ADD: rd := a + b (05 R105). -/
def execAdd (rd rs1 rs2 : Reg) (s : State) : Host.Outcome State Fault Refusal :=
  binary (.add rd rs1 rs2) rd rs1 rs2 (fun a b => a + b) s

/-- SUB: rd := a - b (05 R105). -/
def execSub (rd rs1 rs2 : Reg) (s : State) : Host.Outcome State Fault Refusal :=
  binary (.sub rd rs1 rs2) rd rs1 rs2 (fun a b => a - b) s

/-- SLL: rd := a shifted left by b[5:0] (05 R105). -/
def execSll (rd rs1 rs2 : Reg) (s : State) : Host.Outcome State Fault Refusal :=
  binary (.sll rd rs1 rs2) rd rs1 rs2 (fun a b => sll64 a (amount b)) s

/-- SLT: rd := 1 if a < b, signed (05 R105). -/
def execSlt (rd rs1 rs2 : Reg) (s : State) : Host.Outcome State Fault Refusal :=
  binary (.slt rd rs1 rs2) rd rs1 rs2 (fun a b => flag (a.slt b)) s

/-- SLTU: rd := 1 if a < b, unsigned (05 R105). -/
def execSltu (rd rs1 rs2 : Reg) (s : State) : Host.Outcome State Fault Refusal :=
  binary (.sltu rd rs1 rs2) rd rs1 rs2 (fun a b => flag (a.ult b)) s

/-- XOR: rd := a XOR b (05 R105). -/
def execXor (rd rs1 rs2 : Reg) (s : State) : Host.Outcome State Fault Refusal :=
  binary (.xor rd rs1 rs2) rd rs1 rs2 (fun a b => a ^^^ b) s

/-- SRL: rd := a shifted right, zero fill, by b[5:0] (05 R105). -/
def execSrl (rd rs1 rs2 : Reg) (s : State) : Host.Outcome State Fault Refusal :=
  binary (.srl rd rs1 rs2) rd rs1 rs2 (fun a b => srl64 a (amount b)) s

/-- SRA: rd := a shifted right, copies of bit 63, by b[5:0] (05 R105). -/
def execSra (rd rs1 rs2 : Reg) (s : State) : Host.Outcome State Fault Refusal :=
  binary (.sra rd rs1 rs2) rd rs1 rs2 (fun a b => sra64 a (amount b)) s

/-- OR: rd := a OR b (05 R105). -/
def execOr (rd rs1 rs2 : Reg) (s : State) : Host.Outcome State Fault Refusal :=
  binary (.or rd rs1 rs2) rd rs1 rs2 (fun a b => a ||| b) s

/-- AND: rd := a AND b (05 R105). -/
def execAnd (rd rs1 rs2 : Reg) (s : State) : Host.Outcome State Fault Refusal :=
  binary (.and rd rs1 rs2) rd rs1 rs2 (fun a b => a &&& b) s

/-- MIN: rd := the signed minimum (05 R105). -/
def execMin (rd rs1 rs2 : Reg) (s : State) : Host.Outcome State Fault Refusal :=
  binary (.min rd rs1 rs2) rd rs1 rs2 (fun a b => if a.slt b then a else b) s

/-- MAX: rd := the signed maximum (05 R105). -/
def execMax (rd rs1 rs2 : Reg) (s : State) : Host.Outcome State Fault Refusal :=
  binary (.max rd rs1 rs2) rd rs1 rs2 (fun a b => if a.slt b then b else a) s

/-- MINU: rd := the unsigned minimum (05 R105). -/
def execMinu (rd rs1 rs2 : Reg) (s : State) : Host.Outcome State Fault Refusal :=
  binary (.minu rd rs1 rs2) rd rs1 rs2 (fun a b => if a.ult b then a else b) s

/-- MAXU: rd := the unsigned maximum (05 R105). -/
def execMaxu (rd rs1 rs2 : Reg) (s : State) : Host.Outcome State Fault Refusal :=
  binary (.maxu rd rs1 rs2) rd rs1 rs2 (fun a b => if a.ult b then b else a) s

/-- MUL: rd := the low 64 bits of the product (05 R105). -/
def execMul (rd rs1 rs2 : Reg) (s : State) : Host.Outcome State Fault Refusal :=
  binary (.mul rd rs1 rs2) rd rs1 rs2 (fun a b => a * b) s

/-- MULH: rd := bits [127:64] of the signed product (05 R105). -/
def execMulh (rd rs1 rs2 : Reg) (s : State) : Host.Outcome State Fault Refusal :=
  binary (.mulh rd rs1 rs2) rd rs1 rs2 (fun a b => mulh64 a b) s

/-- MULHU: rd := bits [127:64] of the unsigned product (05 R105). -/
def execMulhu (rd rs1 rs2 : Reg) (s : State) : Host.Outcome State Fault Refusal :=
  binary (.mulhu rd rs1 rs2) rd rs1 rs2 (fun a b => mulhu64 a b) s

/-- SEQ: rd := 1 if a = b (05 R105). -/
def execSeq (rd rs1 rs2 : Reg) (s : State) : Host.Outcome State Fault Refusal :=
  binary (.seq rd rs1 rs2) rd rs1 rs2 (fun a b => flag (a == b)) s

/-- SNE: rd := 1 if a ≠ b (05 R105). -/
def execSne (rd rs1 rs2 : Reg) (s : State) : Host.Outcome State Fault Refusal :=
  binary (.sne rd rs1 rs2) rd rs1 rs2 (fun a b => flag (a != b)) s

/-- ADDW: rd := sext((a + b)[31:0]) (05 R105). -/
def execAddw (rd rs1 rs2 : Reg) (s : State) : Host.Outcome State Fault Refusal :=
  binary (.addw rd rs1 rs2) rd rs1 rs2 (fun a b => sextW (a + b)) s

/-- SUBW: rd := sext((a - b)[31:0]) (05 R105). -/
def execSubw (rd rs1 rs2 : Reg) (s : State) : Host.Outcome State Fault Refusal :=
  binary (.subw rd rs1 rs2) rd rs1 rs2 (fun a b => sextW (a - b)) s

/-- CLZ: leading zero bits, 64 for 0 (05 R105). -/
def execClz (rd rs1 : Reg) (s : State) : Host.Outcome State Fault Refusal :=
  unary (.clz rd rs1) rd rs1 clz64 s

/-- CTZ: trailing zero bits, 64 for 0 (05 R105). -/
def execCtz (rd rs1 : Reg) (s : State) : Host.Outcome State Fault Refusal :=
  unary (.ctz rd rs1) rd rs1 ctz64 s

/-- POPC: one bits (05 R105). -/
def execPopc (rd rs1 : Reg) (s : State) : Host.Outcome State Fault Refusal :=
  unary (.popc rd rs1) rd rs1 popc64 s

/-- BREV: a with its bits reversed (05 R105). -/
def execBrev (rd rs1 : Reg) (s : State) : Host.Outcome State Fault Refusal :=
  unary (.brev rd rs1) rd rs1 brev64 s

/-- LUI: rd := sext(imm21) << 13 (05 R106). -/
def execLui (rd : Reg) (imm : BitVec 21) (s : State) : Host.Outcome State Fault Refusal :=
  complete (.lui rd imm) (do wrReg rd (upper imm); retire 4) s

/-- AUIPC: rd := PC + (sext(imm21) << 13) (05 R106). -/
def execAuipc (rd : Reg) (imm : BitVec 21) (s : State) : Host.Outcome State Fault Refusal :=
  complete (.auipc rd imm) (do wrReg rd ((← get).ctx.arch.pc + upper imm); retire 4) s

/-! ### Meanings: MULDIV (05 R107) -/

/-- DIV (05 R107). -/
def execDiv (rd rs1 rs2 : Reg) (w32 : Bool) (la : BitVec 4) (s : State) : Host.Outcome State Fault Refusal :=
  binaryLong (.div rd rs1 rs2 w32 la) rd rs1 rs2 la (divideSigned false w32) s

/-- DIVU (05 R107). -/
def execDivu (rd rs1 rs2 : Reg) (w32 : Bool) (la : BitVec 4) (s : State) : Host.Outcome State Fault Refusal :=
  binaryLong (.divu rd rs1 rs2 w32 la) rd rs1 rs2 la (divideUnsigned false w32) s

/-- REM (05 R107). -/
def execRem (rd rs1 rs2 : Reg) (w32 : Bool) (la : BitVec 4) (s : State) : Host.Outcome State Fault Refusal :=
  binaryLong (.rem rd rs1 rs2 w32 la) rd rs1 rs2 la (divideSigned true w32) s

/-- REMU (05 R107). -/
def execRemu (rd rs1 rs2 : Reg) (w32 : Bool) (la : BitVec 4) (s : State) : Host.Outcome State Fault Refusal :=
  binaryLong (.remu rd rs1 rs2 w32 la) rd rs1 rs2 la (divideUnsigned true w32) s

/-! ### Meanings: BRANCH, JAL, JALR (05 R108, R109) -/

/-- BEQ: taken if a = b (05 R108). -/
def execBeq (rs1 rs2 : Reg) (imm : BitVec 14) (s : State) : Host.Outcome State Fault Refusal :=
  branch (.beq rs1 rs2 imm) rs1 rs2 imm (fun a b => a == b) s

/-- BNE: taken if a ≠ b (05 R108). -/
def execBne (rs1 rs2 : Reg) (imm : BitVec 14) (s : State) : Host.Outcome State Fault Refusal :=
  branch (.bne rs1 rs2 imm) rs1 rs2 imm (fun a b => a != b) s

/-- BLT: taken if a < b, signed (05 R108). -/
def execBlt (rs1 rs2 : Reg) (imm : BitVec 14) (s : State) : Host.Outcome State Fault Refusal :=
  branch (.blt rs1 rs2 imm) rs1 rs2 imm (fun a b => a.slt b) s

/-- BGE: taken if a ≥ b, signed (05 R108). -/
def execBge (rs1 rs2 : Reg) (imm : BitVec 14) (s : State) : Host.Outcome State Fault Refusal :=
  branch (.bge rs1 rs2 imm) rs1 rs2 imm (fun a b => !a.slt b) s

/-- BLTU: taken if a < b, unsigned (05 R108). -/
def execBltu (rs1 rs2 : Reg) (imm : BitVec 14) (s : State) : Host.Outcome State Fault Refusal :=
  branch (.bltu rs1 rs2 imm) rs1 rs2 imm (fun a b => a.ult b) s

/-- BGEU: taken if a ≥ b, unsigned (05 R108). -/
def execBgeu (rs1 rs2 : Reg) (imm : BitVec 14) (s : State) : Host.Outcome State Fault Refusal :=
  branch (.bgeu rs1 rs2 imm) rs1 rs2 imm (fun a b => !a.ult b) s

/-- JAL (05 R109). -/
def execJal (rd : Reg) (imm : BitVec 21) (s : State) : Host.Outcome State Fault Refusal :=
  link (.jal rd imm) rd (do return halfwords (← get).ctx.arch.pc imm) s

/-- JALR: the target is taken before rd is written (05 R109). -/
def execJalr (rd rs1 : Reg) (imm : BitVec 14) (s : State) : Host.Outcome State Fault Refusal :=
  link (.jalr rd rs1 imm) rd (do return jalrTarget (← rdReg rs1) (sext imm)) s

/-! ### Meanings: LOAD and STORE (05 R110 to R114) -/

/-- LB (05 R110, R111). -/
def execLb (rd rs1 : Reg) (imm : BitVec 9) (la : BitVec 4) (acq : Bool) (s : State) : Host.Outcome State Fault Refusal :=
  loadAcq (.lb rd rs1 imm la acq) rd rs1 la acq 1 true imm s

/-- LH (05 R110, R111). -/
def execLh (rd rs1 : Reg) (imm : BitVec 9) (la : BitVec 4) (acq : Bool) (s : State) : Host.Outcome State Fault Refusal :=
  loadAcq (.lh rd rs1 imm la acq) rd rs1 la acq 2 true imm s

/-- LW (05 R110, R111). -/
def execLw (rd rs1 : Reg) (imm : BitVec 9) (la : BitVec 4) (acq : Bool) (s : State) : Host.Outcome State Fault Refusal :=
  loadAcq (.lw rd rs1 imm la acq) rd rs1 la acq 4 true imm s

/-- LD (05 R110, R111). -/
def execLd (rd rs1 : Reg) (imm : BitVec 9) (la : BitVec 4) (acq : Bool) (s : State) : Host.Outcome State Fault Refusal :=
  loadAcq (.ld rd rs1 imm la acq) rd rs1 la acq 8 false imm s

/-- LBU (05 R110, R111). -/
def execLbu (rd rs1 : Reg) (imm : BitVec 9) (la : BitVec 4) (acq : Bool) (s : State) : Host.Outcome State Fault Refusal :=
  loadAcq (.lbu rd rs1 imm la acq) rd rs1 la acq 1 false imm s

/-- LHU (05 R110, R111). -/
def execLhu (rd rs1 : Reg) (imm : BitVec 9) (la : BitVec 4) (acq : Bool) (s : State) : Host.Outcome State Fault Refusal :=
  loadAcq (.lhu rd rs1 imm la acq) rd rs1 la acq 2 false imm s

/-- LWU (05 R110, R111). -/
def execLwu (rd rs1 : Reg) (imm : BitVec 9) (la : BitVec 4) (acq : Bool) (s : State) : Host.Outcome State Fault Refusal :=
  loadAcq (.lwu rd rs1 imm la acq) rd rs1 la acq 4 false imm s

/-- SB (05 R112). -/
def execSb (rs1 rs2 : Reg) (imm : BitVec 14) (s : State) : Host.Outcome State Fault Refusal :=
  store (.sb rs1 rs2 imm) rs1 rs2 1 (fun a => ea14 a imm) s

/-- SH (05 R112). -/
def execSh (rs1 rs2 : Reg) (imm : BitVec 14) (s : State) : Host.Outcome State Fault Refusal :=
  store (.sh rs1 rs2 imm) rs1 rs2 2 (fun a => ea14 a imm) s

/-- SW (05 R112). -/
def execSw (rs1 rs2 : Reg) (imm : BitVec 14) (s : State) : Host.Outcome State Fault Refusal :=
  store (.sw rs1 rs2 imm) rs1 rs2 4 (fun a => ea14 a imm) s

/-- SD (05 R112). -/
def execSd (rs1 rs2 : Reg) (imm : BitVec 14) (s : State) : Host.Outcome State Fault Refusal :=
  store (.sd rs1 rs2 imm) rs1 rs2 8 (fun a => ea14 a imm) s

/-- SW.REL (05 R112, R113). -/
def execSwRel (rs1 rs2 : Reg) (imm : BitVec 14) (s : State) : Host.Outcome State Fault Refusal :=
  storeRel (.swRel rs1 rs2 imm) rs1 rs2 4 imm s

/-- SD.REL (05 R112, R113). -/
def execSdRel (rs1 rs2 : Reg) (imm : BitVec 14) (s : State) : Host.Outcome State Fault Refusal :=
  storeRel (.sdRel rs1 rs2 imm) rs1 rs2 8 imm s

/-- SD.FWD: a doubleword store that tags its line (05 R114, 10 R229). -/
def execSdFwd (rs1 rs2 : Reg) (imm : BitVec 14) (s : State) : Host.Outcome State Fault Refusal :=
  complete (.sdFwd rs1 rs2 imm) (do
    let a ← rdReg rs1
    let v ← rdReg rs2
    reserveLines (← lineOf (ea14 a imm))
    memWriteTag (fwdTagOf (← get).ctx.arch) (ea14 a imm) 8 v.toNat
    retire 4) s

/-! ### Meanings: the 16-bit forms (02 R41, R42): each is its expansion with a length of two bytes -/

/-- C.LW: LW rd, n*4(rs1) (02 R41). -/
def execCLw (rd rs1 : Reg) (n : BitVec 3) (s : State) : Host.Outcome State Fault Refusal :=
  load (.cLw rd rs1 n) rd rs1 0 4 true (fun a => eaC a n 4) s

/-- C.LD: LD rd, n*8(rs1) (02 R41). -/
def execCLd (rd rs1 : Reg) (n : BitVec 3) (s : State) : Host.Outcome State Fault Refusal :=
  load (.cLd rd rs1 n) rd rs1 0 8 false (fun a => eaC a n 8) s

/-- C.SW: SW rs2, n*4(rs1) (02 R41). -/
def execCSw (rs1 rs2 : Reg) (n : BitVec 3) (s : State) : Host.Outcome State Fault Refusal :=
  store (.cSw rs1 rs2 n) rs1 rs2 4 (fun a => eaC a n 4) s

/-- C.SD: SD rs2, n*8(rs1) (02 R41). -/
def execCSd (rs1 rs2 : Reg) (n : BitVec 3) (s : State) : Host.Outcome State Fault Refusal :=
  store (.cSd rs1 rs2 n) rs1 rs2 8 (fun a => eaC a n 8) s

/-- C.BEQZ: BEQ rs1, s0 (02 R41). -/
def execCBeqz (rs1 : Reg) (imm : BitVec 7) (s : State) : Host.Outcome State Fault Refusal :=
  branch (.cBeqz rs1 imm) rs1 0 imm (fun a b => a == b) s

/-- C.BNEZ: BNE rs1, s0 (02 R41). -/
def execCBnez (rs1 : Reg) (imm : BitVec 7) (s : State) : Host.Outcome State Fault Refusal :=
  branch (.cBnez rs1 imm) rs1 0 imm (fun a b => a != b) s

/-- C.J: BEQ s0, s0 (02 R41, R42). -/
def execCJ (imm : BitVec 11) (s : State) : Host.Outcome State Fault Refusal :=
  branch (.cJ imm) 0 0 imm (fun a b => a == b) s

/-- C.JR: JALR rs1, rs1, 0 (02 R41, R42). -/
def execCJr (rs1 : Reg) (s : State) : Host.Outcome State Fault Refusal :=
  link (.cJr rs1) rs1 (do return jalrTarget (← rdReg rs1) 0) s

/-- C.MV: ADDI rd, rs, 0 (02 R41). -/
def execCMv (rd rs1 : Reg) (s : State) : Host.Outcome State Fault Refusal :=
  unary (.cMv rd rs1) rd rs1 (fun a => a) s

/-- C.ADD: ADD rd, rd, rs (02 R41). -/
def execCAdd (rd rs1 : Reg) (s : State) : Host.Outcome State Fault Refusal :=
  binary (.cAdd rd rs1) rd rd rs1 (fun a b => a + b) s

/-- C.SUB: SUB rd, rd, rs (02 R41). -/
def execCSub (rd rs1 : Reg) (s : State) : Host.Outcome State Fault Refusal :=
  binary (.cSub rd rs1) rd rd rs1 (fun a b => a - b) s

/-- C.AND: AND rd, rd, rs (02 R41). -/
def execCAnd (rd rs1 : Reg) (s : State) : Host.Outcome State Fault Refusal :=
  binary (.cAnd rd rs1) rd rd rs1 (fun a b => a &&& b) s

/-- C.OR: OR rd, rd, rs (02 R41). -/
def execCOr (rd rs1 : Reg) (s : State) : Host.Outcome State Fault Refusal :=
  binary (.cOr rd rs1) rd rd rs1 (fun a b => a ||| b) s

/-- C.XOR: XOR rd, rd, rs (02 R41). -/
def execCXor (rd rs1 : Reg) (s : State) : Host.Outcome State Fault Refusal :=
  binary (.cXor rd rs1) rd rd rs1 (fun a b => a ^^^ b) s

/-- C.ADDI: ADDI rd, rd, sext(imm7) (02 R41). -/
def execCAddi (rd : Reg) (imm : BitVec 7) (s : State) : Host.Outcome State Fault Refusal :=
  unary (.cAddi rd imm) rd rd (fun a => a + sext imm) s

/-- C.LI: ADDI rd, s0, sext(imm7) (02 R41, R42). -/
def execCLi (rd : Reg) (imm : BitVec 7) (s : State) : Host.Outcome State Fault Refusal :=
  unary (.cLi rd imm) rd 0 (fun a => a + sext imm) s

/-- C.SLLI: SLLI rd, rd, sh (02 R41). -/
def execCSlli (rd : Reg) (shamt : BitVec 6) (s : State) : Host.Outcome State Fault Refusal :=
  unary (.cSlli rd shamt) rd rd (fun a => sll64 a shamt.toNat) s

/-- C.SRLI: SRLI rd, rd, sh (02 R41). -/
def execCSrli (rd : Reg) (shamt : BitVec 6) (s : State) : Host.Outcome State Fault Refusal :=
  unary (.cSrli rd shamt) rd rd (fun a => srl64 a shamt.toNat) s

/-- C.SRAI: SRAI rd, rd, sh (02 R41). -/
def execCSrai (rd : Reg) (shamt : BitVec 6) (s : State) : Host.Outcome State Fault Refusal :=
  unary (.cSrai rd shamt) rd rd (fun a => sra64 a shamt.toNat) s

/-- C.NOP: NOP (02 R41). -/
def execCNop  (s : State) : Host.Outcome State Fault Refusal :=
  complete .cNop (retire 2) s

end Sys2Proof.Machine
end

