-- ==== Sys2Proof/Machine/Atomic.lean ====
section
/-!
DEFINITION. Sys2Proof/Machine/Atomic.lean: the ATOM major (09 R211 to R214).
-/

namespace Sys2Proof.Machine

/-- Where an atomic executes (09 R213). -/
def atHome (kind : Nat) : Bool := kind == kindUpd || kind == kindSwm

/-- The value an integer atomic of n bytes stores: old op b (09 R212). -/
abbrev AmoFn := (n old b : Nat) → Option Nat

/-- An atomic reaches the home of a line (10 R233): the event that the table handles by performing it at the line's slice, where it is tracked. -/
def State.atomicEvent (s : State) (p : Place) : State :=
  if p.tracked && atHome p.kind then s.transact evAtomic p.lineKey (s.l1Core p.lineKey) else s

/-- The executing thread reaches a line's home slice: as an atomic where one executes there, else as a write of an owned line. -/
def State.reachHome (s : State) (p : Place) : State :=
  let s := if p.fills then s.fillL1 p.lineKey else s
  if atHome p.kind then (s.cacheLoad (s.l1Core p.lineKey) p false).atomicEvent p else s.cacheStore (s.l1Core p.lineKey) p

/-- A write performed at a line's home slice by the executing thread, outside any chunk: the requester's own copy is patched (09 R213). -/
def State.homePut (s : State) (p : Place) (n new : Nat) : State :=
  let s := s.reachHome p
  let s := s.logUndo s.mySeam s.ctx.owner (some p.lineKey) (p.loc / 128)
  let s := s.setNat p.loc n new
  let s := match getT none s.coh.swm (s.coreId * 2 ^ 64 + p.loc / 128) with
    | some l =>
      let at' := p.loc % 128
      let clean := l.clean.zipIdx.map fun (b, i) => if at' ≤ i ∧ i < at' + n then (leBytes n new).getD (i - at') b else b
      let dirty := l.dirty.filter fun (q : Nat × Option Byte) => !(decide (at' ≤ q.1) && decide (q.1 < at' + n))
      s.putSwm s.coreId (p.loc / 128) { l with clean := clean, dirty := dirty }
    | none => s
  let s := s.mapCoh (·.unmark (p.loc / 128) p.lineKey)
  ((s.squashMeeting [p.loc / 128]).fireWatches [p.lineKey] (some s.cur)).wakeRetries

/-- A write that would squash the earliest task waits for that task's commit (08 R182). -/
def spareEarliest (lines : List Nat) : M Unit := do if (← get).meetsEarliestOn lines then waitFor .commit

/-- An atomic at the line's home slice: a chunk of its own that is never squashed. One that stores nothing is a read, which is final at once (10 R229). -/
def homeAtomic (p : Place) (n : Nat) (f : Nat → Option Nat) : M Nat := do
  let s ← get
  let old := s.natAt p.loc n
  match f old with
  | some new =>
    spareEarliest [p.loc / 128]
    modify fun s => (s.homePut p n new).mapChunk fun c => { c with vaLines := [p.lineKey] }
  | none => modify fun s => (s.reachHome p).consume s.coreId (p.loc / 128) p.lineKey
  return old

/-- In runahead an atomic is discarded, and ends the run where it would end a chunk, at its line's home slice (22 R386, 09 R196). -/
def amoAhead (ea n : Nat) : M Unit := do
  let s ← get
  if s.ahead then
    match placeOf ea n .atomic s with
    | .ok (p, _) => if atHome p.kind then endChunk else stop .invalid
    | .error _ => stop .invalid

/-- The memory part of an atomic: the old value, and whether it was performed at the home slice (09 R212 to R214). Its trap order is that of 05 R103, then PROTOCOL. -/
def amoAccess (ord : BitVec 2) (ea n : Nat) (f : Nat → Option Nat) : M (Nat × Bool) := do
  amoAhead ea n
  let p ← placeOf ea n .atomic
  if p.kind = kindWo then raise causeProtocol ea
  if atHome p.kind then
    endChunk
    if ord = 2 ∨ ord = 3 then
      spareEarliest ((← get).swmDirty (← get).coreId)
      modify fun s => s.swmWriteBack s.coreId
    let old ← homeAtomic p n f
    if ord = 1 ∨ ord = 3 then modify fun s => if p.kind = kindSwm then s.swmInvalidate s.coreId else s
    return (old, true)
  else
    let old ← memRead ea n .atomic
    match f old with
    | none =>
      if ord = 2 ∨ ord = 3 then modify (·.released)
      return (old, false)
    | some _ =>
      reserveLines (← lineOf ea)
      let old ← memRead ea n .atomic
      match f old with
      | some new => memWrite ea n new .atomic
      | none => pure ()
      if ord = 2 ∨ ord = 3 then modify (·.released)
      return (old, false)

/-- An atomic completes; one at the home slice is a chunk of its own, which ends with it and is never squashed (09 R213). -/
def retireAtomic (home : Bool) (la : BitVec 4) (rd : Reg) : M Unit := do
  let pc := (← get).ctx.arch.pc.toNat
  retireLong 4 la (.reg rd)
  if home then modify (·.endedAlone pc la (.reg rd))

/-- rd after an atomic: the old doubleword, or the old word sign-extended (09 R212). -/
def amoResult (n old : Nat) : Word := if n = 8 then BitVec.ofNat 64 old else BitVec.ofInt 64 (signed old 32)

def amoBytes (dbl : Bool) : Nat := if dbl then 8 else 4

/-- The shape of every integer atomic but CAS. -/
def amo (i : Instr) (rd rs1 rs2 : Reg) (ord : BitVec 2) (dbl : Bool) (la : BitVec 4) (f : (n old b : Nat) → Nat) (s : State) :
    Host.Outcome State Fault Refusal :=
  complete i (do
    let a ← rdReg rs1
    let b ← rdReg rs2
    let n := amoBytes dbl
    let (old, home) ← amoAccess ord a.toNat n (fun old => some (f n old (b.toNat % 256 ^ n)))
    wrReg rd (amoResult n old)
    retireAtomic home la rd) s

/-- AMO.ADD (09 R212). -/
def execAmoAdd (rd rs1 rs2 : Reg) (ord : BitVec 2) (dbl : Bool) (la : BitVec 4) (s : State) : Host.Outcome State Fault Refusal :=
  amo (.amoAdd rd rs1 rs2 ord dbl la) rd rs1 rs2 ord dbl la (fun n old b => (old + b) % 256 ^ n) s

/-- AMO.AND (09 R212). -/
def execAmoAnd (rd rs1 rs2 : Reg) (ord : BitVec 2) (dbl : Bool) (la : BitVec 4) (s : State) : Host.Outcome State Fault Refusal :=
  amo (.amoAnd rd rs1 rs2 ord dbl la) rd rs1 rs2 ord dbl la (fun _ old b => old &&& b) s

/-- AMO.OR (09 R212). -/
def execAmoOr (rd rs1 rs2 : Reg) (ord : BitVec 2) (dbl : Bool) (la : BitVec 4) (s : State) : Host.Outcome State Fault Refusal :=
  amo (.amoOr rd rs1 rs2 ord dbl la) rd rs1 rs2 ord dbl la (fun _ old b => old ||| b) s

/-- AMO.XOR (09 R212). -/
def execAmoXor (rd rs1 rs2 : Reg) (ord : BitVec 2) (dbl : Bool) (la : BitVec 4) (s : State) : Host.Outcome State Fault Refusal :=
  amo (.amoXor rd rs1 rs2 ord dbl la) rd rs1 rs2 ord dbl la (fun _ old b => old ^^^ b) s

/-- AMO.MIN: signed, n bytes wide (09 R212). -/
def execAmoMin (rd rs1 rs2 : Reg) (ord : BitVec 2) (dbl : Bool) (la : BitVec 4) (s : State) : Host.Outcome State Fault Refusal :=
  amo (.amoMin rd rs1 rs2 ord dbl la) rd rs1 rs2 ord dbl la
    (fun n old b => if signed b (8 * n) < signed old (8 * n) then b else old) s

/-- AMO.MAX: signed, n bytes wide (09 R212). -/
def execAmoMax (rd rs1 rs2 : Reg) (ord : BitVec 2) (dbl : Bool) (la : BitVec 4) (s : State) : Host.Outcome State Fault Refusal :=
  amo (.amoMax rd rs1 rs2 ord dbl la) rd rs1 rs2 ord dbl la
    (fun n old b => if signed old (8 * n) < signed b (8 * n) then b else old) s

/-- AMO.MINU (09 R212). -/
def execAmoMinu (rd rs1 rs2 : Reg) (ord : BitVec 2) (dbl : Bool) (la : BitVec 4) (s : State) : Host.Outcome State Fault Refusal :=
  amo (.amoMinu rd rs1 rs2 ord dbl la) rd rs1 rs2 ord dbl la (fun _ old b => min old b) s

/-- AMO.MAXU (09 R212). -/
def execAmoMaxu (rd rs1 rs2 : Reg) (ord : BitVec 2) (dbl : Bool) (la : BitVec 4) (s : State) : Host.Outcome State Fault Refusal :=
  amo (.amoMaxu rd rs1 rs2 ord dbl la) rd rs1 rs2 ord dbl la (fun _ old b => max old b) s

/-- AMO.SWAP (09 R212). -/
def execAmoSwap (rd rs1 rs2 : Reg) (ord : BitVec 2) (dbl : Bool) (la : BitVec 4) (s : State) : Host.Outcome State Fault Refusal :=
  amo (.amoSwap rd rs1 rs2 ord dbl la) rd rs1 rs2 ord dbl la (fun _ _ b => b) s

/-- AMO.CAS: stores rs2 if the old value equals rd's; a failed CAS writes nothing (09 R212). -/
def execAmoCas (rd rs1 rs2 : Reg) (ord : BitVec 2) (dbl : Bool) (la : BitVec 4) (s : State) : Host.Outcome State Fault Refusal :=
  complete (.amoCas rd rs1 rs2 ord dbl la) (do
    let a ← rdReg rs1
    let b ← rdReg rs2
    let e ← rdReg rd
    let n := amoBytes dbl
    let (old, home) ← amoAccess ord a.toNat n (fun old => if old = e.toNat % 256 ^ n then some (b.toNat % 256 ^ n) else none)
    wrReg rd (amoResult n old)
    retireAtomic home la rd) s

/-- FP32 sum of two words, rounded RNE whatever CR_FCSR.FRM (09 R212). -/
def fadd32 (old b : Nat) : Word × Flags :=
  fpDeliver false .rne (Val.add .rne (specFp32.value old) (specFp32.value b))

/-- AMO.FADD: the old word zero-extended into rd; flags as 04 R85, FPX as 06 R147 (09 R212). -/
def execAmoFadd (rd rs1 rs2 : Reg) (ord : BitVec 2) (la : BitVec 4) (s : State) : Host.Outcome State Fault Refusal :=
  let i : Instr := .amoFadd rd rs1 rs2 ord la
  match (do
    let a ← rdReg rs1
    let b ← rdReg rs2
    let v := b.toNat % 2 ^ 32
    let (old, home) ← amoAccess ord a.toNat 4 (fun old => some (fadd32 old v).1.toNat)
    wrReg rd (BitVec.ofNat 64 old)
    return ((fadd32 old v).2, home) : M (Flags × Bool)) s with
  | .ok ((f, home), t) =>
    match completeFp i (fun _ => .ok ((f, 0), t)) 4 la (.reg rd) s with
    | .next u => .next (if home then u.endedAlone t.ctx.arch.pc.toNat (if t.ctx.arch.enabled f = 0 then la else 0) (.reg rd) else u)
    | o => o
  | .error e => complete i (fun _ => .error e) s

end Sys2Proof.Machine
end

