-- ==== Sys2Proof/Machine/Fetch.lean ====
section
/-!
DEFINITION. Sys2Proof/Machine/Fetch.lean: fetching an instruction (02 R24), repetition: the captured body, its renaming and
REP itself (05 R125 to R129).
-/

namespace Sys2Proof.Machine

/-! ### Fetching (02 R24) -/

/-- The lines of an instruction cache: 64 KiB (01 R11). -/
def l1iLines : Nat := 512

/-- Where an instruction cache is full, a line leaves it: which one is a free value, since no rule gives its ways (log 36). -/
def State.evictL1i (s : State) (va : Nat) : State :=
  let held := s.myCore.l1i
  if held.length < l1iLines ∨ held.any (·.1 == va / 128) then s
  else { s.mapCore s.coreId fun c => { c with l1i := held.eraseIdx (Config.l1iVictim s.fresh % l1iLines) } with fresh := s.fresh + 1 }

/-- The instruction cache takes a line with the bytes that memory holds now. -/
def State.fillL1i (s : State) (va loc : Nat) : State :=
  (s.evictL1i va).mapCore s.coreId fun c => { c with l1i := setT none c.l1i (va / 128) (some (loc / 128, s.bytesAt (loc / 128 * 128) 128)) }

/-- A halfword that a core's instruction cache holds otherwise than memory does. -/
def State.staleHalf (s : State) (va loc : Nat) : Option Nat :=
  match getT none s.myCore.l1i (va / 128) with
  | some (line, bytes) =>
    let old := ofLeBytes ((bytes.drop (loc % 128)).take 2)
    if line = loc / 128 ∧ old ≠ s.natAt loc 2 then some old else none
  | none => none

/-- Fetch a halfword. A line that was written since the instruction cache took it may still be there: the fetch then sees the old bytes or
the committed ones, a free choice (06 R154). -/
def fetchHalf (va : Nat) : M Nat := do
  let p ← placeOf va 2 .fetch
  modify (·.mapChunk fun c => { c with pages := insertN p.page c.pages })
  let s ← get
  match s.staleHalf va p.loc with
  | some old =>
    set { s with fresh := s.fresh + 1 }
    if Config.staleFetch s.fresh then return old
    else
      modify fun (s : State) => s.fillL1i va p.loc
      return s.natAt p.loc 2
  | none =>
    if ((getT none s.myCore.l1i (va / 128)).map (·.1)) != some (p.loc / 128) then modify fun (s : State) => s.fillL1i va p.loc
    return s.natAt p.loc 2

/-- The instruction that bits encode; bits that encode none are the RESERVED_ENCODING row (02 R28). -/
def insOfBits (bits len : Nat) : Instr :=
  match (if len = 2 then decodeShort bits else decodeLong bits) with
  | .ok i => i
  | .error _ => .reservedEncoding (BitVec.ofNat 32 bits) (len == 2)

/-- Fetch the instruction at an address: its length follows from its first halfword alone. -/
def fetchIns (va : Nat) : M BodyIns := do
  let h ← fetchHalf va
  if h % 2 = 0 then return { addr := va, len := 2, bits := h, ins := insOfBits h 2 }
  let g ← fetchHalf (va + 2)
  return { addr := va, len := 4, bits := h + 65536 * g, ins := insOfBits (h + 65536 * g) 4 }

/-! ### Repetition (05 R125 to R129) -/

/-- The L instructions from an address (05 R127). -/
def captureBody : (n va : Nat) → M (List BodyIns)
  | 0, _ => pure []
  | n + 1, va => do
    let i ← fetchIns va
    return i :: (← captureBody n (va + i.len))

/-- Base and width of the scalar window of a span code (05 R126). -/
def scalarSpan : Nat → Nat × Nat
  | 1 => (8, 2) | 2 => (8, 4) | 3 => (8, 8) | 4 => (4, 4) | 5 => (4, 8) | 6 => (12, 4) | _ => (0, 0)

/-- Base and width of the handle window of a span code (05 R126). -/
def handleSpan : Nat → Nat × Nat
  | 1 => (6, 2) | 2 => (4, 4) | 3 => (4, 4) | 4 => (2, 2) | 5 => (0, 8) | 6 => (6, 2) | _ => (0, 0)

/-- The renamed register number on pass p with stride S (05 R126). -/
def renamed (span : Nat × Nat) (p stride k : Nat) : Nat :=
  if span.1 ≤ k ∧ k < span.1 + span.2 then span.1 + (k - span.1 + p * stride) % span.2 else k

/-- A body instruction as the current pass executes it. -/
def Arch.rename (a : Arch) (i : Instr) : Instr :=
  let p := bitsOf a.status 23 3
  let span := bitsOf a.status 20 3
  let ss := bitsOf a.status 17 3
  let hs := bitsOf a.status 14 3
  renameInstr (fun r => Fin.ofNat 16 (renamed (scalarSpan span) p ss r.val))
    (fun h => Fin.ofNat 8 (renamed (handleSpan span) p hs h.val)) i

/-- What a body may not hold when it is reached (05 R128). -/
def repForbidden : Instr → Bool
  | .beq .. | .bne .. | .blt .. | .bge .. | .bltu .. | .bgeu .. | .jal .. | .jalr .. | .cBeqz .. | .cBnez .. | .cJ .. | .cJr .. => true
  | .rep .. | .trap .. | .brk .. | .eret | .wfi .. | .done | .cDone | .yield .. => true
  | .compose .. | .release .. | .cstat .. => true
  | _ => false

/-- The status of the first pass of a repetition (06 R140). -/
def repStatus (st : Word) (len hs ss span : Nat) : Word :=
  putBits (putBits (putBits (putBits (putBits (putBits st 8 1 1) 9 5 len) 14 3 hs) 17 3 ss) 20 3 span) 23 3 0

/-- REP: the body is captured, and the passes follow; a count of 0 skips it (05 R127). REP in a delegated handler of a thread that
was inside a repetition raises ILLEGAL (06 R153), as does span code 7. -/
def execRep (rs1 : Reg) (len : BitVec 5) (hstride sstride span : BitVec 3) (s : State) : Host.Outcome State Fault Refusal :=
  complete (.rep rs1 len hstride sstride span) (do
    let a := (← get).ctx.arch
    if a.inh && a.repAct then illegal
    if span = 7 then illegal
    let n ← rdReg rs1
    let base := a.pc + 4
    let body ← captureBody (len.toNat + 1) base.toNat
    let after := ((body.getLast?).map fun b => b.addr + b.len).getD base.toNat
    if n = 0 then
      modify fun s => (s.mapArch fun a => ({ a with pc := BitVec.ofNat 64 after }.tickWindows).blockStep s.isBound false).countIns
    else
      modify fun s => (s.mapArch fun a =>
        ({ a with pc := base, repBase := base, repCnt := n, inRep := true, body := body
                  status := repStatus a.status len.toNat hstride.toNat sstride.toNat span.toNat }.tickWindows).blockStep s.isBound false).countIns) s

/-! ### The return from an exception (06 R153) -/

/-- After ERET in a thread inside a repetition: the pass resumes if the target is one of the body's instructions, fetched again from
CR_REPBASE; any other target abandons the repetition. -/
def eretRepetition (t : Word) : M Unit := do
  let a := (← get).ctx.arch
  if a.repAct then
    let body ← captureBody (bitsOf a.status 9 5 + 1) a.repBase.toNat
    if inBody body t.toNat then modify (·.mapArch fun a => { a with inRep := true, body := body })
    else modify (·.mapArch fun a => { a with status := putBits a.status 8 1 0, inRep := false, body := [] })

end Sys2Proof.Machine
end

