-- ==== Sys2Proof/Machine/Handle.lean ====
section
/-!
DEFINITION. Sys2Proof/Machine/Handle.lean: the HANDLE major (05 R122 to R124).
-/

namespace Sys2Proof.Machine

/-- Where field f of a handle lies: its lowest bit and its width (02 R20, R37, 05 R123). -/
def handleField : Nat → Nat × Nat
  | 0 => (0, 48) | 1 => (48, 3) | 2 => (52, 4) | 3 => (64, 16) | 4 => (80, 16) | 5 => (96, 32)
  | 6 => (128, 48) | 7 => (184, 16) | 8 => (200, 16) | 9 => (216, 16) | 10 => (232, 16) | _ => (51, 1)

/-- A field of a handle, as a number. -/
def handleAt (h : HWord) (f : Nat) : Nat := bitsOf h (handleField f).1 (handleField f).2

def fieldStride : Nat := 5
def fieldRow0 : Nat := 7
def fieldCol0 : Nat := 8

/-- A handle with one field written; bits of v above the field's width are ignored. -/
def handleSet (h : HWord) (f v : Nat) : HWord := putBits h (handleField f).1 (handleField f).2 v

/-- A field as HGET reads it: zero-extended, STRIDE sign-extended. -/
def handleGet (h : HWord) (f : Nat) : Word :=
  if f = fieldStride then BitVec.ofInt 64 (signed (handleAt h f) 32) else BitVec.ofNat 64 (handleAt h f)

/-- HLD: h[hd] := the 32 bytes at the address (05 R122, R123). -/
def execHld (hd : HReg) (rs1 : Reg) (imm : BitVec 8) (s : State) : Host.Outcome State Fault Refusal :=
  complete (.hld hd rs1 imm) (do
    let a ← rdReg rs1
    let v ← memRead (eaH a imm) 32
    wrHandle hd (BitVec.ofNat 256 v)
    retire 4) s

/-- HST: stores the 32 bytes of h[hd] (05 R122, R123). -/
def execHst (hd : HReg) (rs1 : Reg) (imm : BitVec 8) (s : State) : Host.Outcome State Fault Refusal :=
  complete (.hst hd rs1 imm) (do
    let a ← rdReg rs1
    let v ← rdHandle hd
    reserveLines (← lineOf (eaH a imm))
    memWrite (eaH a imm) 32 v.toNat
    retire 4) s

/-- HSET: writes the named field only (05 R122, R123). -/
def execHset (hd : HReg) (rs2 : Reg) (fld : BitVec 8) (s : State) : Host.Outcome State Fault Refusal :=
  complete (.hset hd rs2 fld) (do
    let v ← rdReg rs2
    let h ← rdHandle hd
    wrHandle hd (handleSet h fld.toNat v.toNat)
    retire 4) s

/-- HGET: s[rs2] := the named field (05 R122). -/
def execHget (hd : HReg) (rs2 : Reg) (fld : BitVec 8) (s : State) : Host.Outcome State Fault Refusal :=
  complete (.hget hd rs2 fld) (do
    let h ← rdHandle hd
    wrReg rs2 (handleGet h fld.toNat)
    retire 4) s

/-- HMOV (05 R122). -/
def execHmov (hd hk : HReg) (s : State) : Host.Outcome State Fault Refusal :=
  complete (.hmov hd hk) (do
    let h ← rdHandle hk
    wrHandle hd h
    retire 4) s

/-- HADV: the window origin moves, modulo 2^16 (05 R122). -/
def execHadv (hd : HReg) (rs1 rs2 : Reg) (s : State) : Host.Outcome State Fault Refusal :=
  complete (.hadv hd rs1 rs2) (do
    let a ← rdReg rs1
    let b ← rdReg rs2
    let h ← rdHandle hd
    let h := handleSet h fieldRow0 (handleAt h fieldRow0 + a.toNat)
    wrHandle hd (handleSet h fieldCol0 (handleAt h fieldCol0 + b.toNat))
    retire 4) s

/-- HZERO: a null handle (05 R122). -/
def execHzero (hd : HReg) (s : State) : Host.Outcome State Fault Refusal :=
  complete (.hzero hd) (do
    wrHandle hd 0
    retire 4) s

end Sys2Proof.Machine
end

