-- ==== Sys2Proof/Machine/System.lean ====
section
/-!
DEFINITION. Sys2Proof/Machine/System.lean: the control registers (06 R137 to R143) and the SYS major (R150 to R156) but CAPMINT,
with the service of a SYSCALL.
-/

namespace Sys2Proof.Machine

/-! ### Reading control registers (06 R137) -/

/-- CR_CARVE (06 R142). -/
def Core.carveWord (c : Core) : Word :=
  BitVec.ofNat 64 (c.carveCur + c.carveReq * 2 ^ 8 + (if c.carvePend then 2 ^ 16 else 0))

/-- CR_PLBCTL (22 R378). -/
def State.plbCtl (s : State) : Word := BitVec.ofNat 64 (s.ptRoot % 2 ^ 52 / 2 ^ 21 * 2 ^ 21 + (if s.myCore.plbEn then 1 else 0))

/-- How many of some ports are in one of these states. -/
def State.countPorts (s : State) (ports : List Nat) (states : List PortState) : Nat :=
  (ports.filter fun p => states.contains (s.port p).state).length

def jslPorts : List Nat := List.range 96

/-- CR_LINKSTAT (24 R414); ports 96 to 99 are the Ultra Ethernet ports. -/
def State.linkStat (s : State) : Word :=
  let ue := ((List.range 4).map fun u => if (s.port (96 + u)).state = .up then 2 ^ u else 0).sum
  BitVec.ofNat 64 (s.links.rtlimit % 2 ^ 32 * 2 ^ 32 + s.countPorts jslPorts [.up, .degraded] * 2 ^ 24
    + s.countPorts jslPorts [.training, .retraining] * 2 ^ 16 + s.countPorts jslPorts [.failed] * 2 ^ 8 + ue * 2 ^ 4)

def SeamState.code : SeamState → Nat
  | .opened => 0 | .committing => 1 | .committed => 2 | .rollingBack => 3

/-- The seam domain of the kernel that holds a core. -/
def State.coreDomain (s : State) (core : Nat) : Option SeamDomain :=
  s.domain? (s.seamOf (s.core core).owner (s.core core).knum)

/-- CR_SEAMCTL (23 R410). -/
def State.seamCtlWord (s : State) : Word :=
  match s.coreDomain s.coreId with
  | some d => BitVec.ofNat 64 (d.id % 2 ^ 12 * 2 ^ 48 + d.state.code * 2 ^ 40 + d.logFull % 2 ^ 8 * 2 ^ 32 + d.interval % 2 ^ 32)
  | none => s.myCore.seamCtl

/-- What a listed control register reads as; none is an index not listed. CR_SEED reads the seed of the owner (11 R249), of whom each core keeps a copy. -/
def State.crRead (s : State) (index : Nat) : Option Word :=
  let a := s.ctx.arch
  let k := s.myCore.k
  match index with
  | 0x000 => some a.status
  | 0x001 => some a.cause
  | 0x002 => some a.epc
  | 0x003 => some a.tval
  | 0x004 => some k.tvec
  | 0x005 => some a.scratch
  | 0x006 => some a.repBase
  | 0x007 => some a.repCnt
  | 0x008 => some a.fcsr
  | 0x010 => some (BitVec.ofNat 64 s.coreId)
  | 0x011 => some (BitVec.ofNat 64 (s.ctx.rank % 2 ^ 16 + s.ctx.issueSlot % 2 ^ 6 * 2 ^ 16 + s.cur.2 % 2 ^ 6 * 2 ^ 22))
  | 0x012 => some (BitVec.ofNat 64 s.ctx.group)
  | 0x013 => some (BitVec.ofNat 64 (s.ctx.owner % 2 ^ 16 + s.ctx.domain % 2 ^ 12 * 2 ^ 16))
  | 0x014 => some (BitVec.ofNat 64 s.ctx.knum)
  | 0x018 => some (BitVec.ofNat 64 (s.die (dieOf s.coreId)).gct)
  | 0x020 => some (((s.owner? s.ctx.owner).map (·.seed)).getD k.seed)
  | 0x021 => some k.kseed
  | 0x024 => some a.tstamp
  | 0x028 => some s.myCore.carveWord
  | 0x030 => some a.fwdTag
  | 0x031 => some a.mcast
  | 0x032 => some k.backoff
  | 0x033 => some k.hboundLo
  | 0x034 => some k.hboundHi
  | 0x038 => some k.waitTmo
  | 0x039 => some k.btmo
  | 0x03A => some k.xtmo
  | 0x048 => some k.chunkCtl
  | 0x049 => some a.chunkStat
  | 0x060 => some s.linkStat
  | 0x070 => some s.plbCtl
  | 0x071 => some k.flogBase
  | 0x072 => some s.seamCtlWord
  | 0x073 => some s.myCore.rangeBase
  | 0x074 => some 0
  | 0x075 => some k.tdeleg
  | 0x076 => some ((s.die (dieOf s.coreId)).wdogPeriod.setWidth 64)
  | _ => none

/-- Registers that are RO at every level. -/
def crReadOnly (index : Nat) : Bool :=
  [0x006, 0x007, 0x010, 0x011, 0x012, 0x013, 0x014, 0x018, 0x021, 0x024, 0x028, 0x049, 0x060].contains index

/-- Registers only supervisor and machine level reach. -/
def crPrivileged (index : Nat) : Bool := 0x070 ≤ index && index ≤ 0x076

/-- The checks of 06 R138, ILLEGAL before PRIV. -/
def crCheck (index : Nat) (write : Bool) : M Unit := do
  let s ← get
  if (s.crRead index).isNone then illegal
  if write && crReadOnly index then illegal
  if s.isUser && (crPrivileged index || (write && index == 0x020)) then priv

/-! ### Writing control registers (06 R138 to R140, R151) -/

/-- CR_STATUS with its RW fields written: PDONE; REPACT cleared and never set; INH and PPRV above user level. Level 2 does not exist, and
a PPRV of 2 is not stored. -/
def statusWrite (old v : Word) : Word :=
  let st := putBits old 5 1 (bitsOf v 5 1)
  let st := if bitsOf v 8 1 = 0 then putBits st 8 1 0 else st
  if bitsOf old 0 2 = 0 then st
  else
    let st := putBits st 4 1 (bitsOf v 4 1)
    if bitsOf v 2 2 = 2 then st else putBits st 2 2 (bitsOf v 2 2)

/-- Drop every entry of a core's lookaside buffer (22 R378). -/
def State.flushPlb (s : State) (core : Nat) : State := s.mapCore core fun c => { c with plb := [] }

/-- A write to the watchdog's KICK (26 R434). -/
def State.kick (s : State) (die : Nat) : State := s.mapDie die fun d => { d with wdogKick := d.gct }

def State.setSeamCtl (s : State) (v : Word) : State :=
  match s.coreDomain s.coreId with
  | some d => s.mapDomain d.id fun d => { d with interval := bitsOf v 0 32, logFull := bitsOf v 32 8 }
  | none => s.mapCore s.coreId fun c => { c with seamCtl := v &&& 0xFFFFFFFFFF }

/-- Note what a register outside the context held, for a squash. -/
def State.undoable (s : State) (index : Nat) (old : Word) : State :=
  let n := getT 0 s.regSeq (regKey s.coreId index)
  { s.mapChunk (fun c => { c with kUndo := { index := index, old := old, seq := n + 1, prev := n } :: c.kUndo }) with
    regSeq := setT 0 s.regSeq (regKey s.coreId index) (n + 1) }

/-- Store into an RW register, its RW fields only. -/
def State.crWrite (s : State) (index : Nat) (v : Word) : State :=
  let d := dieOf s.coreId
  match index with
  | 0x000 => s.mapArch fun a => { a with status := statusWrite a.status v }
  | 0x001 => s.mapArch fun a => { a with cause := v &&& 0xFF }
  | 0x002 => s.mapArch fun a => { a with epc := putBits v 0 1 0 }
  | 0x003 => s.mapArch fun a => { a with tval := v }
  | 0x005 => s.mapArch fun a => { a with scratch := v }
  | 0x008 => s.mapArch fun a => { a with fcsr := v &&& 0x1FFF }
  | 0x030 => s.mapArch fun a => { a with fwdTag := v &&& 0x3FF }
  | 0x031 => s.mapArch fun a => { a with mcast := v }
  | 0x070 =>
    let s := { s with ptRoot := bitsOf v 21 31 * 2 ^ 21 }
    let s := s.mapCore s.coreId fun c => { c with plbEn := bitsOf v 0 1 == 1 }
    if bitsOf v 1 1 = 1 then s.flushPlb s.coreId else s
  | 0x072 => s.setSeamCtl v
  | 0x073 => s.mapCore s.coreId fun c => { c with rangeBase := v }
  | 0x074 => (s.undoable 0x074 (s.die d).capKey).mapDie d fun x => { x with capKey := v }
  | 0x076 =>
    let s := (s.undoable 0x176 (BitVec.ofNat 64 (s.die d).wdogKick)).undoable 0x076 ((s.die d).wdogPeriod.setWidth 64)
    let s := if s.prv = 3 then s.mapDie d fun x => { x with wdogPeriod := v.setWidth 32 } else s
    if bitsOf v 32 1 = 1 then s.kick d else s
  | _ =>
    let old := (s.crRead index).getD 0
    let s := (s.undoable index old).mapCore s.coreId fun c => { c with k := c.k.put index v }
    if index = 0x020 then
      (match s.owner? s.ctx.owner with | some o => s.putOwner { o with seed := v } | none => s)
    else s

/-- Writes that end the chunk first (06 R151). -/
def crEndsChunk (index : Nat) : Bool := [0x020, 0x070, 0x071, 0x072, 0x073, 0x075].contains index

/-- The shape of CRW, CRS and CRC: rd takes the old value (06 R151). In runahead the write is discarded (22 R386). -/
def crModify (i : Instr) (rd rs1 : Reg) (cr : BitVec 9) (f : Word → Word → Word) (s : State) : Host.Outcome State Fault Refusal :=
  complete i (do
    crCheck cr.toNat true
    if crEndsChunk cr.toNat then endChunk
    let v ← rdReg rs1
    let old := ((← get).crRead cr.toNat).getD 0
    if !(← get).ahead then modify (·.crWrite cr.toNat (f old v))
    wrReg rd old
    retire 4
    if crEndsChunk cr.toNat then modify (·.rebase)) s

/-- CRR: rd := the register (06 R151). -/
def execCrr (rd : Reg) (cr : BitVec 9) (s : State) : Host.Outcome State Fault Refusal :=
  complete (.crr rd cr) (do
    crCheck cr.toNat false
    wrReg rd (((← get).crRead cr.toNat).getD 0)
    retire 4) s

/-- CRW (06 R151). -/
def execCrw (rd rs1 : Reg) (cr : BitVec 9) (s : State) : Host.Outcome State Fault Refusal :=
  crModify (.crw rd rs1 cr) rd rs1 cr (fun _ v => v) s

/-- CRS (06 R151). -/
def execCrs (rd rs1 : Reg) (cr : BitVec 9) (s : State) : Host.Outcome State Fault Refusal :=
  crModify (.crs rd rs1 cr) rd rs1 cr (fun old v => old ||| v) s

/-- CRC (06 R151). -/
def execCrc (rd rs1 : Reg) (cr : BitVec 9) (s : State) : Host.Outcome State Fault Refusal :=
  crModify (.crc rd rs1 cr) rd rs1 cr (fun old v => old &&& ~~~v) s

/-! ### TRAP, BRK, ERET (06 R152, R153) -/

/-- TRAP: SYSCALL with CR_TVAL := s[rs1] and PDONE = 1; the context parks for lysa (06 R152). -/
def execTrap (rs1 : Reg) (s : State) : Host.Outcome State Fault Refusal :=
  match rdReg rs1 s with
  | .ok (v, t) => .next (t.trapDone (.trap rs1) causeSyscall v)
  | .error e => complete (.trap rs1) (fun _ => .error e) s

/-- BRK: BREAK with CR_TVAL := the code and PDONE = 1 (06 R152). -/
def execBrk (code : BitVec 9) (s : State) : Host.Outcome State Fault Refusal :=
  .next (s.trapDone (.brk code) causeBreak (code.setWidth 64))

/-- A held ROLLBACK notice is taken right after the ERET that clears INH (23 R403). -/
def State.takeNotice (s : State) : State :=
  match s.ctx.rollbackNotice with
  | none => s
  | some tag =>
    if s.ctx.arch.inh then s
    else
      let s := { s with ctx := { s.ctx with rollbackNotice := none } }
      if s.delegates causeRollback ∧ s.prv = 0 then
        (s.mapArch fun a => (a.recordTrap causeRollback (BitVec.ofNat 64 tag) false).enterDelegated s.myCore.k.tvec).rebase
      else s

/-- ERET (06 R153). -/
def execEret (s : State) : Host.Outcome State Fault Refusal :=
  complete .eret (do
    let a := (← get).ctx.arch
    if a.prv = 0 && !a.inh then illegal
    endChunk
    let a := (← get).ctx.arch
    let t := a.eretTarget
    modify (·.mapArch fun a => { a with status := a.eretStatus })
    eretRepetition t
    modify fun s => (s.mapArch fun a => ({ a with pc := t }.tickWindows).blockStep s.isBound true).countIns
    modify (·.takeNotice)) s

/-! ### NOP, SYNCI, CARVE, WFI (06 R154 to R156) -/

/-- NOP (06 R154). -/
def execNop (s : State) : Host.Outcome State Fault Refusal := complete .nop (retire 4) s

/-- The core's instruction cache drops the lines of [a, a + n), or all of them where n = 0. -/
def Core.dropL1i (c : Core) (a n : Nat) : Core :=
  { c with l1i := if n = 0 then [] else c.l1i.filter fun e => !(decide (a < 128 * e.1 + 128) && decide (128 * e.1 < a + n)) }

/-- SYNCI ends the chunk and invalidates lines of the instruction cache; fetches after it see every write that committed before it (06 R154). -/
def execSynci (rs1 rs2 : Reg) (s : State) : Host.Outcome State Fault Refusal :=
  complete (.synci rs1 rs2) (do
    let a ← rdReg rs1
    let n ← rdReg rs2
    endChunk
    modify fun s => s.mapCore s.coreId fun c => c.dropL1i a.toNat n.toNat
    retire 4) s

/-- CARVE asks for g granules (06 R155). -/
def execCarve (rd rs1 : Reg) (s : State) : Host.Outcome State Fault Refusal :=
  complete (.carve rd rs1) (do
    let g ← rdReg rs1
    endChunk
    let s ← get
    if g.toNat = 0 ∨ 8 < g.toNat then wrReg rd 1
    else if 8 * g.toNat < (s.resident s.coreId).length then wrReg rd 2
    else
      modify fun s => s.mapCore s.coreId fun c => { c with carveReq := g.toNat, carvePend := true }
      wrReg rd 0
    retire 4
    modify (·.rebase)) s

/-- May a pending carve-out take effect on a core: at most 8g contexts and no handler live there, and no copy or matrix command is in
flight to a granule that changes role (06 R155, 08 R180)? -/
def State.carveReady (s : State) (core : Nat) : Bool :=
  let c := s.core core
  decide ((s.resident core).length ≤ 8 * c.carveReq) && !(s.resident core).any (fun (_, _, x) => x.handling.isSome)

/-- The lowest TCM byte whose granule changes role. -/
def Core.carveFrom (c : Core) : Nat := min (tcmBytes c.carveCur) (tcmBytes c.carveReq)

def Core.carveTo (c : Core) : Nat := max (tcmBytes c.carveCur) (tcmBytes c.carveReq)

/-- Zero bytes of a core's TCM. -/
def State.zeroBytes (s : State) (loc n : Nat) : State :=
  { s with mem := s.mem.filter fun p => !(decide (loc ≤ p.1) && decide (p.1 < loc + n)) }

/-- Is a copy or matrix access in flight on the granules that change role? -/
def State.carveBusy (s : State) (core : Nat) : Bool :=
  let c := s.core core
  let lo := tcmWindow + c.carveFrom
  let n := c.carveTo - c.carveFrom
  n != 0 && c.transfers.any fun t => t.live && t.touches lo n

/-- The old contents of TCM lines that a carve-out zeroes are logged for the core's seam domain (23 R400). -/
def State.logLines (s : State) (core lo hi : Nat) : State :=
  let c := s.core core
  (List.range ((hi - lo) / 128)).foldl (fun s i => s.logUndo (s.seamOf c.owner c.knum) c.owner none (tcmLoc core lo / 128 + i)) s

/-- A context moves to another slot of its core's store, with all that names it by its slot (06 R135; DESIGN CHOICE, log 221). -/
def State.moveSlot (s : State) (core old new : Nat) : State :=
  let at' := fun k n => if k = core ∧ n = old then new else n
  let c := s.ctxAt core old
  let s : State := if s.cur = (core, old) then { s with cur := (core, new), ctxs := setT Context.free s.ctxs (ctxKey core new) Context.free }
    else (s.setCtxAt core old Context.free).setCtxAt core new c
  let s := s.mapCore core fun x => { x with
    watches := x.watches.map fun w => { w with slot := at' core w.slot }
    window := x.window.map fun e => { e with slot := at' core e.slot }
    transfers := x.transfers.map fun t => { t with slot := at' core t.slot } }
  { s with
    clusters := s.clusters.map fun (n, u) => (n, { u with queue := u.queue.map fun q => { q with slot := at' q.core q.slot } })
    links := { s.links with writes := s.links.writes.map fun w => { w with slot := at' w.core w.slot } }
    batches := s.batches.map fun b => { b with ctxs := b.ctxs.map fun (k, n) => (k, at' k n) }
    blocks := s.blocks.map fun b => { b with slot := at' b.core b.slot }
    agenda := s.agenda.map fun m => match m with
      | .run k n => .run k (at' k n)
      | .release k n => .release k (at' k n)
      | .unblocked k n => .unblocked k (at' k n)
      | m => m }

/-- The contexts of a store that has shrunk to g granules move from slots that it no longer has to its lowest free ones (06 R135). -/
def State.packSlots (s : State) (core g : Nat) : State :=
  ((s.resident core).filter fun (_, n, _) => 8 * g ≤ n).foldl (fun s (_, n, _) =>
    match (List.range (8 * g)).find? fun m => let c := s.ctxAt core m; c.life == .free || c.life == .retired with
    | some m => s.moveSlot core n m
    | none => s) s

/-- A GSYNC returns or a BWAIT returns DONE: a pending carve-out takes effect if it may (06 R155). -/
def State.tryCarve (s : State) (core : Nat) : State :=
  let c := s.core core
  if c.carvePend ∧ s.carveReady core then
    let s := s.logLines core c.carveFrom c.carveTo
    let s := s.zeroBytes (tcmLoc core c.carveFrom) (c.carveTo - c.carveFrom)
    (s.mapCore core fun c => { c with carveCur := c.carveReq, carvePend := false }).packSlots core c.carveReq
  else s

/-- WFI (06 R156): a message already queued wakes it at once, then a fired watch entry. -/
def execWfi (rd : Reg) (s : State) : Host.Outcome State Fault Refusal :=
  complete (.wfi rd) (do
    endChunk
    let s ← get
    let c := s.myCore
    if !c.queue.isEmpty then
      wrReg rd 0
      retire 4
    else if s.hasFired s.coreId s.cur.2 then
      wrReg rd 1
      retire 4
    else
      stop (.wait { kind := .wfi, rd := rd
                    deadline := if c.k.waitTmo = 0 then none else some ((s.die (dieOf s.coreId)).gct + c.k.waitTmo.toNat) })) s

/-! ### Ends of waits -/

/-- The lookahead of an instruction that ends by a later event (02 R43). -/
def waitLa : Instr → BitVec 4
  | .xwait _ _ _ _ la => la
  | .bwait _ _ _ la => la
  | .carryw _ _ _ la => la
  | .xcancel _ _ la => la
  | .regsw _ _ _ la => la
  | .reseed _ _ _ _ _ la => la
  | _ => 0

/-- A wait of a context ends: it writes rd, goes past its instruction and is READY. -/
def State.finishWait (s : State) (core slot : Nat) (v : Word) : State :=
  s.inSlot core slot fun s =>
    let w := s.ctx.wait
    let s := { s with ctx := { s.ctx with life := .ready, wait := {} } }
    match retireHanded 4 ((w.ins.map waitLa).getD 0) (.reg w.rd) (s.setReg w.rd v) with
    | .ok (_, t) => t
    | .error _ => s

/-- Has the deadline of a wait of this kind passed? -/
def State.expired (s : State) (core slot : Nat) (kind : WaitKind) : Bool :=
  let c := s.ctxAt core slot
  c.life == .waiting && c.wait.kind == kind
    && (match c.wait.deadline with | some t => decide (t ≤ (s.die (dieOf core)).gct) | none => false)

/-- WFI_TIMEOUT: CR_WAITTMO ticks have passed (06 R156). -/
def execWfiTimeout (core slot : Nat) (s : State) : Host.Outcome State Fault Refusal :=
  .next (if s.expired core slot .wfi then s.finishWait core slot 2 else s)

/-- SLEEP_TIMEOUT (09 R220). -/
def execSleepTimeout (core slot : Nat) (s : State) : Host.Outcome State Fault Refusal :=
  .next (if s.expired core slot .sleep then s.finishWait core slot 16 else s)

/-- XWAIT_TIMEOUT (18 R363). -/
def execXwaitTimeout (core slot : Nat) (s : State) : Host.Outcome State Fault Refusal :=
  .next (if s.expired core slot .xwait then s.finishWait core slot 4 else s)

/-- CARRYW_TIMEOUT (24 R423). -/
def execCarrywTimeout (core slot : Nat) (s : State) : Host.Outcome State Fault Refusal :=
  .next (if s.expired core slot .carryw then s.finishWait core slot 0 else s)

/-- SYSCALL_SERVICE: lysa writes its answer into s4, all ones for a code it does not serve, and the context resumes after the
TRAP (06 R152). -/
def execSyscallService (core slot : Nat) (s : State) : Host.Outcome State Fault Refusal :=
  let c := s.ctxAt core slot
  if c.life = .parked ∧ c.wait.kind = .syscall ∧ !c.preempted then
    .next (s.inSlot core slot fun s =>
      let a := s.ctx.arch
      let a := { (a.setReg 4 ((Config.syscallAnswer a.tval).getD (BitVec.allOnes 64))) with
        pc := a.epc + 4, status := putBits a.status 5 1 0 }
      ({ s with ctx := { s.ctx with life := .ready, wait := {}, arch := a, chunk := freshChunk s.myCore.k a } } : State).takeNotice)
  else .next s

end Sys2Proof.Machine
end

