-- ==== Sys2Proof/Machine/Message.lean ====
section
/-!
DEFINITION. Sys2Proof/Machine/Message.lean: messages, receive queues, replay windows, dispatch, and the MSG major but the
carries (08), with replies to device threads (07 R170) and the end of kernels (07 R164, 08 R175).
-/

namespace Sys2Proof.Machine

/-! ### Kernels and their cores -/

/-- Does an owner's kernel hold this core? -/
def State.heldBy (s : State) (owner core : Nat) : Bool :=
  let c := s.core core
  c.knum != 0 && c.owner == owner && !isReserved core

/-! ### The receive queue (08 R174, R186) -/

/-- EMPTY, OPEN, FULL, CLOSED, DRAINED. -/
def Core.queueState (c : Core) : Nat :=
  match c.queueMode with
  | .closed => 3
  | .drained => 4
  | .active => if c.queue.isEmpty then 0 else if 64 ≤ c.queue.length then 2 else 1

/-- Is sequence s below NEXT? -/
def seqBelow (next s : Nat) : Bool := let d := (next + 2 ^ 48 - s) % 2 ^ 48; 1 ≤ d && d ≤ 2 ^ 47

/-- What becomes of a message at its destination (08 R177). -/
inductive Arrival where
  | enqueued | nacked | refused
  deriving DecidableEq, Repr

/-- The checks on arrival: handler bounds, pinned sequence, space (08 R177, R186). -/
def State.probe (s : State) (dst handler stamp : Nat) : Arrival :=
  let c := s.core dst
  let pinned := ((s.kernelOf dst).map Kernel.pinned).getD false
  let seq := seqOf stamp
  if handler % 2 = 1 ∨ handler < c.k.hboundLo.toNat ∨ c.k.hboundHi.toNat ≤ handler then .refused
  else if pinned ∧ (seqBelow c.next.toNat seq ∨ c.queue.any (fun q => seqOf q.stamp == seq)) then .refused
  else if c.queueMode ≠ .active then .nacked
  else if c.queue.length < (if pinned ∧ seq ≠ c.next.toNat then 63 else 64) then .enqueued
  else .nacked

/-- Log an input that enters a domain from outside it (23 R406). -/
def State.logInput (s : State) (dom : Nat) (i : Input) : State := s.mapDomain dom fun d => { d with inputs := d.inputs ++ [i] }

/-- The seam domain of the kernel that holds a core, 0 if none. -/
def State.seamAt (s : State) (core : Nat) : Nat := s.seamOf (s.core core).owner (s.core core).knum

/-- Put a message into a queue; a WFI of the core's kernel wakes with 0 (06 R156). A message from outside the receiving domain is one of its
inputs (23 R406). -/
def State.enqueue (s : State) (dst : Nat) (e : QueueEntry) : State :=
  let s := if s.seamAt dst = s.seamAt e.sender then s else s.logInput (s.seamAt dst) (.message dst e)
  let s := s.mapCore dst fun c => { c with queue := c.queue ++ [e] }
  (s.allCtxs.filter fun (core, _, c) => core == dst && c.life == .waiting && c.wait.kind == .wfi).foldl
    (fun s (core, slot, _) => s.finishWait core slot 0) s

/-- The image's fields. -/
def imageHandler (img : List Byte) : Nat := ofLeBytes (img.take 8)
def imageStamp (img : List Byte) : Nat := ofLeBytes ((img.drop 8).take 8)

/-- The queue entry a message makes. -/
def entryOf (img : List Byte) (sender : Nat) (key : TaskKey) : QueueEntry :=
  { handler := imageHandler img, stamp := imageStamp img, payload := img.drop 16, sender := sender, key := key }

/-! ### The end of kernels (07 R164, R168, R169, 08 R175) -/

/-- Resend number a of a copy takes place this many ticks after the NACK it answers (08 R178). -/
def resendDelay (backoff : Word) (a : Nat) : Nat :=
  let base := bitsOf backoff 0 16
  (if base = 0 then 1 else base) * 2 ^ (min (a - 1) (bitsOf backoff 16 4))

/-- A reply cannot be delivered: an entry of ETYPE 2 and nothing else (07 R170). -/
def State.replyDropped (s : State) (owner knum core chand : Nat) : State :=
  s.recordEvent owner knum
    { cause := causeBounds, etype := 2, eflags := 0, core := core, group := 0, rank := 0xFFFFFFFF, port := 0, pc := 0, value := chand }

/-- Transmit a reply, or try it again: it is enqueued, dropped, or waits in lysa's replay window (07 R170), where one that has been NACKed stands before
the later ones (08 R178). -/
def State.sendReply (s : State) (e : SendEntry) : State :=
  let handler := imageHandler e.image
  let c := s.core e.dst
  if !(c.owner == e.owner && c.knum == e.knum) then s.replyDropped e.owner e.knum e.dst handler
  else if s.replies.any (·.dst == e.dst) ∧ e.attempts = 0 ∧ e.due.isNone then { s with replies := s.replies ++ [{ e with attempts := 1 }] }
  else match s.probe e.dst handler (imageStamp e.image) with
    | .enqueued => s.enqueue e.dst (entryOf e.image (128 * (Config.replyDie e.slot).val + 127) e.key)
    | .refused => s.replyDropped e.owner e.knum e.dst handler
    | .nacked =>
      let a := max 1 (e.attempts + (if e.due.isSome then 1 else 0))
      { s with replies := { e with attempts := a, due := some ((s.die (dieOf e.dst)).gct + resendDelay c.k.backoff a) } :: s.replies }

/-- Answer a request or announce an end: to the endpoint outside, or as a message to the device thread's core (07 R169, R170). -/
def State.answer (s : State) (source : Source) (chand : Nat) (domain : Nat) (reply : List Byte) : State :=
  match source with
  | .host ep =>
    let s := s.askUe (ofLeBytes ((reply.drop 2).take 2))
    { s with outputs := s.outputs ++ [{ endpoint := ep, bytes := reply, domain := domain, held := domain != 0 }] }
  | .device core owner knum =>
    if chand = 0 then s
    else
      let n := s.fresh
      let stamp := (Config.replyStamp n).toNat
      ({ s with fresh := n + 1 }).sendReply
        { dst := core, image := leBytes 8 chand ++ leBytes 8 stamp ++ reply, owner := owner, knum := knum, slot := n, group := 0
          rank := 0xFFFFFFFF, pc := 0, key := .task stamp (.root 0 0) n, attempts := 0, due := none }

/-- The reply about a kernel. -/
def State.kernelReply (s : State) (k : Kernel) (kind status : Nat) : List Byte :=
  s.replyBytes kind status k.owner k.state.code k.node k.tag k.knum k.nfault (s.frecOf k)

/-- The cores a kernel holds are no one's. -/
def State.clearCores (s : State) (k : Kernel) : State :=
  k.held.foldl (fun s c => s.mapCore c fun x => { x with
    owner := 0, domain := 0, knum := 0, group := 0, queueMode := .drained, queue := [], window := [], carvePend := false
    transfers := [], matFlags := 0, watches := [] }) s

/-- Give back what a kernel holds (07 R164, 17 R334). -/
def State.releaseCores (s : State) (k : Kernel) : State :=
  let s := (s.clearCores k).freeSlots k.held
  { s with
    links := { s.links with writes := (s.links.writes.filter fun w => !(w.owner == k.owner && w.knum == k.knum && w.state == .lost)).map fun w =>
      if w.owner = k.owner ∧ w.knum = k.knum then { w with slot := noSlot } else w } }

/-- Free a seam domain's id, with the memory of its undo log, when its last kernel has ended (23 R396). -/
def State.freeDomain (s : State) (id : Nat) : State :=
  if s.allKernels.any (fun k => k.seamDomain == id && k.state != .done && k.state != .aborted && k.state != .queued) then s
  else
    let log := (s.domain? id).map (·.logBase)
    { s with domains := s.domains.filter (·.id != id), frames := s.frames.filter fun (_, b, _) => some b != log }

/-- A kernel reaches DONE or ABORTED: its cores are released and its COMPLETE is sent (07 R164, R168). -/
def State.finishKernel (s : State) (k : Kernel) : State :=
  let s := s.releaseCores k
  let k := { k with
    state := if k.aborting then .aborted else .done
    held := [], groups := k.groups.map (fun g => { g with state := .released }), completeSent := true }
  let s := s.putKernel k
  let s := s.answer k.source k.chand 0 (s.kernelReply k 0x82 (if k.aborting then k.status else stOk))
  if k.seamDomain = 0 then s else s.freeDomain k.seamDomain

/-- Does a context of the kernel live? -/
def State.hasLive (s : State) (k : Kernel) : Bool :=
  (s.ctxsOf k.owner k.knum).any fun (_, _, c) => c.life != .retired

/-- The kernel's queues and replay windows are empty and no context lives (08 R175). -/
def State.quiet (s : State) (k : Kernel) : Bool :=
  !s.hasLive k && k.held.all fun c => (s.core c).queue.isEmpty && (s.core c).window.isEmpty

/-- Does a kernel of the domain live that is not DRAINING? -/
def State.domainRuns (s : State) (dom : Nat) : Bool := (s.domainKernels dom).any fun j => j.state != .draining

/-- Move one kernel on towards its end: RUNNING to DRAINING, and DRAINING to its end when its engines are idle. In a seam domain the seam
after its last commit ends it (07 R164). The draining of the domain's last kernel triggers a seam, which releases what its transfers wait for, and, once they have
drained, the one that ends it (23 R398). A kernel that was aborted is DRAINING too until that seam: DEDUCED, log 217. -/
def State.advanceKernel (s : State) (k : Kernel) : State :=
  let drains := k.state == .running && s.quiet k
  let k := if drains then { k with state := .draining } else k
  let s := if drains then s.putKernel k else s
  if k.state ≠ .draining then s
  else if (s.domain? k.seamDomain).isNone then (if s.enginesBusy k then s else s.finishKernel k)
  else if (!drains ∧ s.enginesBusy k) ∨ s.domainRuns k.seamDomain then s
  else s.trigger k.seamDomain 0

/-- Move every kernel on towards its end. -/
def State.endKernels (s : State) : State := s.allKernels.foldl (fun s k => s.advanceKernel k) s

/-! ### Sending (08 R176 to R178, R190) -/

/-- The key under which a context's messages are ordered (08 R181). -/
def Context.key (c : Context) : TaskKey :=
  match c.handling with
  | some h => if h.freeMode then h.key else .root c.group c.rank
  | none => .root c.group c.rank

/-- LEN of a descriptor (08 R189). -/
def descLen (d : Word) : Nat := bitsOf d 16 9

/-- Is a descriptor invalid (08 R189)? -/
def descBad (d : Word) (isSend : Bool) : Bool :=
  bitsOf d 25 39 != 0 || bitsOf d 10 6 != 0 || descLen d % 8 != 0 || decide (descLen d < 16) || decide (256 < descLen d)
    || (bitsOf d 9 1 == 1 && descLen d != 80) || (!isSend && bitsOf d 0 10 != 0)

/-- Read n doublewords of an image upward, each as Mem.read (08 R190). -/
def readWords : (n va : Nat) → M (List Byte)
  | 0, _ => pure []
  | n + 1, va => do
    let v ← memRead (va % 2 ^ 64) 8
    return leBytes 8 v ++ (← readWords n (va + 8))

/-- The request of 07 R167 in the payload of a message to the launch endpoint. -/
def requestOf (b : List Byte) (source : Source) : Request :=
  let f := fun o n => ofLeBytes ((b.drop o).take n)
  { op := f 0 1, mflags := f 1 1, owner := f 2 2, rcb := f 8 8, tag := f 16 8, cred := f 24 32, chand := f 56 8, source := source }

/-- How one copy is handled: enqueued, or into the replay window behind an earlier copy or after a NACK, or refused. -/
def State.planCopy (s : State) (dst : Nat) (img : List Byte) : Arrival :=
  if s.myCore.window.any (·.dst == dst) then .nacked else s.probe dst (imageHandler img) (imageStamp img)

/-- The key a message of the executing context has. -/
def State.sendKey (s : State) (img : List Byte) (index : Nat) : TaskKey := .task (imageStamp img) s.ctx.key index

/-- One copy takes an entry of the executing core's replay window: one that waits behind an earlier copy to its destination is not transmitted yet, another
has been NACKed (08 R178). -/
def State.keepCopy (s : State) (dst : Nat) (img : List Byte) (index : Nat) (behind : Bool) : State :=
  s.mapCore s.coreId fun c => { c with
    window := c.window ++ [{ dst := dst, image := img, owner := s.ctx.owner, knum := s.ctx.knum, slot := s.cur.2
                             group := s.ctx.group, rank := if s.ctx.handling.isSome then 0xFFFFFFFF else s.ctx.rank
                             pc := s.ctx.arch.pc.toNat, key := s.sendKey img index, attempts := if behind then 0 else 1
                             due := if behind then none else some ((s.die (dieOf s.coreId)).gct + resendDelay c.k.backoff 1) }] }

/-- The executing core has received a NACK. -/
def State.countNack (s : State) : State := s.mapCore s.coreId fun c => { c with nacks := c.nacks + 1 }

/-- Is the replay window of the executing core full? -/
def State.windowFull (s : State) : Bool := decide (16 ≤ s.myCore.window.length)

/-- Deal with one copy of a send: it is delivered, takes a window entry, is refused, or, where it needs an entry and all 16 are in use, is left
over (08 R178); `nacked` are those that have been NACKed and only wait for an entry. -/
def sendOne (x : State × Sending) (dst : Nat) : State × Sending :=
  let (s, p) := x
  let later : Sending := { p with left := p.left ++ [dst] }
  if p.nacked.contains dst then (if s.windowFull then (s, later) else (s.keepCopy dst p.image p.index false, p))
  else
    match s.planCopy dst p.image with
    | .refused => (s, { p with refused := p.refused ++ [dst] })
    | .enqueued => ((s.askNetwork s.ctx.owner s.coreId dst).enqueue dst (entryOf p.image s.coreId (s.sendKey p.image p.index)), p)
    | .nacked =>
      let behind := s.myCore.window.any (·.dst == dst)
      let t := if behind then s else (s.askNetwork s.ctx.owner s.coreId dst).countNack
      if s.windowFull then (t, { later with nacked := if behind then p.nacked else dst :: p.nacked }) else (t.keepCopy dst p.image p.index behind, p)

/-- Deal with every copy that is left. -/
def State.sendLeft (s : State) (p : Sending) : State × Sending := p.left.foldl sendOne (s, { p with left := [] })

/-- The common part of SEND, SENDM and SPAWN (08 R190): `dests` gives the destinations once the chunk has ended and the image is
read. A send that waited for an entry goes on with the copies it had left. -/
def sendCopies (rs1 rs2 : Reg) (isSend : Bool) (early : M Unit) (dests : Word → Nat → M (List Nat)) : M Sending := do
  let t ← get
  if let some p := t.ctx.sending then
    let (t, p) := t.sendLeft p
    set t
    return p
  let d ← rdReg rs1
  let a ← rdReg rs2
  if descBad d isSend then illegal
  early
  endChunk
  let raw ← readWords (descLen d / 8) a.toNat
  let index := (← get).ctx.arch.msgIndex.toNat
  let stamp := imageStamp raw / 2 ^ 16 * 2 ^ 16 + index % 2 ^ 16
  let img := raw.take 8 ++ leBytes 8 stamp ++ raw.drop 16
  let ds ← dests d stamp
  let (s, p) := (← get).sendLeft { dests := ds, image := img, index := index, left := ds, refused := [], nacked := [] }
  set (s.mapArch fun a => { a with msgIndex := a.msgIndex + 1 })
  return p

/-- A send ends: its result, or BOUNDS after every copy has been answered (08 R177, R190). One with copies left over waits for an entry to free;
what it has done stands. -/
def completeSend (i : Instr) (la : BitVec 4) (rd : Reg) (m : M Sending) (result : Sending → Word) (note : Sending → Arch → Arch) (s : State) :
    Host.Outcome State Fault Refusal :=
  match m s with
  | .ok (r, t) =>
    let t : State := { t with ctx := { t.ctx with sending := if r.left.isEmpty then none else some r } }
    if !r.left.isEmpty then
      .next { t.rebase with ctx := { t.rebase.ctx with life := .waiting, wait := { kind := .replayEntry, ins := some i } } }
    else if r.refused.isEmpty then complete i (fun _ => (do wrReg rd (result r); retireHanded 4 la (.reg rd) : M Unit) t) s
    else .next ((t.mapArch (note r)).takeTrap i causeBounds (BitVec.ofNat 64 (imageHandler r.image)) false 0 [])
  | .error e => complete i (fun _ => .error e) s

/-- PARTITION with the core id (08 R176). -/
def raisePartition {α : Type} (core : Nat) : M α := raise causePartition core

/-- SEND to one core or to the launch endpoint (08 R190, 07 R170). -/
def execSend (rd rs1 rs2 : Reg) (la : BitVec 4) (s : State) : Host.Outcome State Fault Refusal :=
  completeSend (.send rd rs1 rs2 la) la rd
    (do
      let r ← sendCopies rs1 rs2 true (pure ()) (fun d _ => do
        if bitsOf d 9 1 = 1 then return []
        let dst := bitsOf d 0 9
        if !(← get).heldBy (← get).ctx.owner dst then raisePartition dst
        return [dst])
      let d ← rdReg rs1
      if bitsOf d 9 1 = 1 then
        modify fun s => { s with requests := s.requests ++ [requestOf (r.image.drop 16) (.device s.coreId s.ctx.owner s.ctx.knum)] }
      return r)
    (fun r => BitVec.ofNat 64 (imageStamp r.image)) (fun _ a => a) s

/-- The group of the executing context. -/
def State.myGroup (s : State) : Option Group :=
  (s.kernel? s.ctx.owner s.ctx.knum).bind fun k => k.groups.find? (·.index == s.ctx.group)

/-- SENDM: one copy to each core of the mask at CR_MCAST (08 R187). -/
def execSendm (rd rs1 rs2 : Reg) (la : BitVec 4) (s : State) : Host.Outcome State Fault Refusal :=
  completeSend (.sendm rd rs1 rs2 la) la rd
    (sendCopies rs1 rs2 false (pure ()) (fun _ _ => do
      let m ← readWords 8 (← get).ctx.arch.mcast.toNat
      let ds := bitsSet 512 (ofLeBytes m)
      let mine := ((← get).myGroup.map (·.cores)).getD []
      match ds.find? fun x => !mine.contains x with
      | some x => raisePartition x
      | none => pure ()
      let t ← get
      match ds.find? fun x => !t.heldBy t.ctx.owner x with
      | some x => raisePartition x
      | none => return ds))
    (fun r => BitVec.ofNat 64 r.dests.length) (fun r a => { a with refused := r.refused.min? }) s

/-- The cores a kernel holds, ascending. -/
def State.heldCores (s : State) (owner knum : Nat) : List Nat :=
  (List.range 512).filter fun c => (s.core c).owner == owner && (s.core c).knum == knum && knum != 0

/-- SPAWN: the destination is drawn from the stamp it sends (08 R184); ILLEGAL in pinned-pipeline mode (R185). -/
def execSpawn (rd rs1 rs2 : Reg) (la : BitVec 4) (s : State) : Host.Outcome State Fault Refusal :=
  completeSend (.spawn rd rs1 rs2 la) la rd
    (sendCopies rs1 rs2 false (do
        let s ← get
        if ((s.kernel? s.ctx.owner s.ctx.knum).map Kernel.pinned).getD false then illegal)
      (fun _ stamp => do
        let s ← get
        let n := (stamp % 2 ^ 32) ^^^ (stamp / 2 ^ 32)
        return (pick (s.heldCores s.ctx.owner s.ctx.knum) (draw s.myCore.k.kseed s.ctx.owner classL2Slice n)).toList))
    (fun r => BitVec.ofNat 64 (imageStamp r.image)) (fun _ a => a) s

/-! ### DONE, YIELD, QSTAT (08 R191 to R193) -/

/-- A rank of a group retires: ranks that wait in a collective of the group, or come to one later, raise TIMEOUT (14 R277). -/
def Group.retireRank (g : Group) (rank : Nat) : Group := { g with retired := insertN rank g.retired }

/-- The rank a failed instance reports: the lowest rank that has retired (14 R277). An instance that a rank has retired before
fails for good, and no later one begins. -/
def Group.lostRank (g : Group) : Option Nat := g.retired.min?.or g.lost

/-- CR_TVAL of a collective's TIMEOUT after a retirement: the lowest retired rank, and bit 63 (14 R277). -/
def Group.retiredTval (g : Group) : Option Nat := g.lostRank.map fun r => r % 2 ^ 16 + 2 ^ 63

/-- The group's instance has failed. -/
def State.failInstance (s : State) (owner knum group : Nat) : State :=
  s.mapKernel owner knum fun k => { k with groups := k.groups.map fun g => if g.index = group then { g with lost := g.lostRank } else g }

/-- Every rank that waits in a collective of a group takes TIMEOUT. -/
def State.collectiveLost (s : State) (owner knum group tval : Nat) : State :=
  let waiting := (s.ctxsOf owner knum).filter fun (_, _, c) => c.group == group && c.life == .waiting && c.wait.kind == .collective
  waiting.foldl
    (fun s (core, slot, c) => s.inSlot core slot fun s =>
      let s := { s with ctx := { s.ctx with life := .ready, wait := {} } }
      s.takeTrap (c.wait.ins.getD .gsync) causeTimeout (BitVec.ofNat 64 tval) false 0 [])
    (if waiting.isEmpty then s else s.failInstance owner knum group)

/-- The executing context retires: its cloak is released, its watch entries and payload block are freed (08 R191, 15 R292, 09 R219). -/
def State.retireContext (s : State) : State :=
  let c := s.ctx
  let slot := s.cur.2
  let s := { s with ctx := { Context.free with life := .retired } }
  let s := (s.mapCore s.coreId fun k => { k with watches := k.watches.filter (·.slot != slot) }).orphanWrites s.coreId slot
  if c.handling.isSome then s
  else
    let s := s.mapKernel c.owner c.knum fun k => { k with groups := k.groups.map fun g => if g.index = c.group then g.retireRank c.rank else g }
    match ((s.kernel? c.owner c.knum).bind fun k => k.groups.find? (·.index == c.group)).bind Group.retiredTval with
    | some t => s.collectiveLost c.owner c.knum c.group t
    | none => s

/-- What DONE does (08 R191). -/
def doneWork : M Unit := do
  endChunk
  modify fun s => (s.retireContext.wakeRetries).endKernels

/-- DONE (08 R191). -/
def execDone (s : State) : Host.Outcome State Fault Refusal := complete .done doneWork s

/-- C.DONE (02 R42). -/
def execCDone (s : State) : Host.Outcome State Fault Refusal := complete .cDone doneWork s

/-- A fetch from address 0 by a user-level thread performs DONE; above user level it raises PAGEFAULT (06 R134). -/
def execFetchFromAddressZero (s : State) : Host.Outcome State Fault Refusal :=
  complete .fetchFromAddressZero (do
    if (← get).isUser then doneWork else stop (.trap causePageFault 0 2)) s

/-- YIELD: the slot is given up, and rd takes the number of queued entries (08 R192). -/
def execYield (rd : Reg) (s : State) : Host.Outcome State Fault Refusal :=
  complete (.yield rd) (do
    endChunk
    wrReg rd (BitVec.ofNat 64 (← get).myCore.queue.length)
    retireDone 4
    modify fun s => { s with ctx := { s.ctx with life := .ready } }) s

/-- QSTAT (08 R193). -/
def execQstat (rd : Reg) (sel : BitVec 3) (la : BitVec 4) (s : State) : Host.Outcome State Fault Refusal :=
  complete (.qstat rd sel la) (do
    let s ← get
    let c := s.myCore
    let pinned := ((s.kernel? s.ctx.owner s.ctx.knum).map Kernel.pinned).getD false
    let v := match sel.toNat with
      | 0 => c.queue.length
      | 1 => c.queueState
      | 2 => c.window.length
      | 3 => c.nacks
      | 4 => if pinned then 0 else (s.tasksOf s.ctx.owner s.ctx.knum).length
      | 5 => c.lost
      | 6 => if pinned then c.next.toNat else 0
      | _ => match s.ctx.arch.refused with | some r => r % 512 + 2 ^ 63 | none => 0
    wrReg rd (BitVec.ofNat 64 v)
    retireLong 4 la (.reg rd)) s

/-! ### Arrival, resend and dispatch -/

/-- Transmit the entry at a place of a core's window: enqueued, NACKed again, or refused, or dropped when the destination is no
longer held (08 R178, R182). -/
def State.transmit (s : State) (core n : Nat) : State :=
  match (s.core core).window[n]? with
  | none => s
  | some e =>
    let drop := fun (s : State) => s.mapCore core fun c => { c with window := c.window.eraseIdx n }
    if !s.heldBy e.owner e.dst then (drop (s.mapCore core fun c => { c with lost := c.lost + 1 })).wakeRetries.endKernels
    else
      let s := s.askNetwork e.owner core e.dst
      match s.probe e.dst (imageHandler e.image) (imageStamp e.image) with
      | .enqueued => ((drop s).enqueue e.dst (entryOf e.image core e.key)).wakeRetries
      | .nacked =>
        s.mapCore core fun c => { c with
          nacks := c.nacks + 1
          window := c.window.set n { e with
            attempts := e.attempts + 1, due := some ((s.die (dieOf core)).gct + resendDelay c.k.backoff (e.attempts + 1)) } }
      | .refused =>
        let s := (drop s).recordEvent e.owner e.knum
          { cause := causeBounds, etype := 1, eflags := 0, core := core, group := e.group, rank := e.rank, port := 0, pc := e.pc
            value := imageHandler e.image }
        ((s.kernelFaulted e.owner e.knum).wakeRetries).endKernels

/-- Is the entry at a place the first of its destination? -/
def firstFor (w : List SendEntry) (n : Nat) : Bool :=
  match w[n]? with
  | some e => !(w.take n).any (·.dst == e.dst)
  | none => false

/-- The core id that stands for lysa's own replay window in the two events below (07 R170). -/
def lysaCore : Nat := 0x07F

/-- Take a reply out of lysa's window and send it again. -/
def State.retryReply (s : State) (n : Nat) : State :=
  match s.replies[n]? with
  | none => s
  | some e => ({ s with replies := s.replies.eraseIdx n }).sendReply e

/-- MESSAGE_ARRIVAL: the first copy of a core for a destination that has not been transmitted arrives (08 R177, R178). -/
def execMessageArrival (src dst : Nat) (s : State) : Host.Outcome State Fault Refusal :=
  let w := if src = lysaCore then s.replies else (s.core src).window
  match w.findIdx? (·.dst == dst) with
  | some n =>
    if ((w[n]?).map (·.due.isNone)).getD false ∧ !s.lockStands then .next (if src = lysaCore then s.retryReply n else s.transmit src n)
    else .next s
  | none => .next s

/-- MESSAGE_RESEND: the back-off of a window entry has expired (08 R178). -/
def execMessageResend (core entry : Nat) (s : State) : Host.Outcome State Fault Refusal :=
  let w := if core = lysaCore then s.replies else (s.core core).window
  match w[entry]? with
  | some e =>
    match e.due with
    | some t =>
      if t ≤ (s.die (dieOf (if core = lysaCore then e.dst else core))).gct ∧ firstFor w entry ∧ !s.lockStands then
        .next (if core = lysaCore then s.retryReply entry else s.transmit core entry)
      else .next s
    | none => .next s
  | none => .next s

/-- The context of a handler at its start (06 R133, 08 R179, R180). -/
def State.handlerContext (s : State) (core block : Nat) (q : QueueEntry) (freeMode : Bool) : Context :=
  let c := s.core core
  let top := tcmWindow + tcmBytes c.carveCur
  let regs := ((((Arch.zero.regs.set 1 (BitVec.ofNat 64 (top - 256 * (block + 1)))).set 2 (BitVec.ofNat 64 q.payload.length)).set 3
    (BitVec.ofNat 64 q.sender)).set 4 (BitVec.ofNat 64 q.stamp)).set 13 (BitVec.ofNat 64 top)
  let a := { Arch.zero with regs := regs, pc := BitVec.ofNat 64 q.handler, tstamp := BitVec.ofNat 64 q.stamp }
  { Context.free with
    life := .ready, arch := a, chunk := freshChunk c.k a, owner := c.owner, domain := c.domain, knum := c.knum, group := c.group
    handling := some { sender := q.sender, stamp := q.stamp, key := q.key, block := block, freeMode := freeMode, firstChunk := true } }

/-- MESSAGE_DISPATCH: a queued entry gets a context and a payload block, and its handler starts (08 R179). -/
def execMessageDispatch (core : Nat) (s : State) : Host.Outcome State Fault Refusal :=
  match s.dispatchable core, s.freeSlot core, s.freeBlock core with
  | some q, some slot, some block =>
    let pinned := ((s.kernelOf core).map Kernel.pinned).getD false
    let s := s.mapCore core fun c => { c with queue := c.queue.erase q, next := if pinned then c.next + 1 else c.next }
    let loc := tcmLoc core (tcmBytes (s.core core).carveCur - 256 * (block + 1))
    let s := s.foreignWrite (s.seamOf (s.core core).owner (s.core core).knum) (s.core core).owner loc (loc / 128)
      (q.payload ++ List.replicate (256 - q.payload.length) 0)
    .next (s.setCtxAt core slot (s.handlerContext core block q (!pinned)))
  | _, _, _ => .next s

/-- The contexts of a core that contend for its issuing slots. -/
def State.readyOn (s : State) (core : Nat) : List (Nat × Nat) :=
  ((List.range 64).filter fun n => (s.ctxAt core n).life == .ready && !(s.ctxAt core n).preempted).map fun n => (core, n)

/-- SLOT_SELECTION: the READY context that the core's arbiter chooses enters a free issuing slot and becomes RUNNING (06 R132); any other waits. -/
def execSlotSelection (core slot : Nat) (s : State) : Host.Outcome State Fault Refusal :=
  let used := (s.allCtxs.filter fun (k, n, x) => k == core && n != slot && (x.life == .running || x.life == .runahead)).map fun (_, _, x) => x.issueSlot
  match (List.range 8).find? fun n => !used.contains n with
  | some n =>
    let (chosen, t) := s.chooseCtx 2 (coreArbiter core) (s.readyOn core)
    if chosen = some (core, slot) then .next (t.setCtxAt core slot { s.ctxAt core slot with life := .running, issueSlot := n }) else .next s
  | none => .next s

end Sys2Proof.Machine
end

