-- ==== Sys2Proof/Machine/Tile.lean ====
section
/-!
DEFINITION. Sys2Proof/Machine/Tile.lean: handles as operands: the checks of 02 R21 and 16 R302, element addresses (02 R51, 10 R225),
element and scale accesses on the core path (16 R300, R301, R308, R309), and the delivery of results into a window (R305).
-/

namespace Sys2Proof.Machine

/-! ### A handle as an operand (02 R20 to R22) -/

/-- A handle operand, field by field, with its effective window. An immediate is one element (16 R301). -/
structure Tile where
  reg : HReg
  space : Nat
  fmt : Nat
  base : Nat
  fwd : Bool
  rows : Nat
  cols : Nat
  stride : Int
  sbase : Nat
  row0 : Nat
  col0 : Nat
  er : Nat
  ec : Nat
  null : Bool
  deriving DecidableEq, Repr

def spTcm : Nat := 0
def spPad : Nat := 1
def spGlobal : Nat := 2
def spBstore : Nat := 3
def spAcc : Nat := 4
def spRemote : Nat := 5
def spImm : Nat := 6

/-- Read a handle as an operand. -/
def Tile.of (r : HReg) (h : HWord) : Tile :=
  let rows := handleAt h 3
  let cols := handleAt h 4
  let row0 := handleAt h 7
  let col0 := handleAt h 8
  let wr := handleAt h 9
  let wc := handleAt h 10
  let imm := handleAt h 1 == spImm
  let empty := rows == 0 || cols == 0
  { reg := r, space := handleAt h 1, fmt := handleAt h 2, base := handleAt h 0, fwd := handleAt h 11 == 1, rows := rows
    cols := cols, stride := signed (handleAt h 5) 32, sbase := handleAt h 6, row0 := row0, col0 := col0
    er := if imm then 1 else if empty then 0 else if wr ≠ 0 then wr else rows - row0
    ec := if imm then 1 else if empty then 0 else if wc ≠ 0 then wc else cols - col0
    null := h == 0 }

def Tile.isImm (t : Tile) : Bool := t.space == spImm

/-- The format; a code that R21 refuses reads as FP32. -/
def Tile.form (t : Tile) : Fmt := (Fmt.ofCode t.fmt).getD .fp32

def Tile.isEmpty (t : Tile) : Bool := t.er == 0 || t.ec == 0

/-- The reason R21 refuses a handle, if it does. -/
def handleReason (h : HWord) : Option Nat :=
  let t := Tile.of 0 h
  let wr := handleAt h 9
  let wc := handleAt h 10
  if bitsOf h 248 8 ≠ 0 ∨ bitsOf h 176 8 ≠ 0 ∨ bitsOf h 56 8 ≠ 0 then some 0
  else if t.space = 7 then some 1
  else if 12 ≤ t.fmt then some 2
  else if t.space ≠ spImm ∧ 0 < t.rows ∧ 0 < t.cols
      ∧ (t.rows ≤ t.row0 ∨ t.cols ≤ t.col0 ∨ t.rows < t.row0 + wr ∨ t.cols < t.col0 + wc) then some 3
  else none

/-- HANDLE: the register and the reason (02 R21). -/
def raiseHandle {α : Type} (r : HReg) (reason : Nat) : M α := raise causeHandle (r.val + 16 * reason)

/-- CheckHandle over the used handles in order (02 R21, 16 R302). -/
def checkHandles : List HReg → M Unit
  | [] => pure ()
  | r :: rest => do
    match handleReason (← rdHandle r) with
    | some k => raiseHandle r k
    | none => checkHandles rest

def tileOf (r : HReg) : M Tile := do return Tile.of r (← rdHandle r)

/-! ### What a member asks of a handle (16 R302) -/

/-- The requirements of a member on one handle. -/
structure Need where
  tile : Tile
  spaces : List Nat
  fmts : List Nat
  shape : Bool
  cover : Bool
  deriving DecidableEq, Repr

def spacesDst : List Nat := [spTcm, spPad, spGlobal, spRemote]
def spacesSrc : List Nat := spacesDst ++ [spImm]

/-- Is a number a multiple of e? -/
def Tile.aligned (t : Tile) : Bool := let e := t.form.bytes; e == 0 || (t.base % e == 0 && t.stride.natAbs % e == 0)

/-- An MX window covers whole scale blocks. -/
def Tile.wholeBlocks (t : Tile) : Bool := t.col0 % 32 == 0 && ((t.col0 + t.ec) % 32 == 0 || t.col0 + t.ec == t.cols)

/-- The reason a requirement fails with, in the order of R302. -/
def Need.reason (n : Need) : Option Nat :=
  let t := n.tile
  if !(n.spaces.contains t.space && n.fmts.contains t.fmt) || (t.isImm && t.form.isMx) then some 9
  else if spacesDst.contains t.space && !t.aligned then some 5
  else if !n.shape then some 10
  else if n.cover && t.form.isMx && !t.wholeBlocks then some 7
  else none

/-- The checks of R302, handle by handle; the first failure is raised. -/
def checkNeeds : List Need → M Unit
  | [] => pure ()
  | n :: rest =>
    match n.reason with
    | some k => raiseHandle n.tile.reg k
    | none => checkNeeds rest

/-! ### Addresses (02 R51) -/

/-- The address within SPACE of an element, as an exact integer, and its bytes: an LNS6 element is reached through its group of three. -/
def Tile.elemAddr (t : Tile) (i j : Nat) : Int × Nat :=
  let c := t.col0 + j
  let row : Int := t.base + ((t.row0 + i : Nat) : Int) * t.stride
  if t.form.bytes = 0 then (row + (c / 4 * 3 : Nat), 3) else (row + (c * t.form.bytes : Nat), t.form.bytes)

/-- The bit at which an LNS6 element lies in its group. -/
def Tile.elemBit (t : Tile) (j : Nat) : Nat := 6 * ((t.col0 + j) % 4)

/-- Scale bytes of one row of the tile. -/
def Tile.scaleRow (t : Tile) : Nat := (t.cols + 31) / 32

/-- The first block of the window, and how many blocks it meets. -/
def Tile.block0 (t : Tile) : Nat := t.col0 / 32

def Tile.blocks (t : Tile) : Nat := (t.col0 + t.ec + 31) / 32 - t.col0 / 32

/-- The address of the scale of block b of the window's row i. -/
def Tile.scaleAddr (t : Tile) (i b : Nat) : Int := ((t.sbase + (t.row0 + i) * t.scaleRow + t.block0 + b : Nat) : Int)

/-- The first byte in which n elements of row i from column j lie, and how many bytes they lie in: a packed element lies in its own 6 bits of
its group (09 R205). -/
def Tile.span (t : Tile) (i j n : Nat) : Int × Nat :=
  let row : Int := t.base + ((t.row0 + i : Nat) : Int) * t.stride
  let bits := if t.form.bytes = 0 then 6 else 8 * t.form.bytes
  let c := t.col0 + j
  (row + (c * bits / 8 : Nat), ((c + n) * bits + 7) / 8 - c * bits / 8)

/-- The first byte of row i of the window and its length. -/
def Tile.rowSpan (t : Tile) (i : Nat) : Int × Nat := t.span i 0 t.ec

/-- The spans of a window: its rows, and for MX its scale rows. -/
def Tile.spans (t : Tile) : List (Int × Nat) :=
  if t.isImm || t.isEmpty then []
  else (List.range t.er).map t.rowSpan
    ++ (if t.form.isMx then (List.range t.er).map fun i => (t.scaleAddr i 0, t.blocks) else [])

/-- The lowest and highest byte of the window, and of the scales of an MX window (16 R310). -/
def Tile.extents (t : Tile) : List (Int × Int) :=
  if t.isImm || t.isEmpty then []
  else
    let ends := fun (f : Nat → Int × Nat) =>
      let a := f 0
      let b := f (t.er - 1)
      (min a.1 b.1, max (a.1 + a.2) (b.1 + b.2))
    ends t.rowSpan :: (if t.form.isMx then [ends fun i => (t.scaleAddr i 0, t.blocks)] else [])

/-! ### Where an address within SPACE lies -/

/-- A remote address (10 R225): the core it names, whether it selects the TCM, and the offset. -/
def remoteParts (a : Nat) : Nat × Bool × Nat := (a / 2 ^ 39 % 512, a / 2 ^ 38 % 2 == 1, a % 2 ^ 22)

/-- Does the executing context's group hold the target of a remote access? -/
def State.groupReaches (s : State) (core : Nat) (tcm : Bool) : Bool :=
  ((s.myGroup.map (·.cores)).getD []).any fun c => if tcm then c == core else clusterOf c == clusterOf core

/-- Where n bytes at an address within SPACE lie, with the checks of the space (16 R300, 10 R225). -/
def Tile.place (t : Tile) (addr : Int) (n : Nat) (a : Access) : M Place := fun s =>
  let core := s.coreId
  let fail := fun (va : Int) => (Except.error (.trap causeProtect (BitVec.ofInt 64 va) a.recordKind) : Except Stop (Place × State))
  if t.space = spTcm then
    if addr < 0 ∨ (s.tcmSize core : Int) < addr + n then fail (tcmWindow + addr)
    else localAt (tcmLoc core addr.toNat) (dieOf core) s
  else if t.space = spPad then
    if addr < 0 ∨ (spadSize : Int) < addr + n then fail (spadWindow + addr)
    else localAt (spadLoc (clusterOf core) addr.toNat) (dieOf core) s
  else if t.space = spRemote then
    let (k, tcm, off) := remoteParts addr.toNat
    if addr < 0 ∨ 2 ^ 48 ≤ addr ∨ addr.toNat / 2 ^ 22 % 2 ^ 16 ≠ 0 ∨ (if tcm then s.tcmSize k else spadSize) < off + n then
      raiseHandle t.reg 4 s
    else if !s.groupReaches k tcm then raisePartition k s
    else localAt (if tcm then tcmLoc k off else spadLoc (clusterOf k) off) (dieOf k) s
  else placeOf (wrap64 addr) n a s

/-- The core that performs a packed store through this handle at an address, plus 1; 0 for the executing core's own memory (09 R205). -/
def Tile.carrier (t : Tile) (s : State) (addr : Int) : Nat :=
  let (k, tcm, _) := remoteParts addr.toNat
  if t.space ≠ spRemote then 0
  else if tcm then (if k = s.coreId then 0 else k + 1)
  else if clusterOf k = clusterOf s.coreId then 0 else k + 1

/-- An address within SPACE in one numbering: the location of a local byte, the virtual address of any other. -/
def Tile.unified (t : Tile) (s : State) (addr : Int) : Nat :=
  let core := s.coreId
  if t.space = spTcm then tcmLoc core (wrap64 addr)
  else if t.space = spPad then spadLoc (clusterOf core) (wrap64 addr)
  else if t.space = spRemote then
    let (k, tcm, off) := remoteParts (wrap64 addr)
    if tcm then tcmLoc k off else spadLoc (clusterOf k) off
  else
    let va := wrap64 addr
    match (if inWindowRegion va then s.windowLoc core va else none) with
    | some loc => loc
    | none => va

/-- The virtual address by which a transfer of this core reaches an address within SPACE, if one does (16 R310). -/
def Tile.virtual (t : Tile) (s : State) (addr : Int) : Option Int :=
  let core := s.coreId
  if t.space = spTcm then some (tcmWindow + addr)
  else if t.space = spPad then some (spadWindow + addr)
  else if t.space = spRemote then
    let (k, tcm, off) := remoteParts addr.toNat
    if tcm then (if k = core then some (tcmWindow + off : Nat) else none)
    else if clusterOf k = clusterOf core then some (spadWindow + off : Nat) else none
  else if t.space = spGlobal then some (wrap64 addr)
  else none

/-- The bytes of a window as ranges of unified addresses, scales last; a B slot or an accumulation slot is one range (17 R338), and an empty window has none. -/
def Tile.footprint (t : Tile) (s : State) : List (Nat × Nat) :=
  if t.isEmpty then []
  else if t.space = spBstore then [(bstoreLoc (clusterOf s.coreId) t.base, 512)]
  else if t.space = spAcc then [(accLoc (clusterOf s.coreId) (t.base % 4 * 2 ^ 20), 2 ^ 20)]
  else t.spans.map fun (a, n) => (t.unified s a, n)

/-- The lines of a window, as the chunk counts them. -/
def Tile.lines (t : Tile) (s : State) : List Nat :=
  (t.footprint s).foldl (fun l (a, n) => insertAll ((List.range ((a + n - 1) / 128 - a / 128 + 1)).map (a / 128 + ·)) l) []

/-- Does a window meet the destination of a live transfer of the core (16 R310)? -/
def Tile.awaitsCopy (t : Tile) (s : State) : Bool :=
  t.extents.any fun (lo, hi) =>
    match t.virtual s lo with
    | none => false
    | some va => s.myCore.transfers.any fun x =>
        x.live && decide (va < x.plan.destRange.2) && decide (x.plan.destRange.1 < va + (hi - lo))

/-- The wait of R310, over the windows in use. -/
def awaitCopies (ts : List Tile) : M Unit := fun s =>
  if ts.any (·.awaitsCopy s) then .error (.wait { kind := .scoreboard }) else .ok ((), s)

/-! ### Element and scale accesses -/

/-- n bytes of an operand; three bytes are reached one by one where pages can differ. -/
def Tile.readBytes (t : Tile) (addr : Int) (n : Nat) (a : Access := .load) : M Nat := do
  if n = 3 ∧ t.space = spGlobal then
    let x ← one addr
    let y ← one (addr + 1)
    let z ← one (addr + 2)
    return x + 256 * y + 65536 * z
  else
    let p ← t.place addr n a
    modify (·.noteRead p)
    return ofLeBytes ((← get).seenBytes p.kind p.loc n)
where
  one (x : Int) : M Nat := do
    let p ← t.place x 1 a
    modify (·.noteRead p)
    return ofLeBytes ((← get).seenBytes p.kind p.loc 1)

/-- The bit pattern of an element (02 R51, 16 R301). -/
def Tile.read (t : Tile) (i j : Nat) : M Nat := do
  if t.isImm then return t.base % 2 ^ t.form.bits
  else
    let (a, n) := t.elemAddr i j
    let v ← t.readBytes a n
    return if n = 3 then v / 2 ^ t.elemBit j % 64 else v

def Tile.readScale (t : Tile) (i b : Nat) : M Nat := t.readBytes (t.scaleAddr i b) 1

/-- The forward tag of stores through a handle, 512 for none (10 R229). -/
def Tile.tag (t : Tile) (a : Arch) : Nat :=
  if t.fwd && bitsOf a.fwdTag 9 1 == 1 then bitsOf a.fwdTag 0 9 else 512

/-- Where a byte of a store lies; a WRITTEN line of a WO range refuses it after the access's own checks (16 R311). -/
def Tile.placeStore (t : Tile) (addr : Int) (n : Nat) : M Place := do
  let p ← t.place addr n .store
  if p.kind = kindWo ∧ (← get).coh.written.contains p.lineKey then raise causeProtocol (wrap64 addr)
  return p

/-- The part of an LNS6 element that lies in byte b of its group: the mask in that byte. -/
def packedMask (bit b : Nat) : Nat := (63 * 2 ^ bit) / 256 ^ b % 256

/-- Write one byte's part of a packed element. -/
def Tile.writePart (t : Tile) (addr : Int) (bit v b : Nat) (p : Place) : M Unit :=
  if packedMask bit b = 0 then pure ()
  else modify fun s => s.notePart p (packedMask bit b) (BitVec.ofNat 8 (v % 64 * 2 ^ bit / 256 ^ b)) (t.carrier s addr) (t.tag s.ctx.arch)

/-- Write an element's pattern; a packed element rewrites its own 6 bits (09 R205). In runahead nothing is written. -/
def Tile.write (t : Tile) (i j v : Nat) : M Unit := do
  if (← get).ahead then return
  let (a, n) := t.elemAddr i j
  if n = 3 then
    if t.space = spGlobal then
      let p0 ← t.placeStore a 1
      let p1 ← t.placeStore (a + 1) 1
      let p2 ← t.placeStore (a + 2) 1
      t.writePart a (t.elemBit j) v 0 p0
      t.writePart a (t.elemBit j) v 1 p1
      t.writePart a (t.elemBit j) v 2 p2
    else
      let p ← t.placeStore a 3
      let at' := fun (k : Nat) => localPlace (p.loc + k) p.home
      t.writePart a (t.elemBit j) v 0 (at' 0)
      t.writePart a (t.elemBit j) v 1 (at' 1)
      t.writePart a (t.elemBit j) v 2 (at' 2)
  else
    let p ← t.placeStore a n
    modify fun s => s.noteWrite p (leBytes n v) (t.tag s.ctx.arch)

def Tile.writeScale (t : Tile) (i b v : Nat) : M Unit := do
  if (← get).ahead then return
  let p ← t.placeStore (t.scaleAddr i b) 1
  modify fun s => s.noteWrite p (leBytes 1 v) (t.tag s.ctx.arch)

/-! ### Accesses of the other paths (09 R202) -/

/-- A write outside the core path by an engine of a domain and owner, with its forward tag (10 R229) and the WO state it leaves (R238). -/
def State.pathWrite (s : State) (dom owner : Nat) (p : Place) (bytes : List Byte) (tag : Nat) : State :=
  let line := p.loc / 128
  let before := s.bytesAt (128 * line) 128
  let behind := getT none s.coh.stale line
  let s := (s.foreignWrite dom owner p.loc p.lineKey bytes).fillPath p
  let s := if p.kind = kindWo then s.mapCoh fun h => { h with written := insertN p.lineKey h.written } else s
  if tag = 512 ∨ !p.fills then s
  else (s.mapCoh fun h => { h with stale := setT none h.stale line behind }).commitTag line p.lineKey (some tag) before

/-- A byte as an engine of a core reads it: the core's own writes to an SWM line that it has not written back are visible to the work it
hands over (09 R201). -/
def State.pathByte (s : State) (core loc : Nat) : Byte :=
  match getT none s.coh.swm (core * 2 ^ 64 + loc / 128) with
  | some l => (getT none l.dirty (loc % 128)).getD (s.byteAt loc)
  | none => s.byteAt loc

/-- Committed bytes as an engine of a core reads them. -/
def State.pathBytes (s : State) (core loc n : Nat) : List Byte := (List.range n).map fun i => s.pathByte core (loc + i)

/-- The bytes of an element on the collective path, with where each lies. -/
def Tile.pathPlaces (t : Tile) (i j : Nat) (a : Access) : M (List (Place × Nat)) := do
  let (x, n) := t.elemAddr i j
  if n = 3 ∧ t.space = spGlobal then
    let p0 ← t.place x 1 a
    let p1 ← t.place (x + 1) 1 a
    let p2 ← t.place (x + 2) 1 a
    return [(p0, 1), (p1, 1), (p2, 1)]
  else return [(← t.place x n a, n)]

/-- Read an element on the collective path. -/
def Tile.pathElem (t : Tile) (i j : Nat) : M Nat := do
  if t.isImm then return t.base % 2 ^ t.form.bits
  else
    let ps ← t.pathPlaces i j .load
    let mut bs := []
    for (p, n) in ps do
      modify fun s => (s.crossPath p).fillPath p
      let s ← get
      bs := bs ++ s.pathBytes s.coreId p.loc n
    let v := ofLeBytes bs
    return if t.form.bytes = 0 then v / 2 ^ t.elemBit j % 64 else v

/-- The read of an element on the collective path is final: a forward-tagged line it lies in is consumed (10 R229). -/
def Tile.pathConsume (t : Tile) (i j : Nat) : M Unit := do
  if !t.isImm then
    for (p, _) in ← t.pathPlaces i j .load do
      modify fun s => s.consume s.coreId (p.loc / 128) p.lineKey

/-- Write an element on the collective path; a packed element keeps the rest of its group. -/
def Tile.pathPut (t : Tile) (i j v : Nat) : M Unit := do
  let ps ← t.pathPlaces i j .store
  let s ← get
  let old := ofLeBytes (ps.map fun (p, n) => s.bytesAt p.loc n).flatten
  let w := if t.form.bytes = 0 then old - old / 2 ^ t.elemBit j % 64 * 2 ^ t.elemBit j + v % 64 * 2 ^ t.elemBit j else v
  let mut rest := leBytes (t.elemAddr i j).2 w
  for (p, n) in ps do
    let bytes := rest.take n
    modify fun s => ((s.crossPath p).yieldLine s.coreId (p.loc / 128)).pathWrite s.mySeam s.ctx.owner p bytes (t.tag s.ctx.arch)
    rest := rest.drop n

/-! ### Whole windows -/

/-- A rectangle of values, row by row. -/
abbrev Grid (α : Type) := List (List α)

/-- Element (i, j); a single row or column is repeated (16 R304). -/
def gridAt {α : Type} (d : α) (g : Grid α) (i j : Nat) : α :=
  let row := if g.length = 1 then g.headD [] else g.getD i []
  if row.length = 1 then row.headD d else row.getD j d

/-- A grid from its elements. -/
def mkGrid {α : Type} (er ec : Nat) (f : Nat → Nat → α) : Grid α := (List.range er).map fun i => (List.range ec).map (f i)

/-- Perform something for every position of a rectangle, row-major. -/
def forGrid {α : Type} (er ec : Nat) (f : Nat → Nat → M α) : M (Grid α) :=
  (List.range er).mapM fun i => (List.range ec).mapM (f i)

/-- The patterns of a window, row-major. -/
def Tile.readAll (t : Tile) : M (Grid Nat) := forGrid t.er t.ec t.read

/-- The scale bytes of an MX window, row-major, blocks across. -/
def Tile.readScales (t : Tile) : M (Grid Nat) :=
  if t.form.isMx && !t.isImm then forGrid t.er t.blocks t.readScale else pure []

/-- The value of an element from its pattern and its row's scales. -/
def Tile.value (t : Tile) (scales : Grid Nat) (i j bits : Nat) : Val :=
  if t.form.isMx then mxValue t.form bits ((scales.getD i []).getD ((t.col0 + j) / 32 - t.block0) 0) else t.form.value bits

/-- The values of a window: every element, then every scale (16 R311). -/
def Tile.readValues (t : Tile) : M (Grid Val) := do
  let bits ← t.readAll
  let scales ← t.readScales
  return bits.zipIdx.map fun (row, i) => row.zipIdx.map fun (b, j) => t.value scales i j b

/-- Cut a list into pieces of n. -/
def pieces {α : Type} (n : Nat) : (fuel : Nat) → List α → List (List α)
  | 0, _ => []
  | k + 1, l => if l.isEmpty then [] else l.take n :: pieces n k (l.drop n)

/-- One row of exact results as patterns with their flags, and the row's scale bytes (16 R305, 04 R92). -/
def Tile.deliverRow (t : Tile) (mode : RMode) (i : Nat) (row : List (Val × Flags)) : List (Nat × Flags) × List Nat :=
  let a := t.row0 + i
  if t.form.isMx then
    let bs := (pieces 32 row.length row).zipIdx.map fun ((blk : List (Val × Flags)), n) =>
      let sc := mxScale t.form (blk.map fun (x : Val × Flags) => x.1)
      (sc, blk.zipIdx.map fun ((x : Val × Flags), k) =>
        let r := mxElement t.form sc mode a (t.col0 + 32 * n + k) x.1
        (r.1, x.2 ||| r.2))
    ((bs.map (·.2)).flatten, bs.map (·.1))
  else (row.zipIdx.map fun ((x : Val × Flags), j) =>
    let r := t.form.deliver mode a (t.col0 + j) x.1
    (r.1, x.2 ||| r.2), [])

/-- What is to be written into a window, and each element's flags. -/
structure Delivered where
  bits : Grid Nat
  scales : Grid Nat
  flags : Grid Flags
  deriving DecidableEq, Repr

def Tile.deliver (t : Tile) (mode : RMode) (rows : Grid (Val × Flags)) : Delivered :=
  let ds := rows.zipIdx.map fun (r, i) => t.deliverRow mode i r
  { bits := ds.map fun d => d.1.map (·.1), scales := ds.map (·.2), flags := ds.map fun d => d.1.map (·.2) }

/-- Perform something for every element of a grid, row-major. -/
def forEach (g : Grid Nat) (f : Nat → Nat → Nat → M Unit) : M Unit :=
  g.zipIdx.forM fun (row, i) => row.zipIdx.forM fun (v, j) => f i j v

/-- Write patterns into a window, row-major. -/
def Tile.writeAll (t : Tile) (g : Grid Nat) : M Unit := forEach g t.write

/-- Write delivered elements, then their scales (16 R311). -/
def Tile.store (t : Tile) (d : Delivered) : M Unit := do
  t.writeAll d.bits
  if t.form.isMx then forEach d.scales t.writeScale

end Sys2Proof.Machine
end

