-- ==== Sys2Proof/Machine/Vector.lean ====
section
/-!
DEFINITION. Sys2Proof/Machine/Vector.lean: the vector unit (16): the shape every member shares, and VEC0, VEC1 and VEC2 member by member.
-/

namespace Sys2Proof.Machine

/-! ### What every member shares (16 R298 to R311) -/

/-- The rounding mode of VEC0 and VEC1: mod3, or CR_FCSR.FRM for 7, where FRM = 7 raises ILLEGAL (16 R306, 04 R84). -/
def vecMode (rm : BitVec 3) : M RMode := fun s =>
  match RMode.ofCode (if rm = 7 then bitsOf s.ctx.arch.fcsr 5 3 else rm.toNat) with
  | some m => .ok (m, s)
  | none => .error (.trap causeIllegal s.ir)

/-- The rounding mode of VEC2 and of the collectives: RNE, RTZ, RDN or RUP (16 R306). -/
def treeMode (rm : BitVec 2) : RMode :=
  match rm.toNat with
  | 0 => .rne | 1 => .rtz | 2 => .rdn | _ => .rup

/-- What a vector instruction has come to: its flags, the element CR_TVAL names if one of them is enabled (06 R147), and whether it is
oversize (09 R200). -/
structure VecDone where
  flags : Flags := 0
  elem : Nat := 0
  big : Bool := false
  deriving DecidableEq, Repr

/-- The union of the elements' flags, and the first row-major element that raised an enabled one. -/
def vecDone (big : Bool) (flags : Grid Flags) : M VecDone := do
  let fs := flags.flatten
  let te := (← get).ctx.arch
  let elem := (fs.findIdx? fun f => te.enabled f != 0).getD 0
  return { flags := fs.foldl (· ||| ·) 0, elem := elem, big := big }

/-- Two grids of flags, element by element. -/
def joinFlags (a b : Grid Flags) : Grid Flags := a.zipWith (fun x y => x.zipWith (· ||| ·) y) b

/-- Room in the chunk for the destination windows: a window of more lines than the limit makes the instruction oversize, a locked chunk of
its own; one that does not fit the room left starts a new chunk (09 R200). -/
def reserveWindows (ts : List Tile) : M Bool := do
  let s ← get
  let lines := ts.foldl (fun l t => insertAll (t.lines s) l) []
  if s.ctx.chunk.maxLines < lines.length then
    endChunk
    if (← get).lockWaits then waitFor .commit
    modify fun s => s.mapChunk fun c => { c with locked := true }
    return true
  else
    reserveLines lines
    return false

/-- An oversize chunk commits as its instruction completes, or when the leases on its lines have run out. -/
def State.endBig (s : State) : State := if s.canCommit then s.commitCur else s.mapChunk fun c => { c with full := true }

/-- How a vector instruction ends: flags are raised, an enabled one leads to FPX with the element's index, and an oversize chunk commits. -/
def completeVec (i : Instr) (la : BitVec 4) (hd : HReg) (m : M VecDone) (s : State) : Host.Outcome State Fault Refusal :=
  match m s with
  | .ok (d, t) =>
    let t := t.mapArch fun a => a.raiseFlags d.flags
    if t.ctx.arch.enabled d.flags = 0 ∨ t.ahead then
      let w := Tile.of hd s.ctx.arch.handles[hd]
      match retireLong 4 la (.window hd w.space (w.footprint s)) t with
      | .ok (_, u) => .next (if d.big ∧ !u.ahead then u.endBig else u)
      | .error _ => .next t
    else .next (t.fpxDone i d.elem)
  | .error e => complete i (fun _ => .error e) s

/-- Is one of these handles null? -/
def anyNull : List HReg → M Bool
  | [] => pure false
  | r :: rest => do
    let h ← rdHandle r
    let b ← anyNull rest
    return h == 0 || b

/-- A vector member: the mode, R21 on the used handles, nothing for an empty destination or a null required handle (16 R303), then the
member's own work. -/
def vector (i : Instr) (la : BitVec 4) (hd : HReg) (uses needed : List HReg) (mode : M RMode) (work : RMode → M VecDone) (s : State) :
    Host.Outcome State Fault Refusal :=
  completeVec i la hd (do
    let m ← mode
    checkHandles uses
    let d ← tileOf hd
    if d.isEmpty || (← anyNull needed) then return {}
    work m) s

def noMode : M RMode := pure .rne

/-! ### Shapes and formats (16 R304, R313 to R321) -/

def fmtAll : List Nat := List.range 12
def fmtPlain : List Nat := List.range 8
def fmtRaw : List Nat := fmtPlain ++ [11]
def fmtInt : List Nat := [5, 6, 7]
def fmtTree : List Nat := [0, 1, 2, 3, 4, 5, 6, 8, 9, 10]

/-- The four shapes of an elementwise source, or an immediate (16 R304). -/
def spreads (d t : Tile) : Bool := t.isImm || ((t.er == d.er || t.er == 1) && (t.ec == d.ec || t.ec == 1))

def sameShape (d t : Tile) : Bool := t.isImm || (t.er == d.er && t.ec == d.ec)

def oneElement (t : Tile) : Bool := t.isImm || (t.er == 1 && t.ec == 1)

def needDst (t : Tile) (fmts : List Nat) : Need := { tile := t, spaces := spacesDst, fmts := fmts, shape := true, cover := true }

def needSrc (t : Tile) (fmts : List Nat) (shape : Bool) : Need :=
  { tile := t, spaces := spacesSrc, fmts := fmts, shape := shape, cover := false }

/-- A raw source: hd's format, an immediate being taken in it (16 R307). -/
def needRaw (d t : Tile) (shape : Bool) : Need := needSrc t (if t.isImm then fmtAll else [d.fmt]) shape

def Tile.takenIn (t d : Tile) : Tile := if t.isImm then { t with fmt := d.fmt } else t

/-! ### Value members -/

/-- A value member over its source windows: everything is read, then every element is computed, rounded and written (16 R305, R308). -/
def runValues (d : Tile) (srcs : List Tile) (needs : List Need) (mode : RMode) (f : List (Grid Val) → Nat → Nat → Val × Flags) :
    M VecDone := do
  checkNeeds needs
  awaitCopies (d :: srcs)
  let big ← reserveWindows [d]
  let gs ← srcs.mapM Tile.readValues
  let out := d.deliver mode (mkGrid d.er d.ec (f gs))
  d.store out
  vecDone big out.flags

/-- The value of operand k at an element. -/
def operand (gs : List (Grid Val)) (k i j : Nat) : Val := gridAt (.zero false) (gs.getD k []) i j

/-- A member of one elementwise source. -/
def vec1 (i : Instr) (la : BitVec 4) (hd ha : HReg) (rm : BitVec 3) (shape : Tile → Tile → Bool) (f : RMode → Val → Val × Flags) (s : State) :
    Host.Outcome State Fault Refusal :=
  vector i la hd [hd, ha] [ha] (vecMode rm) (fun m => do
    let d ← tileOf hd
    let a ← tileOf ha
    runValues d [a] [needDst d fmtAll, needSrc a fmtAll (shape d a)] m (fun gs i j => f m (operand gs 0 i j))) s

/-- A member of two elementwise sources. -/
def vec2 (i : Instr) (la : BitVec 4) (hd ha hb : HReg) (mode : M RMode) (dfmts : List Nat) (f : RMode → Val → Val → Val × Flags) (s : State) :
    Host.Outcome State Fault Refusal :=
  vector i la hd [hd, ha, hb] [ha, hb] mode (fun m => do
    let d ← tileOf hd
    let a ← tileOf ha
    let b ← tileOf hb
    runValues d [a, b] [needDst d dfmts, needSrc a fmtAll (spreads d a), needSrc b fmtAll (spreads d b)] m
      (fun gs i j => f m (operand gs 0 i j) (operand gs 1 i j))) s

/-- VADD (16 R312, R313). -/
def execVadd (hd ha hb : HReg) (rm : BitVec 3) (la : BitVec 4) (s : State) : Host.Outcome State Fault Refusal :=
  vec2 (.vadd hd ha hb rm la) la hd ha hb (vecMode rm) fmtAll (fun m x y => Val.add m x y) s

/-- VSUB (16 R312, R313). -/
def execVsub (hd ha hb : HReg) (rm : BitVec 3) (la : BitVec 4) (s : State) : Host.Outcome State Fault Refusal :=
  vec2 (.vsub hd ha hb rm la) la hd ha hb (vecMode rm) fmtAll (fun m x y => Val.add m x y.negate) s

/-- VMUL (16 R312, R313). -/
def execVmul (hd ha hb : HReg) (rm : BitVec 3) (la : BitVec 4) (s : State) : Host.Outcome State Fault Refusal :=
  vec2 (.vmul hd ha hb rm la) la hd ha hb (vecMode rm) fmtAll (fun _ x y => Val.mul x y) s

/-- VFMA: one rounding (16 R312, R313). -/
def execVfma (hd ha hb hc : HReg) (rm : BitVec 3) (la : BitVec 4) (s : State) : Host.Outcome State Fault Refusal :=
  vector (.vfma hd ha hb hc rm la) la hd [hd, ha, hb, hc] [ha, hb, hc] (vecMode rm) (fun m => do
    let d ← tileOf hd
    let a ← tileOf ha
    let b ← tileOf hb
    let c ← tileOf hc
    runValues d [a, b, c]
      [needDst d fmtAll, needSrc a fmtAll (spreads d a), needSrc b fmtAll (spreads d b), needSrc c fmtAll (spreads d c)] m
      (fun gs i j => Val.fma m (operand gs 0 i j) (operand gs 1 i j) (operand gs 2 i j))) s

/-- VMIN (16 R312, R313). -/
def execVmin (hd ha hb : HReg) (rm : BitVec 3) (la : BitVec 4) (s : State) : Host.Outcome State Fault Refusal :=
  vec2 (.vmin hd ha hb rm la) la hd ha hb (vecMode rm) fmtAll (fun _ x y => Val.minimum x y) s

/-- VMAX (16 R312, R313). -/
def execVmax (hd ha hb : HReg) (rm : BitVec 3) (la : BitVec 4) (s : State) : Host.Outcome State Fault Refusal :=
  vec2 (.vmax hd ha hb rm la) la hd ha hb (vecMode rm) fmtAll (fun _ x y => Val.maximum x y) s

/-- VABS (16 R312, R313). -/
def execVabs (hd ha : HReg) (rm : BitVec 3) (la : BitVec 4) (s : State) : Host.Outcome State Fault Refusal :=
  vec1 (.vabs hd ha rm la) la hd ha rm spreads (fun _ x => (x.abs, nvIf x.isSignalling)) s

/-- VNEG (16 R312, R313). -/
def execVneg (hd ha : HReg) (rm : BitVec 3) (la : BitVec 4) (s : State) : Host.Outcome State Fault Refusal :=
  vec1 (.vneg hd ha rm la) la hd ha rm spreads (fun _ x => (x.negate, nvIf x.isSignalling)) s

/-- 1 or 0, as a comparison writes it (16 R315). -/
def boolVal (b : Bool) : Val := if b then .fin false 1 0 else .zero false

/-- A comparison into an hd of FMT 0 to 7 (16 R315). -/
def vecCompare (i : Instr) (la : BitVec 4) (hd ha hb : HReg) (c : Cmp) (s : State) : Host.Outcome State Fault Refusal :=
  vec2 i la hd ha hb noMode fmtPlain (fun _ x y => let r := cmpVals c x y; (boolVal r.1, r.2)) s

/-- VCMPEQ (16 R315). -/
def execVcmpeq (hd ha hb : HReg) (la : BitVec 4) (s : State) : Host.Outcome State Fault Refusal :=
  vecCompare (.vcmpeq hd ha hb la) la hd ha hb .eq s

/-- VCMPLT (16 R315). -/
def execVcmplt (hd ha hb : HReg) (la : BitVec 4) (s : State) : Host.Outcome State Fault Refusal :=
  vecCompare (.vcmplt hd ha hb la) la hd ha hb .lt s

/-- VCMPLE (16 R315). -/
def execVcmple (hd ha hb : HReg) (la : BitVec 4) (s : State) : Host.Outcome State Fault Refusal :=
  vecCompare (.vcmple hd ha hb la) la hd ha hb .le s

/-- VSET: one value into every element (16 R316). -/
def execVset (hd ha : HReg) (rm : BitVec 3) (la : BitVec 4) (s : State) : Host.Outcome State Fault Refusal :=
  vec1 (.vset hd ha rm la) la hd ha rm (fun _ t => oneElement t) (fun _ x => (x, nvIf x.isSignalling)) s

/-! ### Raw members (16 R307, R314 to R316) -/

/-- A raw member: patterns are read, combined and written. -/
def runRaw (d : Tile) (srcs : List Tile) (needs : List Need) (f : List (Grid Nat) → Nat → Nat → Nat) : M VecDone := do
  checkNeeds needs
  awaitCopies (d :: srcs)
  let big ← reserveWindows [d]
  let gs ← (srcs.map (·.takenIn d)).mapM Tile.readAll
  d.writeAll (mkGrid d.er d.ec (f gs))
  return { big := big }

/-- The pattern of operand k at an element. -/
def patternAt (gs : List (Grid Nat)) (k i j : Nat) : Nat := gridAt 0 (gs.getD k []) i j

/-- A raw member of two elementwise sources; f has the width of the pattern. -/
def vecBits (i : Instr) (la : BitVec 4) (hd ha hb : HReg) (fmts : List Nat) (f : (w x y : Nat) → Nat) (s : State) :
    Host.Outcome State Fault Refusal :=
  vector i la hd [hd, ha, hb] [ha, hb] noMode (fun _ => do
    let d ← tileOf hd
    let a ← tileOf ha
    let b ← tileOf hb
    runRaw d [a, b] [needDst d fmts, needRaw d a (spreads d a), needRaw d b (spreads d b)]
      (fun gs i j => f d.form.bits (patternAt gs 0 i j) (patternAt gs 1 i j))) s

/-- VAND (16 R314). -/
def execVand (hd ha hb : HReg) (la : BitVec 4) (s : State) : Host.Outcome State Fault Refusal :=
  vecBits (.vand hd ha hb la) la hd ha hb fmtRaw (fun _ x y => x &&& y) s

/-- VOR (16 R314). -/
def execVor (hd ha hb : HReg) (la : BitVec 4) (s : State) : Host.Outcome State Fault Refusal :=
  vecBits (.vor hd ha hb la) la hd ha hb fmtRaw (fun _ x y => x ||| y) s

/-- VXOR (16 R314). -/
def execVxor (hd ha hb : HReg) (la : BitVec 4) (s : State) : Host.Outcome State Fault Refusal :=
  vecBits (.vxor hd ha hb la) la hd ha hb fmtRaw (fun _ x y => x ^^^ y) s

/-- VSHL: amounts of the width or more give 0 (16 R314). -/
def execVshl (hd ha hb : HReg) (la : BitVec 4) (s : State) : Host.Outcome State Fault Refusal :=
  vecBits (.vshl hd ha hb la) la hd ha hb fmtInt (fun w x n => if w ≤ n then 0 else x * 2 ^ n % 2 ^ w) s

/-- VSHR (16 R314). -/
def execVshr (hd ha hb : HReg) (la : BitVec 4) (s : State) : Host.Outcome State Fault Refusal :=
  vecBits (.vshr hd ha hb la) la hd ha hb fmtInt (fun w x n => if w ≤ n then 0 else x / 2 ^ n) s

/-- VSRA: amounts of the width or more give copies of the sign bit (16 R314). -/
def execVsra (hd ha hb : HReg) (la : BitVec 4) (s : State) : Host.Outcome State Fault Refusal :=
  vecBits (.vsra hd ha hb la) la hd ha hb fmtInt
    (fun w x n => ((signed x w).fdiv (2 ^ (min n (w - 1)) : Nat) % (2 ^ w : Nat)).toNat) s

/-- Does a value count as true for VSEL: nonzero, a NaN included (16 R315)? -/
def Val.isTrue : Val → Bool
  | .zero _ => false
  | _ => true

/-- VSEL (16 R315). -/
def execVsel (hd ha hb hc : HReg) (la : BitVec 4) (s : State) : Host.Outcome State Fault Refusal :=
  vector (.vsel hd ha hb hc la) la hd [hd, ha, hb, hc] [ha, hb, hc] noMode (fun _ => do
    let d ← tileOf hd
    let a ← tileOf ha
    let b ← tileOf hb
    let c ← tileOf hc
    checkNeeds [needDst d fmtRaw, needRaw d a (spreads d a), needRaw d b (spreads d b), needSrc c fmtAll (spreads d c)]
    awaitCopies [d, a, b, c]
    let big ← reserveWindows [d]
    let x ← (a.takenIn d).readAll
    let y ← (b.takenIn d).readAll
    let z ← c.readValues
    d.writeAll (mkGrid d.er d.ec fun i j => if (gridAt (.zero false) z i j).isTrue then gridAt 0 x i j else gridAt 0 y i j)
    return { big := big }) s

/-- VCOPY: patterns unchanged, and for MX the scale byte of every block (16 R316). -/
def execVcopy (hd ha : HReg) (la : BitVec 4) (s : State) : Host.Outcome State Fault Refusal :=
  vector (.vcopy hd ha la) la hd [hd, ha] [ha] noMode (fun _ => do
    let d ← tileOf hd
    let a ← tileOf ha
    checkNeeds [needDst d fmtAll, { needSrc a [d.fmt] (sameShape d a) with cover := true }]
    awaitCopies [d, a]
    let big ← reserveWindows [d]
    let x ← a.readAll
    let scales ← a.readScales
    d.writeAll (mkGrid d.er d.ec (gridAt 0 x))
    if d.form.isMx then forEach scales d.writeScale
    return { big := big }) s

/-! ### VEC1 (16 R317 to R320) -/

/-- VRCP (16 R317, 04 R94). -/
def execVrcp (hd ha : HReg) (rm : BitVec 3) (la : BitVec 4) (s : State) : Host.Outcome State Fault Refusal :=
  vec1 (.vrcp hd ha rm la) la hd ha rm spreads (fun _ x => x.rcp) s

/-- VRSQ (16 R317, 04 R94). -/
def execVrsq (hd ha : HReg) (rm : BitVec 3) (la : BitVec 4) (s : State) : Host.Outcome State Fault Refusal :=
  vec1 (.vrsq hd ha rm la) la hd ha rm spreads (fun _ x => x.rsqrt) s

/-- VSQRT (16 R317, 04 R94). -/
def execVsqrt (hd ha : HReg) (rm : BitVec 3) (la : BitVec 4) (s : State) : Host.Outcome State Fault Refusal :=
  vec1 (.vsqrt hd ha rm la) la hd ha rm spreads (fun _ x => x.sqrt) s

/-- VDIV (16 R317, 04 R94). -/
def execVdiv (hd ha hb : HReg) (rm : BitVec 3) (la : BitVec 4) (s : State) : Host.Outcome State Fault Refusal :=
  vec2 (.vdiv hd ha hb rm la) la hd ha hb (vecMode rm) fmtAll (fun _ x y => Val.div x y) s

/-- VEXP2 (16 R317, 04 R94). -/
def execVexp2 (hd ha : HReg) (rm : BitVec 3) (la : BitVec 4) (s : State) : Host.Outcome State Fault Refusal :=
  vec1 (.vexp2 hd ha rm la) la hd ha rm spreads (fun _ x => x.exp2) s

/-- VLOG2 (16 R317, 04 R94). -/
def execVlog2 (hd ha : HReg) (rm : BitVec 3) (la : BitVec 4) (s : State) : Host.Outcome State Fault Refusal :=
  vec1 (.vlog2 hd ha rm la) la hd ha rm spreads (fun _ x => x.log2v) s

/-- VTANH (16 R317, 04 R94). -/
def execVtanh (hd ha : HReg) (rm : BitVec 3) (la : BitVec 4) (s : State) : Host.Outcome State Fault Refusal :=
  vec1 (.vtanh hd ha rm la) la hd ha rm spreads (fun _ x => x.tanh) s

/-- VSIGM (16 R317, 04 R94). -/
def execVsigm (hd ha : HReg) (rm : BitVec 3) (la : BitVec 4) (s : State) : Host.Outcome State Fault Refusal :=
  vec1 (.vsigm hd ha rm la) la hd ha rm spreads (fun _ x => x.sigm) s

/-- VSINPI (16 R317, 04 R94). -/
def execVsinpi (hd ha : HReg) (rm : BitVec 3) (la : BitVec 4) (s : State) : Host.Outcome State Fault Refusal :=
  vec1 (.vsinpi hd ha rm la) la hd ha rm spreads (fun _ x => x.sinpi) s

/-- VCOSPI (16 R317, 04 R94). -/
def execVcospi (hd ha : HReg) (rm : BitVec 3) (la : BitVec 4) (s : State) : Host.Outcome State Fault Refusal :=
  vec1 (.vcospi hd ha rm la) la hd ha rm spreads (fun _ x => x.cospi) s

/-- VCVT: a conversion, without broadcast (16 R318); out of an MX format by 04 R92. -/
def execVcvt (hd ha : HReg) (rm : BitVec 3) (la : BitVec 4) (s : State) : Host.Outcome State Fault Refusal :=
  vector (.vcvt hd ha rm la) la hd [hd, ha] [ha] (vecMode rm) (fun m => do
    let d ← tileOf hd
    let a ← tileOf ha
    runValues d [a] [needDst d fmtAll, needSrc a fmtAll (sameShape d a)] m (fun gs i j =>
      let x := operand gs 0 i j
      if a.form.isMx then d.form.fromMx (d.row0 + i) (d.col0 + j) x else (x, nvIf x.isSignalling))) s

/-- An integer value as an integer. -/
def Val.toInt : Val → Int
  | .fin s m e => let v : Int := m * 2 ^ e.toNat; if s then -v else v
  | _ => 0

/-- VSCALE: ha times two to hb, rounded once (16 R320). -/
def execVscale (hd ha hb : HReg) (rm : BitVec 3) (la : BitVec 4) (s : State) : Host.Outcome State Fault Refusal :=
  vector (.vscale hd ha hb rm la) la hd [hd, ha, hb] [ha, hb] (vecMode rm) (fun m => do
    let d ← tileOf hd
    let a ← tileOf ha
    let b ← tileOf hb
    runValues d [a, b]
      [needDst d fmtAll, needSrc a fmtAll (spreads d a), needSrc b (if b.isImm then [7] else fmtInt) (spreads d b)] m
      (fun gs i j => let x := operand gs 0 i j; (x.scale (operand gs 1 i j).toInt, nvIf x.isSignalling))) s

/-- VIOTA: v + (i EC + j) d, rounded once (16 R320). -/
def execViota (hd ha hb : HReg) (rm : BitVec 3) (la : BitVec 4) (s : State) : Host.Outcome State Fault Refusal :=
  vector (.viota hd ha hb rm la) la hd [hd, ha, hb] [ha, hb] (vecMode rm) (fun m => do
    let d ← tileOf hd
    let a ← tileOf ha
    let b ← tileOf hb
    runValues d [a, b] [needDst d fmtAll, needSrc a fmtAll (oneElement a), needSrc b fmtAll (oneElement b)] m
      (fun gs i j => Val.fma m (.ofInt (i * d.ec + j : Nat)) (operand gs 1 i j) (operand gs 0 i j))) s

/-- Is a column an outlier: it holds a NaN, or a magnitude above the threshold (16 R319)? -/
def outlier (t : Val) (column : List Val) : Bool :=
  column.any Val.isNan || (!t.isNan && column.any fun x => Val.cmp x.abs t == 1)

/-- VQSPLIT: the residue into hd, outlier columns into hc (16 R319). -/
def execVqsplit (hd ha hb hc : HReg) (rm : BitVec 3) (s : State) : Host.Outcome State Fault Refusal :=
  vector (.vqsplit hd ha hb hc rm) 0 hd [hd, ha, hb, hc] [ha, hb] (vecMode rm) (fun m => do
    let d ← tileOf hd
    let a ← tileOf ha
    let b ← tileOf hb
    let c ← tileOf hc
    checkNeeds [needDst d [2, 3, 4, 8, 9, 10], needSrc a fmtPlain (sameShape d a),
      { tile := b, spaces := [spImm], fmts := [0], shape := true, cover := false },
      { needDst c [1] with shape := c.er == d.er && c.ec == d.ec }]
    awaitCopies [d, a, c]
    let big ← reserveWindows [d, c]
    let g ← a.readValues
    let t := b.form.value (← b.read 0 0)
    let out := (List.range d.ec).map fun j => outlier t ((List.range d.er).map fun i => gridAt (.zero false) g i j)
    let isOut := fun j => out.getD j false
    let x := fun i j => gridAt (.zero false) g i j
    let thr : Flags := nvIf t.isSignalling
    let rd := d.deliver m (mkGrid d.er d.ec fun i j =>
      (if isOut j then .zero false else x i j, if i = 0 ∧ j = 0 then thr else 0))
    let rc := c.deliver m (mkGrid d.er d.ec fun i j => if isOut j then (x i j, nvIf (x i j).isSignalling) else (.zero false, 0))
    d.store rd
    c.store rc
    vecDone big (joinFlags rd.flags rc.flags)) s

/-! ### Reductions and scans (16 R321 to R323, R437) -/

/-- A source value as it enters a tree or a scan, an FP32 pattern, and the flags of its conversion: a signalling NaN becomes the canonical one and
raises NV (04 R91), and an MX element out of FP32's range is rounded (04 R92). -/
def leafFp32 (x : Val) : Nat × Flags := let r := specFp32.deliver .rne 0 x; (r.1, r.2 ||| nvIf x.isSignalling)

/-- A value that is FP32 already, as its pattern: it meets its first operation as it stands, a signalling NaN too (04 R85). -/
def rawFp32 (x : Val) : Nat := if x.isSignalling then 0x7F800001 else (specFp32.deliver .rne 0 x).1

/-- A tree result as the value to round into hd. -/
def rootFp32 (b : Nat) : Val × Flags := let v := specFp32.value b; (v, nvIf v.isSignalling)

def negInf32 : Nat := 0xFF800000
def one32 : Nat := 0x3F800000

/-- The lines of a window: its rows, or its columns. -/
def linesOf {α : Type} (byRow : Bool) (er ec : Nat) (f : Nat → Nat → α) : Grid α :=
  if byRow then mkGrid er ec f else mkGrid ec er fun j i => f i j

/-- A line reduced to its result, with the flags of its leaves and nodes. -/
def reduceLine (op : Nat → Nat → Nat × Flags) (line : List Val) : Val × Flags :=
  let ls := line.map leafFp32
  let (r, f) := treeReduce op (ls.map (·.1))
  let (v, g) := rootFp32 (r.getD 0)
  (v, ls.foldl (fun a l => a ||| l.2) (f ||| g))

/-- A reduction along rows or columns. -/
def vecReduce (i : Instr) (la : BitVec 4) (hd ha : HReg) (byRow : Bool) (mode : RMode) (op : Nat → Nat → Nat × Flags) (s : State) :
    Host.Outcome State Fault Refusal :=
  vector i la hd [hd, ha] [ha] noMode (fun _ => do
    let d ← tileOf hd
    let a ← tileOf ha
    let fits := if byRow then d.ec == 1 && (a.isImm || d.er == a.er) else d.er == 1 && (a.isImm || d.ec == a.ec)
    checkNeeds [needDst d [0], needSrc a fmtTree fits]
    awaitCopies [d, a]
    let big ← reserveWindows [d]
    let g ← a.readValues
    let (er, ec) := if byRow then (d.er, a.ec) else (a.er, d.ec)
    let rs := (linesOf byRow er ec (gridAt (.zero false) g)).map (reduceLine op)
    let out := d.deliver mode (if byRow then rs.map (fun r => [r]) else [rs])
    d.store out
    vecDone big out.flags) s

/-- VRED.ROW.ADD (16 R322). -/
def execVredRowAdd (hd ha : HReg) (rm : BitVec 2) (la : BitVec 4) (s : State) : Host.Outcome State Fault Refusal :=
  vecReduce (.vredRowAdd hd ha rm la) la hd ha true (treeMode rm) (addFp32 (treeMode rm)) s

/-- VRED.ROW.MAX (16 R322). -/
def execVredRowMax (hd ha : HReg) (la : BitVec 4) (s : State) : Host.Outcome State Fault Refusal :=
  vecReduce (.vredRowMax hd ha la) la hd ha true .rne maxFp32 s

/-- VRED.ROW.MIN (16 R322). -/
def execVredRowMin (hd ha : HReg) (la : BitVec 4) (s : State) : Host.Outcome State Fault Refusal :=
  vecReduce (.vredRowMin hd ha la) la hd ha true .rne minFp32 s

/-- VRED.COL.ADD (16 R322). -/
def execVredColAdd (hd ha : HReg) (rm : BitVec 2) (la : BitVec 4) (s : State) : Host.Outcome State Fault Refusal :=
  vecReduce (.vredColAdd hd ha rm la) la hd ha false (treeMode rm) (addFp32 (treeMode rm)) s

/-- VRED.COL.MAX (16 R322). -/
def execVredColMax (hd ha : HReg) (la : BitVec 4) (s : State) : Host.Outcome State Fault Refusal :=
  vecReduce (.vredColMax hd ha la) la hd ha false .rne maxFp32 s

/-- VRED.COL.MIN (16 R322). -/
def execVredColMin (hd ha : HReg) (la : BitVec 4) (s : State) : Host.Outcome State Fault Refusal :=
  vecReduce (.vredColMin hd ha la) la hd ha false .rne minFp32 s

/-- The output a leaf's conversion flags are attributed to: the lowest that depends on it, or the last of the line. -/
def leafOutput (exclusive : Bool) (n k : Nat) : Nat := min (k + (if exclusive then 1 else 0)) (n - 1)

/-- A line scanned: outputs with the flags attributed to them (16 R323, R437), those of the leaves among them. -/
def scanLine {α : Type} (op : α → α → α × Flags) (identity : α) (exclusive : Bool) (line : List (α × Flags)) : List (α × Flags) :=
  let n := line.length
  (scan op identity exclusive (line.map (·.1))).zipIdx.map fun (x, k) =>
    (x.1, line.zipIdx.foldl (fun f (l, m) => if leafOutput exclusive n m = k then f ||| l.2 else f) x.2)

/-- Outputs by line, turned back into rows. -/
def unline {α : Type} (d : α) (byRow : Bool) (er ec : Nat) (ls : Grid α) : Grid α :=
  mkGrid er ec fun i j => if byRow then (ls.getD i []).getD j d else (ls.getD j []).getD i d

/-- A scan of one source along rows or columns. -/
def vecScan (i : Instr) (la : BitVec 4) (hd ha : HReg) (byRow exclusive : Bool) (mode : RMode) (op : Nat → Nat → Nat × Flags)
    (identity : Nat) (s : State) : Host.Outcome State Fault Refusal :=
  vector i la hd [hd, ha] [ha] noMode (fun _ => do
    let d ← tileOf hd
    let a ← tileOf ha
    checkNeeds [needDst d [0], needSrc a fmtTree (sameShape d a)]
    awaitCopies [d, a]
    let big ← reserveWindows [d]
    let g ← a.readValues
    let ls := (linesOf byRow d.er d.ec fun i j => leafFp32 (gridAt (.zero false) g i j)).map (scanLine op identity exclusive)
    let out := d.deliver mode ((unline (0, 0) byRow d.er d.ec ls).map fun r => r.map fun x =>
      let v := rootFp32 x.1
      (v.1, x.2 ||| v.2))
    d.store out
    vecDone big out.flags) s

/-- VSCAN.ROW.ADD (16 R323). -/
def execVscanRowAdd (hd ha : HReg) (rm : BitVec 2) (excl : Bool) (la : BitVec 4) (s : State) : Host.Outcome State Fault Refusal :=
  vecScan (.vscanRowAdd hd ha rm excl la) la hd ha true excl (treeMode rm) (addFp32 (treeMode rm)) 0 s

/-- VSCAN.COL.ADD (16 R323). -/
def execVscanColAdd (hd ha : HReg) (rm : BitVec 2) (excl : Bool) (la : BitVec 4) (s : State) : Host.Outcome State Fault Refusal :=
  vecScan (.vscanColAdd hd ha rm excl la) la hd ha false excl (treeMode rm) (addFp32 (treeMode rm)) 0 s

/-- VSCAN.ROW.MAX (16 R323). -/
def execVscanRowMax (hd ha : HReg) (excl : Bool) (la : BitVec 4) (s : State) : Host.Outcome State Fault Refusal :=
  vecScan (.vscanRowMax hd ha excl la) la hd ha true excl .rne maxFp32 negInf32 s

/-- An affine scan: the B components into hd, the A components into hc where it is present (16 R323, R299). -/
def vecAffine (i : Instr) (hd ha hb hc : HReg) (byRow exclusive : Bool) (mode : RMode) (s : State) : Host.Outcome State Fault Refusal :=
  vector i 0 hd [hd, ha, hb, hc] [ha, hb] noMode (fun _ => do
    let d ← tileOf hd
    let a ← tileOf ha
    let b ← tileOf hb
    let c ← tileOf hc
    let cs := if c.null then [] else [c]
    checkNeeds ([needDst d [0], needSrc a fmtTree (sameShape d a), needSrc b fmtTree (sameShape d b)]
      ++ cs.map fun c => { needDst c [0] with shape := c.er == d.er && c.ec == d.ec })
    awaitCopies ([d, a, b] ++ cs)
    let big ← reserveWindows (d :: cs)
    let ga ← a.readValues
    let gb ← b.readValues
    let leaf := fun i j =>
      let x := leafFp32 (gridAt (.zero false) ga i j)
      let y := leafFp32 (gridAt (.zero false) gb i j)
      ((x.1, y.1), x.2 ||| y.2)
    let ls := (linesOf byRow d.er d.ec leaf).map (scanLine (affFp32 mode) (one32, 0) exclusive)
    let g := unline ((0, 0), 0) byRow d.er d.ec ls
    let rd := d.deliver mode (g.map fun r => r.map fun x => let v := rootFp32 x.1.2; (v.1, x.2 ||| v.2))
    let rc := c.deliver mode (g.map fun r => r.map fun x => rootFp32 x.1.1)
    d.store rd
    if !c.null then c.store rc
    vecDone big (if c.null then rd.flags else joinFlags rd.flags rc.flags)) s

/-- VSCAN.ROW.AFF (16 R323). -/
def execVscanRowAff (hd ha hb hc : HReg) (rm : BitVec 2) (excl : Bool) (s : State) : Host.Outcome State Fault Refusal :=
  vecAffine (.vscanRowAff hd ha hb hc rm excl) hd ha hb hc true excl (treeMode rm) s

/-- VSCAN.COL.AFF (16 R323). -/
def execVscanColAff (hd ha hb hc : HReg) (rm : BitVec 2) (excl : Bool) (s : State) : Host.Outcome State Fault Refusal :=
  vecAffine (.vscanColAff hd ha hb hc rm excl) hd ha hb hc false excl (treeMode rm) s

/-! ### Gather and scatter (16 R324) -/

/-- Try something without its effect where it stops. -/
def attempt {α : Type} (m : M α) : M (Except Stop α) := fun s =>
  match m s with
  | .ok (a, t) => .ok (.ok a, t)
  | .error e => .ok (.error e, s)

/-- The index an element holds, if it lies in 0 to n - 1. -/
def indexOf (t : Tile) (bits n : Nat) : Option Nat :=
  let v := signed bits t.form.bits
  if 0 ≤ v ∧ v < n then some v.toNat else none

/-- Put a number into a rising list. -/
def insertRising (x : Nat) : List Nat → List Nat
  | [] => [x]
  | y :: ys => if x < y then x :: y :: ys else if x = y then y :: ys else y :: insertRising x ys

def needIndex (t : Tile) (shape : Bool) : Need := needSrc t (if t.isImm then [7] else fmtInt) shape

/-- VGATHER: hd(k) := ha(index k), or the zero pattern (16 R324). The table's accesses come before the indices' (R311). -/
def execVgather (hd ha hb : HReg) (la : BitVec 4) (s : State) : Host.Outcome State Fault Refusal :=
  vector (.vgather hd ha hb la) la hd [hd, ha, hb] [ha, hb] noMode (fun _ => do
    let d ← tileOf hd
    let a0 ← tileOf ha
    let b ← tileOf hb
    checkNeeds [needDst d fmtRaw, needRaw d a0 true, needIndex b (sameShape d b)]
    awaitCopies [d, a0, b]
    let big ← reserveWindows [d]
    let a := a0.takenIn d
    let n := a.er * a.ec
    let idx ← forGrid b.er b.ec fun i j => attempt (b.read i j)
    let good := idx.flatten.filterMap fun e => match e with | .ok v => indexOf b v n | .error _ => none
    let cells ← (good.foldl (fun l v => insertRising v l) []).mapM fun v => do return (v, ← a.read (v / a.ec) (v % a.ec))
    match idx.flatten.findSome? fun e => match e with | .error x => some x | .ok _ => none with
    | some e => stop e
    | none => pure ()
    let pick := fun i j =>
      match gridAt (.ok 0) idx i j with
      | .ok v => (match indexOf b v n with | some k => getT d.form.zeroBits cells k | none => d.form.zeroBits)
      | .error _ => d.form.zeroBits
    d.writeAll (mkGrid d.er d.ec pick)
    return { big := big }) s

/-- VSCATTER: hd(index k) := ha(k), the latest k winning (16 R324). -/
def execVscatter (hd ha hb : HReg) (la : BitVec 4) (s : State) : Host.Outcome State Fault Refusal :=
  vector (.vscatter hd ha hb la) la hd [hd, ha, hb] [ha, hb] noMode (fun _ => do
    let d ← tileOf hd
    let a0 ← tileOf ha
    let b ← tileOf hb
    checkNeeds [needDst d fmtRaw, needRaw d a0 true, needIndex b (a0.isImm || sameShape a0 b)]
    awaitCopies [d, a0, b]
    let big ← reserveWindows [d]
    let x ← (a0.takenIn d).readAll
    let idx ← b.readAll
    let (er, ec) := if a0.isImm then (b.er, b.ec) else (a0.er, a0.ec)
    let n := d.er * d.ec
    let put := (mkGrid er ec fun i j => (gridAt 0 x i j, indexOf b (gridAt 0 idx i j) n)).flatten.foldl
      (fun (t : Table (Option Nat)) (p : Nat × Option Nat) => match p.2 with | some k => setT none t k (some p.1) | none => t) []
    put.forM fun (k, v) => match v with | some v => d.write (k / d.ec) (k % d.ec) v | none => pure ()
    return { big := big }) s

/-! ### Rearrangement (16 R325, R326) -/

/-- A member that copies patterns of one source. -/
def vecMove (i : Instr) (la : BitVec 4) (hd ha : HReg) (shape : Tile → Tile → Bool) (f : Grid Nat → Nat → Nat → Nat) (s : State) :
    Host.Outcome State Fault Refusal :=
  vector i la hd [hd, ha] [ha] noMode (fun _ => do
    let d ← tileOf hd
    let a ← tileOf ha
    runRaw d [a] [needDst d fmtRaw, needRaw d a (a.isImm || shape d a)] (fun gs => f (gs.getD 0 []))) s

/-- VTRN (16 R325). -/
def execVtrn (hd ha : HReg) (la : BitVec 4) (s : State) : Host.Outcome State Fault Refusal :=
  vecMove (.vtrn hd ha la) la hd ha (fun d t => t.er == d.ec && t.ec == d.er) (fun g i j => gridAt 0 g j i) s

/-- VBCAST.ROW (16 R325). -/
def execVbcastRow (hd ha : HReg) (la : BitVec 4) (s : State) : Host.Outcome State Fault Refusal :=
  vecMove (.vbcastRow hd ha la) la hd ha (fun d t => t.er == 1 && t.ec == d.ec) (fun g _ j => gridAt 0 g 0 j) s

/-- VBCAST.COL (16 R325). -/
def execVbcastCol (hd ha : HReg) (la : BitVec 4) (s : State) : Host.Outcome State Fault Refusal :=
  vecMove (.vbcastCol hd ha la) la hd ha (fun d t => t.er == d.er && t.ec == 1) (fun g i _ => gridAt 0 g i 0) s

/-- The checks of VPACK and VUNPACK on the pair of a window and the stride: the wide side must hold o + (n - 1) k (16 R326). -/
def checkStride (d a b : Tile) (narrow wide : Nat) : M Unit := do
  checkNeeds [needDst d fmtRaw, needRaw d a (a.isImm || a.er == d.er), { tile := b, spaces := [spImm], fmts := [7], shape := true, cover := false }]
  let k := b.base % 2 ^ 16
  if k = 0 ∨ wide ≤ b.base / 2 ^ 16 % 2 ^ 16 + (narrow - 1) * k then raiseHandle b.reg 11

/-- VPACK: hd(i, o + j k) := ha(i, j) (16 R326). -/
def execVpack (hd ha hb : HReg) (la : BitVec 4) (s : State) : Host.Outcome State Fault Refusal :=
  vector (.vpack hd ha hb la) la hd [hd, ha, hb] [ha, hb] noMode (fun _ => do
    let d ← tileOf hd
    let a ← tileOf ha
    let b ← tileOf hb
    checkStride d a b a.ec d.ec
    awaitCopies [d, a]
    let big ← reserveWindows [d]
    let x ← (a.takenIn d).readAll
    let k := b.base % 2 ^ 16
    let o := b.base / 2 ^ 16 % 2 ^ 16
    forEach (mkGrid d.er a.ec (gridAt 0 x)) fun i j v => d.write i (o + j * k) v
    return { big := big }) s

/-- VUNPACK: hd(i, j) := ha(i, o + j k) (16 R326). An immediate fills the window. -/
def execVunpack (hd ha hb : HReg) (la : BitVec 4) (s : State) : Host.Outcome State Fault Refusal :=
  vector (.vunpack hd ha hb la) la hd [hd, ha, hb] [ha, hb] noMode (fun _ => do
    let d ← tileOf hd
    let a ← tileOf ha
    let b ← tileOf hb
    let k := b.base % 2 ^ 16
    let o := b.base / 2 ^ 16 % 2 ^ 16
    checkStride d a b d.ec (if a.isImm then o + (d.ec - 1) * k + 1 else a.ec)
    awaitCopies [d, a]
    let big ← reserveWindows [d]
    let x ← forGrid d.er d.ec fun i j => (a.takenIn d).read i (o + j * k)
    d.writeAll x
    return { big := big }) s

end Sys2Proof.Machine
end

