-- ==== Sys2Proof/Machine/Matrix.lean ====
section
/-!
DEFINITION. Sys2Proof/Machine/Matrix.lean: the matrix unit (17): acceptance, the MAT major, the execution of accepted commands, remote
commands and CAPMINT.
-/

namespace Sys2Proof.Machine

/-! ### Formats, slots and shapes (17 R331 to R335) -/

def fmtOperand : List Nat := [1, 2, 3, 4, 8, 9, 10]
def fmtDrain : List Nat := [0, 1, 2, 3, 4, 8, 9, 10]

def isLnsKind (f : Nat) : Bool := f == 4 || f == 10

/-- May A and B formats go together (17 R335)? -/
def pairAccepted (a b : Nat) : Bool := fmtOperand.contains a && fmtOperand.contains b && isLnsKind a == isLnsKind b

/-- Levels of an accumulation slot of M rows (17 R333). -/
def slotDepth (m : Nat) : Nat := min 16 (2048 / m)

/-- Bytes of a canonical row (17 R331). -/
def rowLength (fmt : Nat) : Nat := if fmt = 1 then 256 else 128

/-- Is the window the whole of a tile of this shape? -/
def Tile.whole (t : Tile) (rows cols : Nat) : Bool :=
  t.rows == rows && t.cols == cols && t.row0 == 0 && t.col0 == 0 && t.er == rows && t.ec == cols

/-- Rows of M: a multiple of 32 from 32 to 1,024. -/
def goodM (m : Nat) : Bool := m % 32 == 0 && 32 ≤ m && m ≤ 1024

/-- The byte of a canonical row at which an element's bytes begin, and how many they are (17 R331). -/
def rowElement (fmt c : Nat) : Nat × Nat :=
  if fmt = 1 then (2 * c, 2)
  else if isLnsKind fmt then ((if c < 64 then c / 4 * 3 else 64 + (c - 64) / 4 * 3), 3)
  else (c, 1)

/-- The address of an element of a canonical operand. -/
def Tile.canonAddr (t : Tile) (a c : Nat) : Nat := t.base + canonical (rowLength t.fmt) a (rowElement t.fmt c).1

/-! ### Who asks (17 R328, R335, R346) -/

/-- Where a command comes from and what it is checked under: the requester core and slot, the unit's cluster, the core whose TCM SPACE 0
names, the formats and drain mode, and the B slots its kernel may use. -/
structure MatReq where
  core : Nat
  slot : Nat
  cluster : Nat
  tcm : Nat
  remote : Bool
  fc : FormatContext
  bsmib : Nat
  deriving DecidableEq, Repr

/-- The executing context as a local requester. -/
def State.matReq (s : State) : MatReq :=
  let u := clusterOf s.coreId
  { core := s.coreId, slot := s.cur.2, cluster := u, tcm := s.coreId, remote := false
    fc := ((s.cluster u).contexts[s.coreId % 8]?).getD FormatContext.reset
    bsmib := ((s.kernel? s.ctx.owner s.ctx.knum).map (·.bsmib)).getD 0 }

/-- Bytes of the local memory a handle's SPACE names. -/
def MatReq.size (r : MatReq) (s : State) (space : Nat) : Nat := if space = spTcm then s.tcmSize r.tcm else spadSize

/-- The window address PROTECT reports (05 R102). -/
def windowBase (space : Nat) : Nat := if space = spTcm then tcmWindow else spadWindow

/-- Where an address within SPACE 0 or 1 lies. -/
def MatReq.loc (r : MatReq) (space a : Nat) : Nat := if space = spTcm then tcmLoc r.tcm a else spadLoc r.cluster a

/-! ### The checks of R339 -/

/-- The first reason whose condition holds. -/
def firstReason : List (Nat × Bool) → Option Nat
  | [] => none
  | (k, b) :: rest => if b then some k else firstReason rest

/-- The checks on each handle in turn. -/
def checkReasons : List (HReg × List (Nat × Bool)) → M Unit
  | [] => pure ()
  | (r, rows) :: rest =>
    match firstReason rows with
    | some k => raiseHandle r k
    | none => checkReasons rest

/-- The accumulation slot a handle names, and the M the checks use (17 R339). -/
def Cluster.slotOf (u : Cluster) (t : Tile) : AccSlot := (u.acc[t.base % 4]?).getD { state := .free, holder := 0, m := 0, k := 0 }

def Cluster.slotM (u : Cluster) (t : Tile) : Nat := let a := u.slotOf t; if a.state = .free then t.rows else a.m

/-- The rows of R339 on an accumulation slot; `bad` is the condition of reason 13 special to the command, `full` that of reason 12. -/
def slotRows (u : Cluster) (r : MatReq) (t : Tile) (anew bad full : Bool) : List (Nat × Bool) :=
  let a := u.slotOf t
  [(9, t.space != spAcc || t.fmt != 0), (4, decide (4 ≤ t.base)),
   (10, !(goodM t.rows && t.whole t.rows 128) || (!anew && t.rows != u.slotM t)),
   (13, (a.state != .free && a.holder != r.core) || bad), (12, full)]

/-- The rows of R339 on a B slot; `fmt` is the condition of reason 9 of MBLD, `bad` that of reason 14. -/
def bslotRows (r : MatReq) (t : Tile) (fmt bad : Bool) : List (Nat × Bool) :=
  [(9, t.space != spBstore || fmt),
   (4, t.base % 512 != 0 || decide (2 ^ 17 ≤ t.base) || (r.bsmib != 0 && decide (16 * r.bsmib ≤ t.base / 512))),
   (10, !t.whole 128 128), (14, bad)]

/-- Is SPACE 0 or 1? -/
def Tile.isLocal (t : Tile) : Bool := t.space == spTcm || t.space == spPad

/-- The rows of R339 on an A operand. -/
def operandRows (r : MatReq) (t : Tile) (m : Nat) : List (Nat × Bool) :=
  [(9, !(t.isLocal && fmtOperand.contains t.fmt)), (5, t.base % 64 != 0),
   (10, t.cols != 128 || !goodM t.rows || t.row0 != 0 || t.col0 != 0 || t.er != t.rows),
   (13, t.er != m), (14, t.fmt != r.fc.aFmt)]

/-- The rows of R339 on the source of MBLD. -/
def sourceRows (t : Tile) : List (Nat × Bool) :=
  [(9, !(t.isLocal && fmtOperand.contains t.fmt)), (5, t.base % 64 != 0), (10, !t.whole 128 128)]

/-- The rows of R339 on C or on a drain destination. -/
def plainRows (t : Tile) (fmts : List Nat) (m : Nat) (cover noLast : Bool) : List (Nat × Bool) :=
  [(9, !(t.isLocal && fmts.contains t.fmt)), (5, !t.aligned), (10, t.er != m || t.ec != 128),
   (7, cover && t.form.isMx && !t.wholeBlocks), (11, noLast)]

/-- PROTECT at the first of some addresses (start, bytes) that leaves the memory. -/
def checkBounds (r : MatReq) (t : Tile) (as : List (Int × Nat)) : M Unit := do
  let s ← get
  let size : Int := r.size s t.space
  match as.find? fun (a, n) => decide (a < 0) || decide (size < a + n) with
  | some (a, _) => stop (.trap causeProtect (BitVec.ofInt 64 (windowBase t.space + a)))
  | none => pure ()

/-- The element addresses of a canonical operand in row-major order, then its scales'. -/
def Tile.canonAccesses (t : Tile) : List (Int × Nat) :=
  ((List.range t.er).map fun a => (List.range t.ec).map fun c => ((t.canonAddr a c : Int), (rowElement t.fmt c).2)).flatten
    ++ (if t.form.isMx then ((List.range t.er).map fun a => (List.range ((t.ec + 31) / 32)).map fun b =>
          (((t.sbase + 4 * a + b : Nat) : Int), 1)).flatten else [])

/-- The element addresses of a window in row-major order, then its scales'. -/
def Tile.accesses (t : Tile) : List (Int × Nat) :=
  ((List.range t.er).map fun i => (List.range t.ec).map fun j => t.elemAddr i j).flatten
    ++ (if t.form.isMx then ((List.range t.er).map fun i => (List.range t.blocks).map fun b => (t.scaleAddr i b, 1)).flatten else [])

/-! ### Acceptance (17 R328, R340 to R342) -/

/-- Change an accumulation slot of the unit. -/
def Cluster.setSlot (u : Cluster) (t : Tile) (a : AccSlot) : Cluster := { u with acc := u.acc.setIfInBounds (t.base % 4) a }

/-! Each acceptance answers the number of the command it has queued, or none where the destination window is empty and the instruction has no
effect beyond the checks of R21 (02 R22). -/

/-- Put an accepted command into the unit's queue under a number of its own. -/
def enqueueMat (r : MatReq) (op : MatOp) (hd ha hb hc : HReg) (first last rel withC : Bool) : M (Option Nat) := do
  let s ← get
  let h := s.ctx.arch.handles
  let q : MatCmd :=
    { id := s.fresh, op := op, core := r.core, slot := r.slot, remote := r.remote, hd := h[hd], ha := h[ha], hb := h[hb]
      hc := if withC then h[hc] else 0, first := first, last := last, release := rel, aFmt := r.fc.aFmt, bFmt := r.fc.bFmt, mode := r.fc.mode }
  modify fun s => { (s.mapCluster r.cluster fun u => { u with queue := u.queue ++ [q] }) with fresh := s.fresh + 1 }
  return some q.id

/-- MZERO at acceptance. -/
def acceptZero (r : MatReq) (hd : HReg) : M (Option Nat) := do
  checkHandles [hd]
  let d ← tileOf hd
  if d.isEmpty then return none
  let u := (← get).cluster r.cluster
  checkReasons [(hd, slotRows u r d true false false)]
  modify fun s => s.mapCluster r.cluster fun u => u.setSlot d { state := .empty, holder := r.core, m := d.rows, k := 0 }
  enqueueMat r .mzero hd hd hd hd false false false false

/-- MBLD at acceptance: the slot's format is recorded. -/
def acceptLoad (r : MatReq) (hd ha : HReg) : M (Option Nat) := do
  checkHandles [hd, ha]
  let d ← tileOf hd
  if d.isEmpty then return none
  let a ← tileOf ha
  checkReasons [(hd, bslotRows r d (d.fmt != a.fmt) false), (ha, sourceRows a)]
  checkBounds r a a.canonAccesses
  modify fun s => s.mapCluster r.cluster fun u => { u with
    bslots := setT 0 u.bslots (d.base / 512) a.fmt, bcores := setT 0 u.bcores (d.base / 512) (r.core + 1) }
  enqueueMat r .mbld hd ha ha ha false false false false

/-- MMUL at acceptance. `withC` is off for a remote command, which adds no C. -/
def acceptMul (r : MatReq) (hd ha hb hc : HReg) (first last withC : Bool) : M (Option Nat) := do
  checkHandles ([hd, ha, hb] ++ if withC then [hc] else [])
  let d ← tileOf hd
  if d.isEmpty then return none
  let a ← tileOf ha
  let b ← tileOf hb
  let c ← tileOf hc
  let u := (← get).cluster r.cluster
  let slot := u.slotOf d
  let m := u.slotM d
  let useC := withC && !c.null
  checkReasons ([(hd, slotRows u r d false (if first then slot.state == .free else slot.state != .accumulating)
      (!first && !last && slot.k + 1 == 2 ^ slotDepth slot.m)),
    (ha, operandRows r a m), (hb, bslotRows r b false (getT 0 u.bslots (b.base / 512) != r.fc.bFmt))]
    ++ if useC then [(hc, plainRows c [0, 1] m false (!last))] else [])
  checkBounds r a a.canonAccesses
  if useC then checkBounds r c c.accesses
  modify fun s => s.mapCluster r.cluster fun u =>
    u.setSlot d { slot with state := if last then .ready else .accumulating, k := if first then 1 else slot.k + 1 }
  enqueueMat r .mmul hd ha hb hc first last false useC

/-- MDRAIN at acceptance: with RELEASE the slot becomes FREE. -/
def acceptDrain (r : MatReq) (hd ha : HReg) (rel : Bool) : M (Option Nat) := do
  checkHandles [hd, ha]
  let d ← tileOf hd
  if d.isEmpty then return none
  let a ← tileOf ha
  let u := (← get).cluster r.cluster
  let slot := u.slotOf a
  checkReasons [(hd, plainRows d fmtDrain (u.slotM a) true false), (ha, slotRows u r a false (slot.state != .ready) false)]
  checkBounds r d d.accesses
  if rel then modify fun s => s.mapCluster r.cluster fun u => u.setSlot a { state := .free, holder := 0, m := 0, k := 0 }
  enqueueMat r .mdrain hd ha ha ha false false rel false

/-- Commands of a core, local or remote, that wait in the unit's queue. -/
def Cluster.queued (u : Cluster) (core : Nat) (remote : Bool) : Nat := (u.queue.filter fun q => q.core == core && q.remote == remote).length

/-- Steps 1 and 2 of R328: the chunk ends, and the instruction waits for the conditions on the matrix path and for a free queue entry. -/
def enterMat : M Unit := do
  endChunk
  handOff (·.matrix)
  let s ← get
  if 2 ≤ (s.cluster (clusterOf s.coreId)).queued s.coreId false then waitFor .matrix

/-! ### The MAT major (17 R338 to R343) -/

/-- The destination a matrix instruction protects (17 R338). -/
def State.matDest (s : State) (hd : HReg) : Dest :=
  let t := Tile.of hd s.ctx.arch.handles[hd]
  .window hd t.space (t.footprint s)

/-- An accepted MCTX takes an entry of its core's queue until the commands before it have executed; where none is queued it keeps no entry (17 R328, R329). -/
def enqueueMctx (ha hb : HReg) : M Unit := do
  let s ← get
  let r := s.matReq
  if (s.cluster r.cluster).queue.isEmpty then return
  let _ ← enqueueMat r .mctx ha ha hb hb false false false false

/-- MCTX writes the requester's format context (17 R340). -/
def execMctx (ha hb : HReg) (rm : BitVec 3) (s : State) : Host.Outcome State Fault Refusal :=
  complete (.mctx ha hb rm) (do
    let code := if rm = 7 then bitsOf s.ctx.arch.fcsr 5 3 else rm.toNat
    if code = 7 then illegal
    enterMat
    checkHandles [ha, hb]
    let a ← tileOf ha
    let b ← tileOf hb
    if !pairAccepted a.fmt b.fmt then raiseHandle hb 9
    modify fun s => s.mapCluster (clusterOf s.coreId) fun u =>
      { u with contexts := u.contexts.setIfInBounds (s.coreId % 8) { aFmt := a.fmt, bFmt := b.fmt, mode := code } }
    enqueueMctx ha hb
    retireDone 4) s

/-- MBLD (17 R341). -/
def execMbld (hd ha : HReg) (la : BitVec 4) (s : State) : Host.Outcome State Fault Refusal :=
  complete (.mbld hd ha la) (do
    enterMat
    let t ← get
    let _ ← acceptLoad t.matReq hd ha
    retireHanded 4 la (s.matDest hd)) s

/-- MMUL (17 R342). -/
def execMmul (hd ha hb hc : HReg) (last first : Bool) (la : BitVec 4) (s : State) : Host.Outcome State Fault Refusal :=
  complete (.mmul hd ha hb hc last first la) (do
    enterMat
    let t ← get
    let _ ← acceptMul t.matReq hd ha hb hc first last true
    retireHanded 4 la (s.matDest hd)) s

/-- MDRAIN (17 R342). -/
def execMdrain (hd ha : HReg) (rel : Bool) (la : BitVec 4) (s : State) : Host.Outcome State Fault Refusal :=
  complete (.mdrain hd ha rel la) (do
    enterMat
    let t ← get
    let _ ← acceptDrain t.matReq hd ha rel
    retireHanded 4 la (s.matDest hd)) s

/-- MZERO (17 R341). -/
def execMzero (hd : HReg) (la : BitVec 4) (s : State) : Host.Outcome State Fault Refusal :=
  complete (.mzero hd la) (do
    enterMat
    let t ← get
    let _ ← acceptZero t.matReq hd
    retireHanded 4 la (s.matDest hd)) s

/-- The local commands of a core that its unit has queued. -/
def Cluster.localQueue (u : Cluster) (core : Nat) : List MatCmd := u.queue.filter fun q => q.core == core && !q.remote

/-- The end of MWAIT: the core's matrix flags are folded into CR_FCSR (17 R343). -/
def finishMwait (start : M Unit) (s : State) : Host.Outcome State Fault Refusal :=
  match (do
    start
    let s ← get
    modify fun s => s.mapCore s.coreId fun c => { c with matFlags := 0 }
    return s.myCore.matFlags : M Flags) s with
  | .ok (f, t) =>
    let t := t.mapArch fun a => a.raiseFlags f
    if t.ctx.arch.enabled f = 0 then complete .mwait (fun _ => retireDone 4 t) s
    else .next ((t.mapChunk fun c => { c with ins := c.ins + 1 }).takeTrap .mwait causeFpx 0 true 0 [])
  | .error e => complete .mwait (fun _ => .error e) s

/-- MWAIT waits for the commands that its core has queued before it; `a` of its wait is one more than the number of the last (17 R343). -/
def execMwait (s : State) : Host.Outcome State Fault Refusal :=
  finishMwait (do
    endChunk
    let s ← get
    match ((s.cluster (clusterOf s.coreId)).localQueue s.coreId).getLast? with
    | some q => stop (.wait { kind := .matrix, a := q.id + 1 })
    | none => pure ()) s

/-- An MWAIT whose commands have all completed ends (17 R343). -/
def State.endMwait (s : State) (core slot : Nat) : State :=
  let c := s.ctxAt core slot
  if c.life ≠ .waiting ∨ c.wait.ins ≠ some .mwait ∨ ((s.cluster (clusterOf core)).localQueue core).any (fun q => q.id < c.wait.a) then s
  else s.inSlot core slot fun s => let s := { s with ctx := s.ctx.wake }; nextOf s (finishMwait (pure ()) s)

/-- The MWAITs of a core whose commands have all completed end. -/
def State.endMwaits (s : State) (core : Nat) : State :=
  (s.allCtxs.filter fun (k, _, _) => k == core).foldl (fun s (k, slot, _) => s.endMwait k slot) s

/-! ### Acceptance after a wait (17 R328) -/

/-- Execute the MAT instruction a context waits to have accepted. -/
def execWaitingMat (i : Instr) (s : State) : Option State :=
  match i with
  | .mctx ha hb rm => some (nextOf s (execMctx ha hb rm s))
  | .mbld hd ha la => some (nextOf s (execMbld hd ha la s))
  | .mmul hd ha hb hc last first la => some (nextOf s (execMmul hd ha hb hc last first la s))
  | .mdrain hd ha rel la => some (nextOf s (execMdrain hd ha rel la s))
  | .mzero hd la => some (nextOf s (execMzero hd la s))
  | _ => none

/-- Does a context wait for a unit to accept its local MAT instruction? -/
def Context.asksLocal (c : Context) (unit core : Nat) : Bool :=
  clusterOf core == unit && c.life == .waiting && c.wait.kind == .matrix && c.wait.ins != some .mwait

/-- Does a context wait for a unit to take the request of its MREM (17 R346)? -/
def Context.asksRemote (c : Context) (unit : Nat) : Bool :=
  match c.wait.ins with
  | some (.mrem _ _ _ hc _) => c.life == .waiting && c.wait.kind == .remoteCommand && c.wait.a == 0 && bitsOf c.arch.handles[hc] 33 6 == unit
  | _ => false

/-- The contexts, by ascending core and slot, that wait for acceptance at a unit, locally or remotely, and whose core's queue there has room. -/
def State.matContenders (s : State) (unit : Nat) : List (Nat × Nat) :=
  (s.allCtxs.filter fun (core, _, c) =>
    (c.asksLocal unit core && decide ((s.cluster unit).queued core false < 2)) ||
    (c.asksRemote unit && decide ((s.cluster unit).queued core true < 2))).map fun (core, slot, _) => (core, slot)


/-! ### Execution (17 R329, R336, R341, R342) -/

/-- The requester of an accepted command. -/
def MatCmd.req (q : MatCmd) (unit : Nat) : MatReq :=
  { core := q.core, slot := q.slot, cluster := unit
    tcm := if q.remote then 8 * unit + (Config.remoteTcm unit q.core).val else q.core
    remote := q.remote, fc := { aFmt := q.aFmt, bFmt := q.bFmt, mode := q.mode }, bsmib := 0 }

/-- A write of the unit for a command. -/
def State.matWrite (s : State) (q : MatCmd) (loc : Nat) (bytes : List Byte) : State :=
  let c := s.core q.core
  s.foreignWrite (s.seamOf c.owner c.knum) c.owner loc (loc / 128) bytes

/-- The bytes of a canonical row, from where they lie. -/
def State.canonRow (s : State) (r : MatReq) (t : Tile) (a : Nat) : List Byte :=
  ((List.range (rowLength t.fmt / 64)).map fun p => s.bytesAt (r.loc t.space (t.base + canonical (rowLength t.fmt) a (64 * p))) 64).flatten

/-- Element c of a canonical row, as its pattern. -/
def rowPattern (fmt : Nat) (row : List Byte) (c : Nat) : Nat :=
  let (o, n) := rowElement fmt c
  let v := ofLeBytes ((row.drop o).take n)
  if isLnsKind fmt then v / 2 ^ (6 * (c % 4)) % 64 else v

/-- The elements of a canonical row with their scale bytes; 127 stands for no scale. -/
def State.operandRow (s : State) (r : MatReq) (t : Tile) (a : Nat) : List (Nat × Nat) :=
  let row := s.canonRow r t a
  (List.range t.ec).map fun c =>
    (rowPattern t.fmt row c, if t.form.isMx then (s.byteAt (r.loc t.space (t.sbase + 4 * a + c / 32))).toNat else 127)

/-- Where column n of a B slot lies. -/
def slotLoc (unit base n : Nat) : Nat := bstoreLoc unit (n * 2 ^ 17 + base)

/-- Column n of a B slot: 128 elements with their scale bytes. -/
def State.columnOf (s : State) (unit base fmt n : Nat) : List (Nat × Nat) :=
  let row := s.bytesAt (slotLoc unit base n) 256
  (List.range 128).map fun k =>
    (rowPattern fmt row k, if ((Fmt.ofCode fmt).map Fmt.isMx).getD false then (s.byteAt (slotLoc unit base n + 256 + k / 32)).toNat else 127)

/-- The value of an operand's element before its scale; under the scale 0xFF it is a NaN (04 R83). -/
def matValue (fmt : Nat) (x : Nat × Nat) : Val := if x.2 = 255 then .nan false else ((Fmt.ofCode fmt).getD .fp32).value x.1

/-- The product of two LNS6 elements that no scale makes a NaN (04 R93). -/
def lnsProduct (x y : Nat) : Val :=
  if x % 64 = lnsZero ∨ y % 64 = lnsZero then .zero false
  else
    let ls := x % 32 + y % 32
    .fin ((x / 32 + y / 32) % 2 == 1) (lnsF (ls % 4)) ((ls / 4 : Nat) - 31)

/-- One leaf: the product of two elements under their scales (04 R93, 17 R336). The scales multiply the exact product, which is then rounded once,
also where it alone would leave FP32's range: DESIGN CHOICE (log 193), R93 can also be read to round twice. -/
def matProduct (aFmt bFmt : Nat) (x y : Nat × Nat) : Nat × Flags :=
  let (v, f) : Val × Flags :=
    if isLnsKind aFmt && x.2 != 255 && y.2 != 255 then (lnsProduct x.1 y.1, 0) else Val.mul (matValue aFmt x) (matValue bFmt y)
  let (b, g) := specFp32.deliver .rne 0 (v.scale ((x.2 : Int) + y.2 - 254))
  (b, f ||| g)

/-- A block sum over the leaves that are present (17 R336, 04 R96). -/
def blockSum (aFmt bFmt : Nat) (row col : List (Nat × Nat)) : Nat × Flags :=
  let ls := row.zipWith (matProduct aFmt bFmt) col
  let (r, f) := treeReduce (addFp32 .rne) (ls.map (·.1))
  (r.getD 0, ls.foldl (fun g l => g ||| l.2) f)

/-- Push: the lowest levels of a full run combine with the block sum; the level it comes to rest at (04 R97). -/
def pushLevels (level : Nat → Nat) (k depth : Nat) : (fuel l c : Nat) → Flags → Nat × Nat × Flags
  | 0, l, c, f => (l, c, f)
  | n + 1, l, c, f =>
    if l < depth ∧ k / 2 ^ l % 2 = 1 then
      let (d, g) := addFp32 .rne (level l) c
      pushLevels level k depth n (l + 1) d (f ||| g)
    else (l, c, f)

/-- Finish: the levels above fold in ascending order (04 R97). -/
def foldLevels (level : Nat → Nat) (k depth : Nat) : (fuel l c : Nat) → Flags → Nat × Flags
  | 0, _, c, f => (c, f)
  | n + 1, l, c, f =>
    if l < depth then
      if k / 2 ^ l % 2 = 1 then
        let (d, g) := addFp32 .rne c (level l)
        foldLevels level k depth n (l + 1) d (f ||| g)
      else foldLevels level k depth n (l + 1) c f
    else (c, f)

/-- Where level l of row i of an accumulation slot begins; the root of a READY slot lies at level 0. -/
def levelLoc (unit slot m l i : Nat) : Nat := accLoc unit (slot * 2 ^ 20 + (l * m + i) * 512)

/-- A word of C as FP32. -/
def State.cWord (s : State) (r : MatReq) (t : Tile) (i n : Nat) : Nat :=
  let (a, k) := t.elemAddr i n
  rawFp32 (t.form.value (s.natAt (r.loc t.space a.toNat) k))

/-- MMUL at execution: every block sum is pushed; with LAST the fold and the root follow (17 R342). -/
def State.runMul (s : State) (unit : Nat) (q : MatCmd) : State × Flags :=
  let r := q.req unit
  let d := Tile.of 0 q.hd
  let a := Tile.of 0 q.ha
  let b := Tile.of 0 q.hb
  let c := Tile.of 0 q.hc
  let m := d.rows
  let slot := d.base % 4
  let depth := slotDepth m
  let k := if q.first then 0 else ((s.cluster unit).done[slot]?).getD 0
  let cols := (List.range 128).map (s.columnOf unit b.base q.bFmt)
  let one := fun (row : List (Nat × Nat)) (i n : Nat) (col : List (Nat × Nat)) =>
    let level := fun l => s.natAt (levelLoc unit slot m l i + 4 * n) 4
    let (x, f) := blockSum q.aFmt q.bFmt row col
    let (l, y, g) := pushLevels level k depth 17 0 x f
    if q.last then
      let (z, h) := foldLevels level k depth 17 (l + 1) y g
      if c.null then (l, z, h) else let (w, e) := addFp32 .rne (s.cWord r c i n) z; (l, w, h ||| e)
    else (l, y, g)
  let rows := (List.range m).map fun i => let row := s.operandRow r a i; cols.zipIdx.map fun (col, n) => one row i n col
  let flags := rows.flatten.foldl (fun f x => f ||| x.2.2) 0
  let s := rows.zipIdx.foldl (fun s (row, i) =>
    let l := if q.last then 0 else (row.head?.map (·.1)).getD 0
    s.matWrite q (levelLoc unit slot m l i) (row.map fun x => leBytes 4 x.2.1).flatten) s
  (s.mapCluster unit fun u => { u with done := u.done.setIfInBounds slot (if q.last then 0 else k + 1) }, flags)

/-- MBLD at execution: source row n becomes column n, the rest of the slot reads as zero (17 R332, R341). -/
def State.runLoad (s : State) (unit : Nat) (q : MatCmd) : State :=
  let r := q.req unit
  let d := Tile.of 0 q.hd
  let a := Tile.of 0 q.ha
  let cut := fun (row : List Byte) =>
    if isLnsKind a.fmt then row.zipIdx.map fun (x, i) => if i % 64 < 48 then x else 0 else row
  (List.range 128).foldl (fun t n =>
    let row := cut (s.canonRow r a n)
    let scales := if a.form.isMx then s.bytesAt (r.loc a.space (a.sbase + 4 * n)) 4 else []
    let bytes := row ++ List.replicate (256 - row.length) 0 ++ scales
    t.matWrite q (slotLoc unit d.base n) (bytes ++ List.replicate (512 - bytes.length) 0)) s

/-- The bytes of an element written by the unit: a packed element keeps the rest of its group. -/
def State.matElement (s : State) (q : MatCmd) (r : MatReq) (t : Tile) (i j v : Nat) : State :=
  let (a, n) := t.elemAddr i j
  let loc := r.loc t.space a.toNat
  if n = 3 then
    let g := s.natAt loc 3
    s.matWrite q loc (leBytes 3 (g - g / 2 ^ t.elemBit j % 64 * 2 ^ t.elemBit j + v % 64 * 2 ^ t.elemBit j))
  else s.matWrite q loc (leBytes n v)

/-- MDRAIN at execution: the roots are rounded once into the destination (17 R342). -/
def State.runDrain (s : State) (unit : Nat) (q : MatCmd) : State × Flags :=
  let r := q.req unit
  let d := Tile.of 0 q.hd
  let slot := Tile.of 0 q.ha
  let mode := (RMode.ofCode q.mode).getD .rne
  let out := d.deliver mode (mkGrid d.er 128 fun i n =>
    (specFp32.value (s.natAt (levelLoc unit (slot.base % 4) slot.rows 0 i + 4 * n) 4), 0))
  let s := out.bits.zipIdx.foldl (fun s (row, i) => row.zipIdx.foldl (fun s (v, j) => s.matElement q r d i j v) s) s
  let s := if d.form.isMx then
      out.scales.zipIdx.foldl (fun s (row, i) => row.zipIdx.foldl (fun s (v, b) =>
        s.matWrite q (r.loc d.space (d.scaleAddr i b).toNat) [BitVec.ofNat 8 v]) s) s
    else s
  (s, out.flags.flatten.foldl (· ||| ·) 0)

/-- The effect of a command, and the union of its flags (17 R337). -/
def State.runMat (s : State) (unit : Nat) (q : MatCmd) : State × Flags :=
  match q.op with
  | .mzero => (s.mapCluster unit fun u => { u with done := u.done.setIfInBounds ((Tile.of 0 q.hd).base % 4) 0 }, 0)
  | .mbld => (s.runLoad unit q, 0)
  | .mmul => s.runMul unit q
  | .mdrain => s.runDrain unit q
  | .mctx => (s, 0)

/-! ### Capabilities and remote commands (17 R345, R346) -/

/-- The TAG of a capability's fields under a die's key. -/
def capTag (key fields : Word) : Word := BitVec.ofNat 64 (ofLeBytes ((hmac512 (leBytes 8 key.toNat) (leBytes 8 fields.toNat)).take 8))

/-- CAPMINT (17 R346). -/
def execCapmint (rd rs1 : Reg) (s : State) : Host.Outcome State Fault Refusal :=
  complete (.capmint rd rs1) (do
    requireSupervisor
    let f ← rdReg rs1
    endChunk
    wrReg rd (capTag ((← get).die (bitsOf f 37 2)).capKey f)
    retire 4) s

/-- The slots an MREM of a kind names: the accumulation slot's handle and whether a B slot is named. -/
def remoteSlot (hd ha : HReg) (kind : Nat) : HReg × Bool := if 5 ≤ kind then (ha, false) else (hd, decide (kind < 4))

/-- The code with which a target unit refuses a capability (17 R346). -/
def State.capRefused (s : State) (cap : HWord) (slotBase : Nat) (bBase : Option Nat) : Option Nat :=
  let f := fun lo n => bitsOf cap lo n
  let unit := f 33 6
  let owner := f 48 16
  let fields : Word := cap.setWidth 64
  if (cap >>> 64).setWidth 64 ≠ capTag (s.die (unit / 16)).capKey fields then some 1
  else if owner ≠ s.ctx.owner ∨ !((s.owner? owner).map fun o => o.clusters / 2 ^ unit % 2 == 1).getD false then some 2
  else if f 39 9 ≠ s.coreId then some 3
  else if f 29 4 / 2 ^ (slotBase % 4) % 2 = 0 then some 5
  else if bBase.any fun b => decide (b / 512 < f 21 8) || decide (f 13 8 < b / 512) then some 6
  else if !pairAccepted (f 9 4) (f 5 4) ∨ 7 ≤ f 2 3 then some 7
  else if bitsOf cap 128 128 ≠ 0 then some 8
  else none

/-- The handles that an MREM of a kind names. -/
def remoteHandles (hd ha hb : HReg) (kind : Nat) : List HReg := if kind = 4 then [hd] else if 5 ≤ kind then [hd, ha] else [hd, ha, hb]

/-- MREM: the chunk ends and the command goes to the target unit, whose answer the context waits for (17 R346). With an empty destination it sends
nothing and only the checks of R21 are made (02 R22). -/
def execMrem (hd ha hb hc : HReg) (kind : BitVec 3) (s : State) : Host.Outcome State Fault Refusal :=
  complete (.mrem hd ha hb hc kind) (do
    if kind = 7 then illegal
    endChunk
    if (← tileOf hd).isEmpty then
      checkHandles (remoteHandles hd ha hb kind.toNat)
      retireDone 4
    else
      handOff (·.matrix)
      waitFor .remoteCommand) s

/-- What the target unit does with a request of the executing context: a refusal, a failed check, or acceptance, with the command's number. -/
def remoteAccept (unit : Nat) (hd ha hb hc : HReg) (kind : Nat) : M (Option Nat) := do
  let s ← get
  let cap := s.ctx.arch.handles[hc]
  let (slot, withB) := remoteSlot hd ha kind
  let base := fun (r : HReg) => (Tile.of r s.ctx.arch.handles[r]).base
  match s.capRefused cap (base slot) (if withB then some (base hb) else none) with
  | some x => raise causeCap x
  | none => pure ()
  let r : MatReq :=
    { core := s.coreId, slot := s.cur.2, cluster := unit, tcm := 8 * unit + (Config.remoteTcm unit s.coreId).val, remote := true
      fc := { aFmt := bitsOf cap 9 4, bFmt := bitsOf cap 5 4, mode := bitsOf cap 2 3 }
      bsmib := ((s.kernel? s.ctx.owner s.ctx.knum).map (·.bsmib)).getD 0 }
  match kind with
  | 4 => acceptZero r hd
  | 5 => acceptDrain r hd ha false
  | 6 => acceptDrain r hd ha true
  | k => acceptMul r hd ha hb hc (k % 2 == 1) (k / 2 % 2 == 1) false

/-- A unit's answer to the request of the executing context's waiting MREM: acceptance, or a refusal precise at the MREM (17 R346). -/
def State.takeRemote (s : State) (unit : Nat) : State :=
  match s.ctx.wait.ins with
  | some (.mrem hd ha hb hc kind) =>
    match remoteAccept unit hd ha hb hc kind.toNat s with
    | .ok (id, t) => { t with ctx := { t.ctx with wait := { t.ctx.wait with a := id.getD 0 + 1 } } }
    | .error (.trap cause tval _) =>
      ({ s with ctx := { s.ctx with life := .ready, wait := {} } } : State).takeTrap (.mrem hd ha hb hc kind) cause tval false 0 []
    | .error _ => s
  | _ => s

/-- A unit accepts the local MAT instruction of the executing context, which has waited for it. -/
def State.takeLocal (s : State) : State :=
  let i := s.ctx.wait.ins.getD .mwait
  let s := { s with ctx := s.ctx.wake }
  (execWaitingMat i s).getD s

/-- Acceptances at a unit happen one at a time, each to the contender, local or remote, its arbiter chooses, until the queues of those that are left
are full (17 R328). -/
def State.acceptWaiting (s : State) (unit : Nat) : (fuel : Nat) → State
  | 0 => s
  | n + 1 =>
    match s.chooseCtx 3 (clusterArbiter unit) (s.matContenders unit) with
    | (none, _) => s
    | (some (core, slot), t) =>
      (t.inSlot core slot fun t => if t.ctx.asksRemote unit then t.takeRemote unit else t.takeLocal).acceptWaiting unit n

/-- REMOTE_MATRIX_COMMAND: the request of a core's waiting MREM has reached the unit, which takes the requests that it can (17 R328, R346). -/
def execRemoteMatrixCommand (unit core : Nat) (s : State) : Host.Outcome State Fault Refusal :=
  .next (if (s.matContenders unit).any fun (k, slot) => k == core && (s.ctxAt k slot).asksRemote unit then (s.acceptWaiting unit 512).endKernels else s)

/-! ### Completion (17 R329, R341, R342) -/

/-- A context whose remote command has completed goes on, with the command's flags raised at its MREM (17 R346). -/
def State.remoteReturn (s : State) (core slot : Nat) : State :=
  let c := s.ctxAt core slot
  if c.life ≠ .waiting ∨ c.wait.kind ≠ .remoteCommand then s
  else match s.clusters.findSome? fun p => (p.2.remoteDone.find? fun x => x.1 + 1 == c.wait.a).map fun x => (p.1, x) with
    | none => s
    | some (unit, x) =>
      let s := s.mapCluster unit fun u => { u with remoteDone := u.remoteDone.erase x }
      s.inSlot core slot fun s =>
        let i := s.ctx.wait.ins.getD .mwait
        let s := { s with ctx := { s.ctx with life := .ready, wait := {} } }
        let s := s.mapArch fun a => a.raiseFlags x.2
        if s.ctx.arch.enabled x.2 == (0 : Flags) then (s.retired 4).rebase.takeNotice
        else (s.mapChunk fun k => { k with ins := k.ins + 1 }).takeTrap i causeFpx 0 true 0 []

/-- What commands' leaving a unit's queue and completing lets go on: MWAITs of its cores, and then what waits for acceptance at the unit. -/
def State.afterMat (s : State) (unit : Nat) : State :=
  ((List.range 8).foldl (fun s k => s.endMwaits (8 * unit + k)) s).acceptWaiting unit 512

/-- The queue once the MCTXs at its head have left it. -/
def settleQueue (l : List MatCmd) : List MatCmd := l.dropWhile (·.op == .mctx)

/-- MCTXs that nothing is queued before have left their unit's queue. -/
def settleUnit (unit : Nat) (s : State) : Host.Outcome State Fault Refusal :=
  let q := (s.cluster unit).queue
  .next (if settleQueue q = q then s else ((s.mapCluster unit fun u => { u with queue := settleQueue q }).afterMat unit).wakeRetries)

/-- The oldest command of a unit, of this kind and core, executes; it completes with its writes performed. -/
def matExecute (op : MatOp) (unit core : Nat) (s : State) : Host.Outcome State Fault Refusal :=
  match settleQueue (s.cluster unit).queue with
  | q :: rest =>
    if q.op = op ∧ q.core = core then
      let s := s.mapCluster unit fun u => { u with queue := settleQueue rest }
      let (s, f) := s.runMat unit q
      let s := if q.remote then (s.mapCluster unit fun u => { u with remoteDone := u.remoteDone ++ [(q.id, f)] }).remoteReturn q.core q.slot
        else s.mapCore q.core fun c => { c with matFlags := c.matFlags ||| f }
      .next ((s.afterMat unit).wakeRetries).endKernels
    else .next s
  | [] => .next s

/-- MZERO_EXECUTE (17 R341). -/
def execMzeroExecute (unit core : Nat) (s : State) : Host.Outcome State Fault Refusal := matExecute .mzero unit core s

/-- MBLD_EXECUTE (17 R341). -/
def execMbldExecute (unit core : Nat) (s : State) : Host.Outcome State Fault Refusal := matExecute .mbld unit core s

/-- MMUL_EXECUTE (17 R342). -/
def execMmulExecute (unit core : Nat) (s : State) : Host.Outcome State Fault Refusal := matExecute .mmul unit core s

/-- MDRAIN_EXECUTE (17 R342). -/
def execMdrainExecute (unit core : Nat) (s : State) : Host.Outcome State Fault Refusal := matExecute .mdrain unit core s

/-! ### Carve-out and matrix commands (06 R155) -/

/-- Does a command that has not completed touch TCM bytes lo to hi - 1 of a core? A canonical A operand or MBLD source also has its scales, four bytes
a row from SBASE. -/
def MatCmd.touches (q : MatCmd) (unit core lo hi : Nat) : Bool :=
  let r := q.req unit
  let meets := fun (a b : Int) => decide (a < (hi : Int)) && decide ((lo : Int) < b)
  q.op != .mctx && r.tcm == core && [q.hd, q.ha, q.hc].any fun h =>
    let t := Tile.of 0 h
    t.space == spTcm && !t.isEmpty &&
      (if q.op != .mdrain && h == q.ha then
         meets t.base (t.base + t.rows * rowLength t.fmt) || t.form.isMx && meets t.sbase (t.sbase + 4 * t.rows)
       else t.extents.any fun (a, b) => meets a b)

/-- Must a pending carve-out of a core still wait for copies or matrix commands (06 R155)? -/
def State.carveHeld (s : State) (core : Nat) : Bool :=
  let c := s.core core
  c.carvePend && (s.carveBusy core
    || s.clusters.any fun p => p.2.queue.any fun q => q.touches p.1 core c.carveFrom c.carveTo)

end Sys2Proof.Machine
end

