-- ==== Sys2Proof/Machine/Sync.lean ====
section
/-!
DEFINITION. Sys2Proof/Machine/Sync.lean: the SYNC major but SEAM (09 R215 to R221), and CHUNK_COMMIT (R197).
-/

namespace Sys2Proof.Machine

/-- Raise LINK_LOST (09 R216). -/
def raiseLinkLost {α : Type} (port n : Nat) : M α := raise causeLinkLost (linkLostValue port n)

/-- Does a transfer write to a link page (24 R424)? -/
def State.writesLink (s : State) (t : Transfer) : Bool :=
  (List.range t.plan.total).any fun i => ((s.walk (t.plan.destAddr i)).map fun l => decide (2 ^ 51 ≤ l.frame)).getD false

/-- The thread's transfers to link pages that are still running: link-path writes not yet handed over or acknowledged (24 R422, R424). -/
def State.linkTransfers (s : State) : List Nat :=
  (s.myCore.transfers.filter fun t => t.live && t.slot == s.cur.2 && s.writesLink t).map (·.tid)

/-- Wait until every link-path write of the thread is acknowledged; LINK_LOST when a port is DOWN or FAILED (09 R216). -/
def awaitLinks : M Unit := do
  let s ← get
  match s.linkLost s.coreId s.cur.2 with
  | some (p, n) => raiseLinkLost p n
  | none =>
    if s.links.writes.any (fun w => w.core == s.coreId && w.slot == s.cur.2) || !s.linkTransfers.isEmpty then waitFor .fence

/-- What a fault record says of a link write: the write's address, or the carry number (07 R439). -/
def LinkWrite.value (w : LinkWrite) : Nat :=
  match w.transfer with
  | some (_, _, a) => a
  | none => w.number.toNat

/-- The outstanding link writes that a LINK_LOST reports, one fault-record entry each (09 R216, 07 R439). -/
def State.recordLinkWrites (s : State) (pc : Nat) : State :=
  (s.links.writes.filter fun w => w.core == s.coreId && w.slot == s.cur.2).foldl (fun s w =>
    s.recordEvent w.owner w.knum
      { cause := causeLinkLost, etype := 3, eflags := 0, core := s.coreId, group := s.ctx.group
        rank := if s.ctx.handling.isSome then 0xFFFFFFFF else s.ctx.rank, port := w.port, pc := pc, value := w.value }) s

/-- A fence that finds a link lost completes its other effects, records the writes, and traps (09 R216). -/
def fenceLost (i : Instr) (t : State) (tval : Word) : Host.Outcome State Fault Refusal :=
  .next (if t.ahead then t.endRunahead else (t.recordLinkWrites t.ctx.arch.pc.toNat).trap i causeLinkLost tval false 0 [])

/-- FENCE of a kind and scope (09 R216): 0 full, 1 acquire, 2 release; scopes above core act on SWM copies, system waits for links. -/
def execFence (kind : BitVec 2) (scope : BitVec 3) (s : State) : Host.Outcome State Fault Refusal :=
  let own : M Unit := do
    endChunk
    if 1 ≤ scope.toNat ∧ (kind = 0 ∨ kind = 2) then
      spareEarliest ((← get).swmDirty (← get).coreId)
      modify fun s => s.swmWriteBack s.coreId
    if 1 ≤ scope.toNat ∧ (kind = 0 ∨ kind = 1) then modify fun s => s.swmInvalidate s.coreId
  let whole : M Unit := do
    own
    if scope = 4 then awaitLinks
    retireDone 4
  match whole s with
  | .error (.trap _ tval _) =>
    match own s with
    | .ok (_, t) => fenceLost (.fence kind scope) t tval
    | .error e => complete (.fence kind scope) (fun _ => .error e) s
  | r => complete (.fence kind scope) (fun _ => r) s

/-- The transfers of the executing thread that are still running. -/
def State.myTransfers (s : State) : List Nat :=
  (s.myCore.transfers.filter fun t => t.live && t.slot == s.cur.2).map (·.tid)

/-- The matrix commands of the executing thread that have not completed. -/
def State.myCommands (s : State) : List Nat :=
  (s.clusters.map fun p => (p.2.queue.filter fun q => q.core == s.coreId && q.slot == s.cur.2).map (·.id)).flatten

def State.myLinkWrites (s : State) : List Nat :=
  (s.links.writes.filter fun w => w.core == s.coreId && w.slot == s.cur.2).map (·.id)

/-- What a FENCE.X makes later hand-offs and instructions wait for (09 R203, R217). Collectives have returned before it issues. -/
def State.fenceCondition (s : State) (link : Bool) (later earlier : BitVec 4) : Condition :=
  let bit := fun (w : BitVec 4) (k : Nat) => bitsOf w k 1 == 1
  { core := bit later 0, copy := bit later 1, matrix := bit later 2, collective := bit later 3, link := link
    transfers := if bit earlier 1 then s.myTransfers else if link then s.linkTransfers else []
    commands := if bit earlier 2 then s.myCommands else []
    writes := if link then s.myLinkWrites else [] }

/-- Record a condition, unless it holds; those that hold by now are forgotten. -/
def State.addCondition (s : State) (c : Condition) : State :=
  let live := s.ctx.conditions.filter fun d => !s.conditionMet s.coreId d
  { s with ctx := { s.ctx with conditions := if s.conditionMet s.coreId c then live else live ++ [c] } }

/-- FENCE.X records its condition (09 R203, R217). Where the link is lost as it issues, it records what the other paths make it wait for, and is reported as
FENCE is. -/
def execFenceX (link : Bool) (later earlier : BitVec 4) (s : State) : Host.Outcome State Fault Refusal :=
  let own : M Unit := do
    endChunk
    modify fun s =>
      let c := s.fenceCondition link later earlier
      s.addCondition (if link && (s.linkLost s.coreId s.cur.2).isSome then s.dropLost c else c)
  let whole : M Unit := do
    if !link && later = 0 && earlier = 0 then retire 4
    else
      own
      let s ← get
      if link then
        match s.linkLost s.coreId s.cur.2 with
        | some (p, n) => raiseLinkLost p n
        | none => pure ()
      retireDone 4
  match whole s with
  | .error (.trap _ tval _) =>
    match own s with
    | .ok (_, t) => fenceLost (.fenceX link later earlier) t tval
    | .error e => complete (.fenceX link later earlier) (fun _ => .error e) s
  | r => complete (.fenceX link later earlier) (fun _ => r) s

/-- CHUNK ends the chunk and does not wait for its commit (09 R218): the chunk commits when it may. CHUNK itself belongs to the next chunk (R196). -/
def execChunk (s : State) : Host.Outcome State Fault Refusal :=
  complete .chunk (do
    if (← get).ahead then endChunk
    modify fun s => if s.canCommit then s.commitCur.retired 4
      else (s.mapArch fun a => ((a.next 4).tickWindows).blockStep s.isBound false).mapChunk fun c => { c with full := true, next := 1 }) s

/-- The lowest free watch entry of a core. -/
def Core.freeWatch (c : Core) : Option Nat := (List.range 16).find? fun e => !c.watches.any (·.entry == e)

/-- WATCH arms an entry on the line of s[rs1] (09 R219). -/
def execWatch (rd rs1 : Reg) (s : State) : Host.Outcome State Fault Refusal :=
  complete (.watch rd rs1) (do
    let a ← rdReg rs1
    endChunk
    let s ← get
    let line := s.lineKey s.coreId a.toNat
    let slot := s.cur.2
    match s.myCore.watches.find? fun w => w.slot == slot && w.line == line with
    | some w => wrReg rd (BitVec.ofNat 64 w.entry)
    | none =>
      match s.myCore.freeWatch with
      | none => wrReg rd (BitVec.allOnes 64)
      | some e =>
        modify fun s => s.mapCore s.coreId fun c => { c with
          watches := { entry := e, slot := slot, line := line, fired := false, reported := false } :: c.watches }
        wrReg rd (BitVec.ofNat 64 e)
    retireDone 4) s

/-- The lowest fired and unreported entry of a context. -/
def Core.firedEntry (c : Core) (slot : Nat) : Option Nat :=
  (List.range 16).find? fun e => c.watches.any fun w => w.entry == e && w.slot == slot && w.fired && !w.reported

def Core.report (c : Core) (entry : Nat) : Core :=
  { c with watches := c.watches.map fun w => if w.entry = entry then { w with reported := true } else w }

/-- SLEEP (09 R220). -/
def execSleep (rd rs1 : Reg) (s : State) : Host.Outcome State Fault Refusal :=
  complete (.sleep rd rs1) (do
    let t ← rdReg rs1
    endChunk
    let s ← get
    let slot := s.cur.2
    match s.myCore.firedEntry slot with
    | some e =>
      modify fun s => { s.mapCore s.coreId (·.report e) with ctx := { s.ctx with wait := {} } }
      wrReg rd (BitVec.ofNat 64 e)
      retireDone 4
    | none =>
      if s.ctx.wait = Wait.evicted ∨ !s.myCore.watches.any (·.slot == slot) then
        wrReg rd (if s.ctx.wait = Wait.evicted then 17 else 20)
        modify fun s => { s with ctx := { s.ctx with wait := {} } }
        retireDone 4
      else
        let ticks := if t = 0 then s.myCore.k.waitTmo.toNat else t.toNat
        stop (.wait { kind := .sleep, rd := rd
                      deadline := if ticks = 0 then none else some ((s.die (dieOf s.coreId)).gct + ticks) })) s

/-- UNWATCH frees an entry the context holds; it does not end the chunk (09 R221), and the entry is free once the chunk has committed: a squash
discards it (R199). -/
def execUnwatch (rs1 : Reg) (s : State) : Host.Outcome State Fault Refusal :=
  complete (.unwatch rs1) (do
    let a ← rdReg rs1
    let e := bitsOf a 0 4
    let s ← get
    if !s.ahead then
      modify fun s => s.mapChunk fun c => { c with unwatched := insertN e c.unwatched }
    retire 4) s

/-- CHUNK_COMMIT: a chunk that has ended and waits takes its grants and commits, or, for a context blocked before an instruction, the
chunk before it does (09 R197). -/
def execChunkCommit (core slot : Nat) (s : State) : Host.Outcome State Fault Refusal :=
  let c := s.ctxAt core slot
  if c.life = .runahead ∨ c.life = .free ∨ !(c.chunk.full || (c.life == .waiting && c.wait.kind == .commit)) then .next s
  else .next (s.inSlot core slot fun s =>
    if !s.canCommit then s
    else if s.ctx.chunk.full then { s.endFull with ctx := s.endFull.ctx.wake }
    else
      let open' := s.ctx.arch.windows
      let s := if s.ctx.chunk.isEmpty then s else s.commitCur
      let s := s.mapArch fun a => { a with windows := open' }
      { s.mapChunk (fun c => { c with start := { c.start with windows := open' } }) with ctx := ({ s.ctx with chunk :=
        { s.ctx.chunk with start := { s.ctx.chunk.start with windows := open' } } } : Context).wake })

end Sys2Proof.Machine
end

