-- ==== Sys2Proof/Machine/Barrier.lean ====
section
/-!
DEFINITION. Sys2Proof/Machine/Barrier.lean: the barrier object and the BARR major (19).
-/

namespace Sys2Proof.Machine

/-! ### The object (19 R367) -/

/-- A barrier object, field by field. -/
structure Barrier where
  expected : Nat
  pending : Nat
  phase : Nat
  armed : Bool
  overrun : Bool
  active : Bool
  reserved : Nat
  bytes : Nat
  waiters : Nat
  gct : Nat
  deriving DecidableEq, Repr

def Barrier.ofNat (v : Nat) : Barrier :=
  let f := fun lo n => v / 2 ^ lo % 2 ^ n
  { expected := f 0 24, pending := f 24 24, phase := f 48 4, armed := f 52 1 == 1, overrun := f 53 1 == 1, active := f 54 1 == 1
    reserved := f 55 9, bytes := f 64 32, waiters := f 96 16, gct := f 112 16 }

def Barrier.toNat (b : Barrier) : Nat :=
  b.expected % 2 ^ 24 + b.pending % 2 ^ 24 * 2 ^ 24 + b.phase % 16 * 2 ^ 48 + (if b.armed then 2 ^ 52 else 0)
    + (if b.overrun then 2 ^ 53 else 0) + (if b.active then 2 ^ 54 else 0) + b.reserved % 2 ^ 9 * 2 ^ 55 + b.bytes % 2 ^ 32 * 2 ^ 64
    + b.waiters % 2 ^ 16 * 2 ^ 96 + b.gct % 2 ^ 16 * 2 ^ 112

/-- Unarmed: ARMED = 0, or a bit of [63:55] is set. -/
def Barrier.unarmed (b : Barrier) : Bool := !b.armed || b.reserved != 0

/-- What BINIT writes; WAITERS is kept (19 R367, R373). -/
def Barrier.fresh (old : Barrier) (count gct : Nat) : Barrier :=
  { expected := count, pending := count, phase := 0, armed := true, overrun := false, active := false, reserved := 0, bytes := 0
    waiters := old.waiters, gct := gct }

/-- The object after an update that changed a count: the phase completes where both counts are zero (19 R369). -/
def Barrier.settle (b : Barrier) (gct : Nat) : Barrier :=
  if b.pending = 0 ∧ b.bytes = 0 then
    { b with phase := (b.phase + 1) % 16, pending := b.expected, active := false, gct := gct % 2 ^ 16 }
  else b

/-- Arrivals and expected bytes added together (19 R370, R373); none is the refusal. -/
def Barrier.update (b : Barrier) (count bytes : Nat) (expects : Bool) (gct : Nat) : Option Barrier :=
  if b.unarmed ∨ b.pending < count ∨ 2 ^ 32 ≤ b.bytes + bytes then none
  else
    let c := { b with pending := b.pending - count, bytes := b.bytes + bytes, active := b.active || expects }
    some (if count = 0 ∧ bytes = 0 then c else c.settle gct)

/-- What a wait for phase p comes to: DONE 0, STALE 1, unarmed 3, none while the phase is open (19 R374). -/
def Barrier.verdict (b : Barrier) (p : Nat) : Option Word :=
  if b.unarmed then some 3
  else
    let d := (b.phase + 16 - p % 16) % 16
    if d = 0 then none else if d ≤ 7 then some 0 else some 1

/-! ### Updates and wakes (19 R368, R369) -/

/-- GCT of the die where an update is performed. -/
def State.gctAt (s : State) (p : Place) : Nat := (s.die p.home).gct

/-- Every context blocked on the object tests it again; one whose phase is over goes on and leaves WAITERS. A DONE that must wait for a
carve-out is executed again (06 R155). -/
def State.barrierWake (s : State) (loc : Nat) : State :=
  let waiting := s.allCtxs.filter fun (_, _, c) => c.life == .waiting && c.wait.kind == .bwait && c.wait.a == loc
  let done := (waiting.filter fun (core, _, c) => (Barrier.ofNat (s.natAt loc 16)).verdict (c.wait.b % 16) == some 0 && !s.carveHeld core).map (·.1)
  done.eraseDups.foldl State.tryCarve (waiting.foldl (fun s (core, slot, c) =>
    match (Barrier.ofNat (s.natAt loc 16)).verdict (c.wait.b % 16) with
    | none => s
    | some v =>
      let s := s.leaveBarrier core slot
      let s := if v = 0 then s.inSlot core slot (·.acquired true (c.wait.b / 16 * 128)) else s
      if v = 0 ∧ s.carveHeld core then
        s.mapCtxAt core slot fun d => { d with wait := { d.wait with kind := .scoreboard } }
      else s.finishWait core slot v) s)

/-- One update of the object by the executing thread, at its location; in global memory it is a home-slice atomic (19 R368, 09 R213). One that completes the
phase makes those who wait test again (19 R374). -/
def State.putBarrier (s : State) (p : Place) (b : Barrier) (completes : Bool) : State :=
  let s := s.homePut p 16 b.toNat
  let s := if completes then s.barrierWake p.loc else s
  if p.fills then s.mapChunk fun c => { c with vaLines := [p.lineKey] } else s

/-- One update by a transfer of a core (18 R355): false where it is refused. -/
def State.landBytes (s : State) (dom owner : Nat) (p : Place) (n : Nat) : Bool × State :=
  let b := Barrier.ofNat (s.natAt p.loc 16)
  let put := fun (s : State) (b : Barrier) => s.foreignWrite dom owner p.loc p.lineKey (leBytes 16 b.toNat)
  if b.unarmed then (false, s)
  else if b.bytes < n ∨ !b.active then (false, put s { b with overrun := true })
  else
    let c := ({ b with bytes := b.bytes - n } : Barrier).settle (s.gctAt p)
    (true, if c.phase = b.phase then put s c else (put s c).barrierWake p.loc)

/-- The object at an address: its place, checked as an atomic (19 R368), and its value. An instruction that is a release writes the core's dirty SWM lines back
first (19 R371, 09 R214). -/
def barrierAt (va : Nat) (release : Bool) : M (Place × Barrier) := do
  let p ← placeOf va 16 .atomic
  if p.kind = kindWo then raise causeProtocol va
  if release then
    spareEarliest (p.loc / 128 :: (← get).swmDirty (← get).coreId)
    modify fun s => s.swmWriteBack s.coreId
  return (p, Barrier.ofNat ((← get).natAt p.loc 16))

/-! ### The instructions (19 R373, R374) -/

/-- The state after a BARR instruction that ended the chunk. On an object in global memory it is a chunk of its own, never squashed (19 R368, 09 R213). -/
def State.barrierDone (s : State) (p : Place) (la : BitVec 4) (rd : Reg) : State :=
  let t := (s.retiredLong 4 la (.reg rd)).rebase
  if p.fills then t.endedAlone s.ctx.arch.pc.toNat la (.reg rd) else t

def retireBarrier (p : Place) (la : BitVec 4) (rd : Reg) : M Unit := modify (·.barrierDone p la rd)

/-- BINIT (19 R373). -/
def execBinit (rd rs1 rs2 : Reg) (la : BitVec 4) (s : State) : Host.Outcome State Fault Refusal :=
  complete (.binit rd rs1 rs2 la) (do
    let a ← rdReg rs1
    let c := bitsOf (← rdReg rs2) 0 24
    endChunk
    let (p, b) ← barrierAt a.toNat true
    if c = 0 then wrReg rd 2
    else if !b.unarmed ∧ b.waiters ≠ 0 then wrReg rd 1
    else
      modify fun s => s.putBarrier p (b.fresh c (s.gctAt p % 2 ^ 16)) false
      wrReg rd 0
    retireBarrier p la rd) s

/-- The shape of BARRIVE, BEXPECT and BARRIVE.EXP: an update that fits returns the phase it acted in; one that is refused sets OVERRUN on an
armed object and raises BARRIER_OVERRUN (19 R370). -/
def barrierUpdate (i : Instr) (rd rs1 rs2 : Reg) (la : BitVec 4) (amounts : Word → Nat × Nat) (expects : Bool) (s : State) :
    Host.Outcome State Fault Refusal :=
  match (do
    let a ← rdReg rs1
    let v ← rdReg rs2
    endChunk
    let (p, b) ← barrierAt a.toNat true
    let (count, bytes) := amounts v
    match b.update count bytes expects ((← get).gctAt p) with
    | some c =>
      modify fun s => s.putBarrier p c (c.phase != b.phase)
      wrReg rd (BitVec.ofNat 64 b.phase)
      return some p
    | none =>
      if !b.unarmed then modify fun s => s.homePut p 16 { b with overrun := true }.toNat
      return none : M (Option Place)) s with
  | .ok (some p, t) => complete i (fun _ => retireBarrier p la rd t) s
  | .ok (none, t) => .next (t.trap i causeBarrierOverrun s.ctx.arch.regs[rs1] false 0 [])
  | .error e => complete i (fun _ => .error e) s

/-- BARRIVE (19 R373). -/
def execBarrive (rd rs1 rs2 : Reg) (la : BitVec 4) (s : State) : Host.Outcome State Fault Refusal :=
  barrierUpdate (.barrive rd rs1 rs2 la) rd rs1 rs2 la (fun v => (bitsOf v 0 24, 0)) false s

/-- BEXPECT (19 R373). -/
def execBexpect (rd rs1 rs2 : Reg) (la : BitVec 4) (s : State) : Host.Outcome State Fault Refusal :=
  barrierUpdate (.bexpect rd rs1 rs2 la) rd rs1 rs2 la (fun v => (0, bitsOf v 0 32)) true s

/-- BARRIVE.EXP (19 R373). -/
def execBarriveExp (rd rs1 rs2 : Reg) (la : BitVec 4) (s : State) : Host.Outcome State Fault Refusal :=
  barrierUpdate (.barriveExp rd rs1 rs2 la) rd rs1 rs2 la (fun v => (1, bitsOf v 0 32)) true s

/-- BWAIT (19 R374). `a` of the wait is the object's location, `b` holds the phase and the key of its line. -/
def execBwait (rd rs1 rs2 : Reg) (la : BitVec 4) (s : State) : Host.Outcome State Fault Refusal :=
  match (do
    let a ← rdReg rs1
    let q := bitsOf (← rdReg rs2) 0 4
    endChunk
    let (p, b) ← barrierAt a.toNat false
    match b.verdict q with
    | some v =>
      if v = 0 then
        let s ← get
        if s.carveHeld s.coreId then waitFor .scoreboard
        modify fun s => (s.tryCarve s.coreId).acquired true a.toNat
      wrReg rd v
      return .inl p
    | none =>
      spareEarliest [p.loc / 128]
      modify fun s => s.homePut p 16 { b with waiters := b.waiters + 1 }.toNat
      let s ← get
      let ticks := s.myCore.k.btmo.toNat
      return .inr ({ kind := .bwait, ins := some (.bwait rd rs1 rs2 la), rd := rd, a := p.loc, b := 16 * p.lineKey + q
                     deadline := if ticks = 0 then none else some ((s.die (dieOf s.coreId)).gct + ticks) } : Wait)
      : M (Place ⊕ Wait)) s with
  | .ok (.inl p, t) => complete (.bwait rd rs1 rs2 la) (fun _ => retireBarrier p la rd t) s
  | .ok (.inr w, t) => .next (t.block w)
  | .error e => complete (.bwait rd rs1 rs2 la) (fun _ => .error e) s

/-- BTRY reads the object in its chunk; 4 where BWAIT would wait (19 R374). An object in a WO range raises PROTOCOL for it too (R368). -/
def execBtry (rd rs1 rs2 : Reg) (la : BitVec 4) (s : State) : Host.Outcome State Fault Refusal :=
  complete (.btry rd rs1 rs2 la) (do
    let a ← rdReg rs1
    let q := bitsOf (← rdReg rs2) 0 4
    let p ← placeOf a.toNat 16 .load
    if p.kind = kindWo then raise causeProtocol a.toNat
    let v ← memRead a.toNat 16
    wrReg rd (((Barrier.ofNat v).verdict q).getD 4)
    retireLong 4 la (.reg rd)) s

/-- BWAIT_TIMEOUT (19 R374). -/
def execBwaitTimeout (core slot : Nat) (s : State) : Host.Outcome State Fault Refusal :=
  .next (if s.expired core slot .bwait then (s.leaveBarrier core slot).finishWait core slot 2 else s)

end Sys2Proof.Machine
end

