-- ==== Sys2Proof/Machine/Flit.lean ====
section
/-!
DEFINITION. Sys2Proof/Machine/Flit.lean: the sending side of the links: port choice (24 R418), flits and their CRC (R415), the replay buffer,
and how a link-path write is sent, held or lost (R420, R422, 23 R406).
-/

namespace Sys2Proof.Machine

/-! ### Port choice (24 R418) -/

/-- The logical ports to a peer module that carry flits, ascending. -/
def State.portsTo (s : State) (peer : Nat) : List Nat :=
  jslPorts.filter fun p => let x := s.port p; x.peer == some peer && (x.state == .up || x.state == .degraded)

/-- The port of an operation. -/
def State.choosePort (s : State) (owner peer src dst : Nat) : Option Nat :=
  let k := (peer * 2 ^ 16 ^^^ src * 2 ^ 9 ^^^ dst) % 2 ^ 32
  pick (s.portsTo peer) (draw (((s.owner? owner).map (·.placementSeed)).getD 0) owner classLinkPort k)

/-- The I/O die of a logical port, and the two compute dies it attaches (01 R8). -/
def ioDie (port : Nat) : Nat := port / 48
def attachedDies (io : Nat) : List Nat := [2 * io, 2 * io + 1]

/-- The compute die by which an operation reaches its port: the core's own where the port's I/O die attaches it, else one of the two attached, drawn
(01 R8, 24 R418). -/
def State.crossingDie (s : State) (owner peer src dst port : Nat) : Nat :=
  let dies := attachedDies (ioDie port)
  if dies.contains (dieOf src) then dieOf src
  else
    let k := (peer * 2 ^ 16 ^^^ src * 2 ^ 9 ^^^ dst) % 2 ^ 32
    (pick dies (draw (((s.owner? owner).map (·.placementSeed)).getD 0) owner classLinkPort (k ^^^ 0xFFFFFFFF))).getD 0

/-- Is every port to a peer DOWN or FAILED? -/
def State.peerLost (s : State) (peer : Nat) : Bool :=
  !jslPorts.any fun p => let x := s.port p; x.peer == some peer && x.state != .down && x.state != .failed

def State.mapPort (s : State) (p : Nat) (f : Port → Port) : State :=
  { s with links := { s.links with ports := modT Port.reset s.links.ports p f } }

/-! ### Flits (24 R415) -/

/-- One byte of the CRC-64, most significant bit first. -/
def crcByte (c : Word) (b : Byte) : Word :=
  (List.range 8).foldl (fun c _ => if c.msb then (c <<< 1) ^^^ 0x42F0E1EBA9EA3693 else c <<< 1) (c ^^^ (b.setWidth 64 <<< 56))

/-- The CRC of some bytes: initial value and final XOR all ones. -/
def crc64 (l : List Byte) : Word := ~~~ l.foldl crcByte (BitVec.allOnes 64)

def flitData : Nat := 1
def flitAck : Nat := 2
def flitNak : Nat := 3
def flitTraining : Nat := 4

/-- Bytes 0 to 247 of a flit. -/
def flitHead (kind seq aseq credit : Nat) (payload : List Byte) : List Byte :=
  leBytes 1 kind ++ leBytes 1 0 ++ leBytes 2 seq ++ leBytes 2 aseq ++ leBytes 2 credit ++ (payload ++ List.replicate 240 0).take 240

/-- A flit. -/
def flitOf (kind seq aseq credit : Nat) (payload : List Byte) : List Byte :=
  let h := flitHead kind seq aseq credit payload
  h ++ leBytes 8 (crc64 h).toNat

/-- Send waiting payloads as data flits while the replay buffer has room and credit is left. -/
def Port.pump : Nat → Port → Port
  | 0, p => p
  | n + 1, p =>
    match p.pending with
    | [] => p
    | x :: rest =>
      if 256 ≤ p.buffer.length ∨ p.credit = 0 then p
      else Port.pump n { p with
        pending := rest, sendSeq := p.sendSeq + 1, credit := p.credit - 1
        buffer := p.buffer ++ [{ seq := p.sendSeq, bytes := flitOf flitData p.sendSeq.toNat 0 0 x, resent := 0 }] }

/-- A port that carries flits sends what it can. -/
def Port.run (p : Port) : Port := if p.state = .up ∨ p.state = .degraded then p.pump p.pending.length else p

/-- Bytes in flitPieces of 240. -/
def flitPieces : Nat → List Byte → List (List Byte)
  | 0, _ => []
  | n + 1, l => if l.isEmpty then [] else l.take 240 :: flitPieces n (l.drop 240)

/-! ### Link-path writes -/

def State.mapWrites (s : State) (f : LinkWrite → LinkWrite) : State := { s with links := { s.links with writes := s.links.writes.map f } }

/-- The key of a pair: source core, destination module, destination core. -/
def pairKey (core peer dst : Nat) : Nat := (core * 2 ^ 16 + peer) * 2 ^ 9 + dst

/-- A link write's packet goes out on its port in data flits (24 R415), over the crossing it takes. -/
def State.transmitWrite (s : State) (w : LinkWrite) : State :=
  let s := if w.via = dieOf w.core then s else s.ask 1 (dieOf w.core) w.via w.owner
  let s := s.ask 6 (w.port / 48) (w.port % 48) w.owner
  s.mapPort w.port fun p => { p with pending := p.pending ++ flitPieces 8 (Config.packetBytes w.id) }.run

/-- Hand a link write to its port: it takes the next sequence number of its pair, and its packet goes out (24 R415, R418). A
later carry of a pair waits behind one that was answered busy (R420). -/
def State.sendWrite (s : State) (w : LinkWrite) : State :=
  let port := (s.choosePort w.owner w.peer w.core w.dstCore).getD w.port
  let key := pairKey w.core w.peer w.dstCore
  let via := s.crossingDie w.owner w.peer w.core w.dstCore port
  let seq := getT 0 s.links.sentSeq key
  let waits := s.links.writes.any fun v => v.id != w.id && v.transfer.isNone && w.transfer.isNone && pairKey v.core v.peer v.dstCore == key
    && (v.state == .busy || v.state == .behind)
  let dark := let st := (s.port port).state; st == .down || st == .failed
  let w := { w with port := port, via := via, seq := seq, state := if dark then .lost else if waits then .behind else .sent }
  let s : State := { s with links := { s.links with
    sentSeq := setT 0 s.links.sentSeq key (seq + 1)
    writes := s.links.writes.map fun v => if v.id = w.id then w else v } }
  if w.state = .sent then s.transmitWrite w else s

/-- Is a peer module joined with a seam domain (23 R407)? -/
def State.joined (s : State) (dom peer : Nat) : Bool := ((s.domain? dom).map fun d => d.peers.contains peer).getD false

/-- A new link write: sent at once, or held for its domain's seam (23 R406). -/
def State.issueWrite (s : State) (w : LinkWrite) : State :=
  let w := { w with state := .held }
  let s : State := { s with fresh := s.fresh + 1, links := { s.links with writes := s.links.writes ++ [w] } }
  if w.domain ≠ 0 ∧ !s.joined w.domain w.peer then s else s.sendWrite w

/-- What a fault record says of a write that cannot be delivered. -/
def LinkWrite.entry (w : LinkWrite) (cause etype value : Nat) : FaultEntry :=
  { cause := cause, etype := etype, eflags := 0, core := w.core, group := w.group, rank := w.rank, port := if etype = 1 then 0 else w.port, pc := w.pc
    value := value }

end Sys2Proof.Machine
end

