-- ==== Sys2Proof/Machine/Transfer.lean ====
section
/-!
DEFINITION. Sys2Proof/Machine/Transfer.lean: copy engines and transfers, and the XFER major (18).
-/

namespace Sys2Proof.Machine

/-! ### Memory as a copy engine reaches it (18 R357, R358, 24 R424) -/

/-- Where an access of an engine lands: in memory, on a link page (the peer module and the offset in its window), nowhere yet (a page fault to be
served, or a block that ends by itself; `domain` is the seam domain waited for, 0 if none), or a fault of the transfer. -/
inductive Reach where
  | mem (p : Place)
  | link (peer offset : Nat)
  | page (va : Nat)
  | blocked (domain : Nat)
  | fault (cause va : Nat)
  deriving DecidableEq, Repr

/-- The range that governs an address for an owner: kind and lease (10 R230). -/
def State.governs (s : State) (core owner va : Nat) : Nat × Nat :=
  match s.rangeOf core owner va with
  | some e => (s.kindOf e.slot, e.lease)
  | none => (s.kindOf 0, 0)

/-- The class that a page which migrates had before: what reaches it now is a copy that was in flight (22 R390). -/
def State.classBefore (s : State) (va : Nat) : Option Nat :=
  (s.blocks.find? fun b => b.move.isSome && decide (b.base ≤ va) && decide (va < b.base + b.size)).bind fun b => b.move.map (·.2.2)

/-- Where one access of a transfer lands, with the launching owner's rights, and with translation off those of its launch's level (18 R358, R438, 22 R378). -/
def State.reach (s : State) (core : Nat) (t : Transfer) (va : Nat) (a : Access) : Reach × State :=
  if 2 ^ 56 ≤ va then (.fault causePageFault va, s)
  else if inWindowRegion va then
    (match s.windowLoc core va with
      | some loc => (match s.foreignDomain (s.seamOf t.owner t.knum) (loc / 128) with
        | some d => .blocked d
        | none => .mem (localPlace loc (dieOf core)))
      | none => .fault causeProtect va, s)
  else if !(s.core core).plbEn then
    (if t.level ≠ 3 then .fault causeProtect va else .mem { loc := va, lineKey := va / 128, kind := kindInv, lease := 0, page := va / 65536, home := dieOf core, tracked := false }, s)
  else match s.plbLookup core va with
    | none => (if s.pinMissed t.owner va then .fault causePinMiss va else .page va, s)
    | some l =>
      if l.rightsOf t.domain &&& a.needs ≠ a.needs then (.fault causeProtect va, s)
      else if s.pinMissed t.owner va then (.fault causePinMiss va, s)
      else if !l.p ∨ l.cls = clsPoisoned then (.page va, s)
      else if l.cls = clsMigrating ∧ (s.classBefore va).isNone then (.blocked 0, s)
      else match s.translate l.home va with
        | none => (if s.inLocked t.owner va then .fault causePinMiss va else .page va, s)
        | some x =>
          let loc := x.frame + (va - x.va)
          let dom := s.seamOf t.owner t.knum
          if 2 ^ 51 ≤ loc then (.link (loc / 2 ^ 35 % 2 ^ 16) (loc % 2 ^ 35), s)
          else
            let (kind, lease) := s.governs core t.owner va
            match s.foreignDomain dom (loc / 128) with
              | some d => (.blocked d, s)
              | none =>
                let l := { l with cls := (s.classBefore va).getD l.cls }
                let s := (s.fillPlb core l).fillTcache l.home x
                let s := if kind = kindCls ∧ l.conflicts core a then s.reclassify l core (va / 128) else s
                let p : Place := { loc := loc, lineKey := va / 128, kind := kind, lease := lease, page := va / 65536, home := l.home
                                   tracked := !(kind == kindCls && (l.cls == clsPrivate || l.cls == clsReadonly) && !l.conflicts core a) }
                if kind = kindWo ∧ a.writes ∧ s.coh.written.contains p.lineKey then (.fault causeProtocol va, s) else (.mem p, s)

/-! ### Transfers of a core -/

def State.transfer? (s : State) (core tid : Nat) : Option Transfer := (s.core core).transfers.find? (·.tid == tid)

def State.mapTransfer (s : State) (core tid : Nat) (f : Transfer → Transfer) : State :=
  s.mapCore core fun c => { c with transfers := c.transfers.map fun t => if t.tid = tid then f t else t }

/-- Does the engine still remember the transfer (18 R349)? -/
def Core.remembers (c : Core) (t : Transfer) : Bool := decide (c.launches < t.order + 64)

/-- The transfer a TID names for a thread of a core; none is unknown (18 R349). -/
def State.known (s : State) (core tid : Nat) : Option Transfer :=
  match s.transfer? core tid with
  | some t => if (s.core core).remembers t then some t else none
  | none => none

/-- STATUS of a landing record: 0 in flight, 1 complete, 2 faulted, 3 cancelled (18 R354). -/
def TransferState.status : TransferState → Nat
  | .launched => 0 | .inFlight => 0 | .complete => 1 | .faulted => 2 | .cancelled => 3

def liveCount (ts : List Transfer) : Nat := (ts.filter (·.live)).length

/-- Change n bytes of a landing record on the copy path, where they can be written (18 R354, R438). -/
def State.recordPut (s : State) (core : Nat) (t : Transfer) (va n : Nat) (f : Nat → Nat) : State :=
  match s.reach core t va .store with
  | (.mem p, s) =>
    let s := s.yieldLine core (p.loc / 128)
    s.pathWrite (s.seamOf t.owner t.knum) t.owner p (leBytes n (f (s.natAt p.loc n))) 512
  | (_, s) => s

/-- Bytes that have landed: a chunk whose update faults keeps its landed bytes (18 R438). -/
def Transfer.landedBytes (t : Transfer) : Nat := (t.performed.map t.plan.chunkBytes).sum

/-! ### Instructions (18 R360 to R365) -/

/-- XSET: one shadow field, whole (18 R361). -/
def execXset (rs1 : Reg) (fld la : BitVec 4) (s : State) : Host.Outcome State Fault Refusal :=
  complete (.xset rs1 fld la) (do
    let v ← rdReg rs1
    modify (·.mapArch fun a => { a with shadow := a.shadow.setIfInBounds fld.toNat v })
    retire 4) s

/-- The next TID of a core: the sequence number skips 0 (18 R349). -/
def nextSeq (n : Nat) : Nat := if n % 2 ^ 23 = 0 then 1 else n % 2 ^ 23

/-- Run a piece of work as if no transfer of the core were running: accesses the scoreboard does not cover (18 R356). -/
def unscored {α : Type} (m : M α) : M α := do
  let s ← get
  let ts := s.myCore.transfers
  modify fun s => s.mapCore s.coreId fun c => { c with transfers := [] }
  let r ← m
  modify fun s => s.mapCore s.coreId fun c => { c with transfers := ts }
  return r

/-- The doublewords of a record's initial image (18 R354). -/
def CopyPlan.recordImage (p : CopyPlan) (tid : Nat) : List Nat :=
  (tid + p.chunks * 2 ^ 32) :: 0 :: List.replicate ((p.chunks + 63) / 64) 0

/-- XGO (18 R362). -/
def execXgo (rd : Reg) (la : BitVec 4) (s : State) : Host.Outcome State Fault Refusal :=
  complete (.xgo rd la) (do
    endChunk
    handOff (·.copy)
    let s ← get
    let sh := s.ctx.arch.shadow
    let p := CopyPlan.ofShadow sh
    if p.refused then illegal
    match p.misaligned with
    | some a => raise causeMisalign a
    | none => pure ()
    if 16 ≤ liveCount s.myCore.transfers then waitFor .transferPlace
    let seq := nextSeq s.myCore.tidSeq
    let tid := s.coreId * 2 ^ 23 + seq
    if p.landing ≠ 0 then
      unscored (do for (v, i) in (p.recordImage tid).zipIdx do memWrite (wrap64 (p.landing + 8 * i : Nat)) 8 v)
      endChunk
    modify fun s => s.mapCore s.coreId fun c => { c with
      tidSeq := seq + 1
      launches := c.launches + 1
      transfers := { tid := tid, state := .launched, slot := s.cur.2, owner := s.ctx.owner, domain := s.ctx.domain, level := s.prv, knum := s.ctx.knum
                     group := s.ctx.group, rank := if s.ctx.handling.isSome then 0xFFFFFFFF else s.ctx.rank, pc := s.ctx.arch.pc.toNat
                     shadow := sh, order := c.launches + 1, landed := [], started := [], performed := [], acked := [], waiting := [], tagged := []
                     cancelAsked := false, ending := 0, faddr := 0, fcause := 0 }
        :: c.transfers.filter fun t => t.live || decide (c.launches + 1 < t.order + 64) }
    wrReg rd (BitVec.ofNat 64 tid)
    retireHanded 4 la (.reg rd)) s

/-- What an XWAIT on a transfer it has found comes to now: its result, or none while it waits (18 R363). -/
def xwaitOpen (word : BitVec 3) (v mask : Word) (tid : Nat) : M (Option Word) := do
  let s ← get
  match s.transfer? s.coreId tid with
  | none => return some 0xFF
  | some t =>
    if !t.live then return some (BitVec.ofNat 64 t.state.status)
    else if bitsOf v 63 1 = 1 ∨ mask = 0 then return none
    else
      let w ← unscored (memRead (wrap64 (v.toNat + 16 + 8 * word.toNat : Nat)) 8)
      return (if w &&& mask.toNat = mask.toNat then some 0 else none)

/-- The TID that an XWAIT's operand gives: its own, or that of the record it names (18 R363). -/
def xwaitTid (v : Word) : M Nat := do
  let direct := bitsOf v 63 1 == 1
  if !direct && v.toNat % 16 ≠ 0 then raise causeMisalign v.toNat
  if direct then pure (bitsOf v 0 32) else unscored (memRead v.toNat 4)

/-- What an XWAIT comes to as it executes: its result, or the TID it waits for. The record's TID is read, and found unknown, here alone (18 R363). -/
def xwaitTest (word : BitVec 3) (v mask : Word) : M (Word ⊕ Nat) := do
  let tid ← xwaitTid v
  let s ← get
  if (s.known s.coreId tid).isNone then return .inl 0xFF
  else return ((← xwaitOpen word v mask tid).elim (.inr tid) .inl)

/-- XWAIT (18 R363). -/
def execXwait (rd rs1 rs2 : Reg) (word : BitVec 3) (la : BitVec 4) (s : State) : Host.Outcome State Fault Refusal :=
  complete (.xwait rd rs1 rs2 word la) (do
    let v ← rdReg rs1
    let m ← rdReg rs2
    endChunk
    match ← xwaitTest word v m with
    | .inl r =>
      wrReg rd r
      retireHanded 4 la (.reg rd)
    | .inr tid =>
      let s ← get
      let ticks := s.myCore.k.xtmo.toNat
      stop (.wait { kind := .xwait, rd := rd, a := tid
                    deadline := if ticks = 0 then none else some ((s.die (dieOf s.coreId)).gct + ticks) })) s

/-- XTEST (18 R364). -/
def execXtest (rd rs1 : Reg) (la : BitVec 4) (s : State) : Host.Outcome State Fault Refusal :=
  complete (.xtest rd rs1 la) (do
    let v ← rdReg rs1
    let s ← get
    wrReg rd (match s.known s.coreId (bitsOf v 0 32) with
      | some t => BitVec.ofNat 64 t.state.status
      | none => 0xFF)
    retireLong 4 la (.reg rd)) s

/-- XCANCEL asks the engine to cancel and waits until the transfer has retired, whose STATUS it then writes (18 R359, R365). -/
def execXcancel (rd rs1 : Reg) (la : BitVec 4) (s : State) : Host.Outcome State Fault Refusal :=
  match (do
    let v ← rdReg rs1
    endChunk
    let s ← get
    match s.known s.coreId (bitsOf v 0 32) with
    | none =>
      wrReg rd 0xFF
      return none
    | some t =>
      if t.live then
        modify fun s => s.mapTransfer s.coreId t.tid fun t => { t with cancelAsked := true }
        return some t.tid
      else
        wrReg rd (BitVec.ofNat 64 t.state.status)
        return none : M (Option Nat)) s with
  | .ok (none, t) => complete (.xcancel rd rs1 la) (fun _ => retireHanded 4 la (.reg rd) t) s
  | .ok (some tid, t) => .next (t.block { kind := .xcancel, ins := some (.xcancel rd rs1 la), rd := rd, a := tid })
  | .error e => complete (.xcancel rd rs1 la) (fun _ => .error e) s

/-- XSTAT (18 R364). -/
def execXstat (rd rs1 : Reg) (sel : BitVec 3) (la : BitVec 4) (s : State) : Host.Outcome State Fault Refusal :=
  complete (.xstat rd rs1 sel la) (do
    let v ← rdReg rs1
    let s ← get
    let c := s.myCore
    wrReg rd (if sel = 4 then BitVec.ofNat 64 (liveCount c.transfers)
      else match s.known s.coreId (bitsOf v 0 32) with
        | none => BitVec.allOnes 64
        | some t => match sel.toNat with
          | 0 => BitVec.ofNat 64 (t.plan.chunks * 2 ^ 32 + t.landed.length * 2 ^ 16 + (if t.state = .launched then 2 ^ 8 else 0) + t.state.status)
          | 1 => BitVec.ofNat 64 t.landedBytes
          | 2 => BitVec.ofNat 64 (if t.state = .faulted then t.faddr else 0)
          | _ => BitVec.ofNat 64 (if t.state = .faulted then t.fcause else 0))
    retireLong 4 la (.reg rd)) s

/-! ### The engine (18 R348, R354 to R359) -/

/-- A waiting XWAIT tests again: it goes on, or waits on. -/
def State.retryXwait (s : State) (core slot : Nat) : State :=
  let w := (s.ctxAt core slot).wait
  s.inSlot core slot fun s =>
    match w.ins with
    | some (.xwait rd rs1 rs2 word la) =>
      match (do return (← xwaitOpen word (← rdReg rs1) (← rdReg rs2) w.a) : M (Option Word)) s with
      | .ok (none, _) => s
      | r => nextOf s (complete (.xwait rd rs1 rs2 word la) (fun _ => match r with
        | .ok (v, t) => (do
            wrReg rd (v.getD 0xFF)
            retireHanded 4 la (.reg rd) : M Unit) { t with ctx := t.ctx.wake }
        | .error e => .error e) { s with ctx := s.ctx.wake })
    | _ => s

/-- Every XWAIT of a core that waits for this transfer tests again. -/
def State.wakeXwaits (s : State) (core tid : Nat) : State :=
  (s.allCtxs.filter fun (k, _, c) => k == core && c.life == .waiting && c.wait.kind == .xwait && c.wait.a == tid).foldl
    (fun s (k, slot, _) => s.retryXwait k slot) s

/-- The XCANCELs of a core that wait for this transfer write its STATUS and go on (18 R365). -/
def State.endXcancels (s : State) (core tid : Nat) (st : TransferState) : State :=
  (s.allCtxs.filter fun (k, _, c) => k == core && c.life == .waiting && c.wait.kind == .xcancel && c.wait.a == tid).foldl
    (fun s (k, slot, _) => s.finishWait k slot (BitVec.ofNat 64 st.status)) s

/-- A copy's reads are final when it completes: the forward-tagged lines it has read, under the marks it found there, are consumed (10 R229). -/
def State.consumeRead (s : State) (core : Nat) (t : Transfer) : State :=
  t.tagged.foldl (fun s (line, placed) => match getT none s.coh.marks line with
    | some m => if m.placed = placed then s.consume core line m.vline else s
    | none => s) s

/-- Where the STATUS of a transfer's landing record lies. -/
def CopyPlan.statusAt (p : CopyPlan) : Nat := wrap64 (p.landing + 6 : Nat)

/-- A transfer retires: its state, its STATUS if the record can be written, and those that wait for it (18 R348, R354, R438). -/
def State.retireTransfer (s : State) (core : Nat) (t : Transfer) (st : TransferState) : State :=
  let s := s.mapTransfer core t.tid fun t => { t with state := st, waiting := [], tagged := [] }
  let s := if st = .complete then s.consumeRead core t else s
  let s := { s with links := { s.links with writes := s.links.writes.filter fun w => !(w.transfer.map Prod.fst == some t.tid) } }
  let s := if t.plan.landing = 0 then s else s.recordPut core t t.plan.statusAt 1 (fun _ => st.status)
  (((s.wakeXwaits core t.tid).endXcancels core t.tid st).wakeRetries).endKernels

/-- A page fault of a chunk: a batch of one record, on which the chunk waits (18 R358, 22 R387). The number one above the last chunk's stands for
the STATUS update (R438). -/
def State.pageTransfer (s : State) (core : Nat) (t : Transfer) (chunk va : Nat) (write : Bool) : State :=
  let (fl, k) := s.faultFlags va (if write then 5 else 4)
  let r : FaultRecord :=
    { va := va, kind := k, flags := fl + 5, who := core + 512 * t.slot, knum := t.knum
      aux := if k = 7 then (s.die (dieOf core)).gct else t.tid }
  let (s, id) := s.addBatch t.owner core [r] [] [(core, t.tid)]
  s.mapTransfer core t.tid fun t => { t with waiting := (chunk, id) :: t.waiting }

/-- A block that the chunk meets: a range that switches, a page that migrates, or another domain's open interval, which is told (23 R406). -/
def State.tellDomain (s : State) (dom : Nat) : State := if dom = 0 then s else s.trigger dom 0

/-- A transfer in which nothing is in progress comes to its end: its STATUS is written, and it retires. A page fault on that update waits for
service; another fault on it makes the transfer FAULTED, and no STATUS is written (18 R438). -/
def State.endTransfer (s : State) (core : Nat) (t : Transfer) (st : TransferState) : State :=
  let p := t.plan
  let lost := fun (s : State) (cause va : Nat) =>
    (s.mapTransfer core t.tid fun t => { t with faddr := if t.ending = 2 then t.faddr else va, fcause := if t.ending = 2 then t.fcause else cause }).retireTransfer
      core t .faulted
  if p.landing = 0 then s.retireTransfer core t st
  else if t.performed.contains p.chunks then s.retireTransfer core t .faulted
  else if t.waiting.any (·.1 == p.chunks) then s
  else match s.reach core t p.statusAt .store with
    | (.mem q, s) => if q.kind = kindWo then lost s causeProtocol p.statusAt else s.retireTransfer core t st
    | (.page va, s) => s.pageTransfer core t p.chunks va true
    | (.blocked d, s) => s.tellDomain d
    | (.fault cause va, s) => lost s cause va
    | (.link _ _, s) => lost s causeProtect p.statusAt

/-- Nothing is in progress any more: a transfer that is ending retires, and one whose chunks have all landed is COMPLETE. -/
def State.settleTransfer (s : State) (core tid : Nat) : State :=
  match s.transfer? core tid with
  | none => s
  | some t =>
    if !t.live ∨ !t.started.isEmpty then s
    else if t.ending = 2 then s.endTransfer core t .faulted
    else if t.ending = 3 then s.endTransfer core t .cancelled
    else if t.landed.length = t.plan.chunks then s.endTransfer core t .complete
    else s

/-- A fault of the transfer: no further chunk starts (18 R358). A chunk that faulted is in progress no more. -/
def State.faultTransfer (s : State) (core tid chunk cause va : Nat) : State :=
  (s.mapTransfer core tid fun t => { t with
    ending := 2
    faddr := if t.ending = 2 then t.faddr else va
    fcause := if t.ending = 2 then t.fcause else cause
    performed := if chunk = t.plan.chunks then insertN chunk t.performed else t.performed
    started := t.started.filter (· != chunk), waiting := t.waiting.filter (·.1 != chunk) }).settleTransfer core tid

/-- The bytes an engine reads for one byte of the sequence: its value, or why there is none, with the state after the accesses. -/
inductive Fetched where
  | byte (b : Byte)
  | no (r : Reach)
  deriving DecidableEq, Repr

/-- A transfer has read a line that is marked for its core. -/
def State.noteTagged (s : State) (core tid line : Nat) : State :=
  match getT none s.coh.marks line with
  | some m => if m.core = core then s.mapTransfer core tid fun t => { t with tagged := if (line, m.placed) ∈ t.tagged then t.tagged else (line, m.placed) :: t.tagged } else s
  | none => s

/-- A source byte at an address (18 R357). A byte of a link page comes from the peer (24 R424). -/
def State.copyByte (s : State) (core : Nat) (t : Transfer) (va : Nat) : Fetched × State :=
  match s.reach core t va .load with
  | (.mem p, s) => (.byte (s.pathByte core p.loc), (s.noteTagged core t.tid (p.loc / 128)).fillPath p)
  | (.link peer off, s) =>
    if (s.portsTo peer).isEmpty then (.no (if s.peerLost peer then .fault causeLinkLost va else .blocked 0), s)
    else (.byte (Config.peerByte (s.fresh + off)), { s with fresh := s.fresh + 1 })
  | (r, s) => (.no r, s)

/-- An INT32 row index of a gather (18 R352). -/
def State.copyIndex (s : State) (core : Nat) (t : Transfer) (q : Nat) : (Except Reach Int) × State :=
  let rec go (s : State) (va : Nat) : Nat → (Except Reach (List Byte)) × State
    | 0 => (.ok [], s)
    | n + 1 =>
      match s.copyByte core t (wrap64 va) with
      | (.no r, s) => (.error r, s)
      | (.byte b, s) =>
        match go s (va + 1) n with
        | (.ok bs, s) => (.ok (b :: bs), s)
        | (.error r, s) => (.error r, s)
  match go s (t.plan.index + 4 * q) 4 with
  | (.ok bs, s) => (.ok (signed (ofLeBytes bs) 32), s)
  | (.error r, s) => (.error r, s)

/-- Byte i of the destination sequence. -/
def State.copyData (s : State) (core : Nat) (t : Transfer) (i : Nat) : Fetched × State :=
  match t.plan.source i with
  | .pad b => (.byte b, s)
  | .addr a => s.copyByte core t a
  | .gather q b =>
    match s.copyIndex core t q with
    | (.ok x, s) => s.copyByte core t (wrap64 (t.plan.src + x * t.plan.srcStride + b))
    | (.error r, s) => (.no r, s)

/-- One byte of a chunk, ready to be written. -/
structure Landing where
  addr : Nat
  dest : Reach
  byte : Byte
  deriving DecidableEq, Repr

/-- Where a byte of a chunk cannot be written: its destination address, what stands in its way, and whether on the destination. -/
structure Obstacle where
  addr : Nat
  what : Reach
  onDest : Bool
  deriving DecidableEq, Repr

/-- What the bytes of a chunk come to: those that can be written, and what stands in the way of the others. -/
def State.gatherChunk (s : State) (core : Nat) (t : Transfer) : (is : List Nat) → List Landing × List Obstacle × State
  | [] => ([], [], s)
  | i :: rest =>
    let a := t.plan.destAddr i
    match s.copyData core t i with
    | (.no r, s) => let (l, o, s) := s.gatherChunk core t rest; (l, { addr := a, what := r, onDest := false } :: o, s)
    | (.byte b, s) =>
      match s.reach core t a .store with
      | (.mem p, s) => let (l, o, s) := s.gatherChunk core t rest; ({ addr := a, dest := .mem p, byte := b } :: l, o, s)
      | (.link peer off, s) => let (l, o, s) := s.gatherChunk core t rest; ({ addr := a, dest := .link peer off, byte := b } :: l, o, s)
      | (r, s) => let (l, o, s) := s.gatherChunk core t rest; (l, { addr := a, what := r, onDest := true } :: o, s)

/-- The forward tag of global destination lines (18 R350, 10 R229). -/
def CopyPlan.tag (p : CopyPlan) : Nat := if p.fwd / 512 % 2 = 1 then p.fwd % 512 else 512

/-- Perform a chunk's bytes in the module's memory. -/
def State.putLanding (s : State) (core : Nat) (t : Transfer) (l : List Landing) : State :=
  l.foldl (fun s x => match x.dest with
    | .mem p => (s.yieldLine core (p.loc / 128)).pathWrite (s.seamOf t.owner t.knum) t.owner p [x.byte] (if p.fills then t.plan.tag else 512)
    | _ => s) s

/-- The words of a faulting chunk that were written all the same, which the spec leaves open (18 R358). -/
def State.putSome (s : State) (core : Nat) (t : Transfer) (l : List Landing) (o : List Obstacle) : State :=
  let n := s.fresh
  let unit := t.plan.unitOf
  ({ s with fresh := n + 1 } : State).putLanding core t (l.filter fun x => !o.any (fun y => unit y.addr == unit x.addr) && Config.wordWritten (n * 2 ^ 64 + unit x.addr))

/-- The bytes of a chunk that lie in a link page. -/
def linkBytes (l : List Landing) : List (Nat × Nat × Byte) :=
  l.filterMap fun x => match x.dest with
    | .link peer off => some (peer, off, x.byte)
    | _ => none

/-- Can the updates of a chunk be made: its bit, LANDED and the barrier (18 R438)? The first that cannot. -/
def State.updateObstacle (s : State) (core : Nat) (t : Transfer) (chunk : Nat) : Option (Reach × Bool) × State :=
  let p := t.plan
  let vas := (if p.landing = 0 then [] else [(wrap64 (p.landing + 16 + 8 * (chunk / 64) : Nat), Access.store), (wrap64 (p.landing + 8 : Nat), .store)])
    ++ (if p.barrier = 0 then [] else [(p.barrier, Access.atomic)])
  vas.foldl (fun (o, s) (va, a) => match o with
    | some _ => (o, s)
    | none => match s.reach core t va a with
      | (.mem q, s) => (if q.kind = kindWo then some (.fault causeProtocol va, true) else none, s)
      | (.link _ _, s) => (some (.fault causeProtect va, true), s)
      | (r, s) => (some (r, true), s)) (none, s)

/-- The updates of a chunk that has been performed: bit, LANDED, barrier (18 R354, R355). -/
def State.landUpdates (s : State) (core : Nat) (t : Transfer) (chunk : Nat) : State :=
  let p := t.plan
  let n := p.chunkBytes chunk
  let s := if p.landing = 0 then s
    else
      let s := s.recordPut core t (wrap64 (p.landing + 16 + 8 * (chunk / 64) : Nat)) 8 (fun v => v ||| 2 ^ (chunk % 64))
      s.recordPut core t (wrap64 (p.landing + 8 : Nat)) 8 (fun v => v + n)
  let s := s.mapTransfer core t.tid fun t => { t with
    landed := chunk :: t.landed, started := t.started.filter (· != chunk) }
  let (ok, s) := if p.barrier = 0 then (true, s)
    else match s.reach core t p.barrier .atomic with
      | (.mem q, s) => s.landBytes (s.seamOf t.owner t.knum) t.owner q n
      | (_, s) => (true, s)
  let s := s.wakeXwaits core t.tid
  if ok then s.settleTransfer core t.tid else s.faultTransfer core t.tid chunk causeBarrierOverrun p.barrier

/-- What an obstacle does to a chunk in progress. -/
def State.obstacle (s : State) (core : Nat) (t : Transfer) (chunk : Nat) (r : Reach × Bool) (l : List Landing) (o : List Obstacle) : State :=
  match r.1 with
  | .page va => s.pageTransfer core t chunk va r.2
  | .blocked d => s.tellDomain d
  | .fault cause va => (s.putSome core t l o).faultTransfer core t.tid chunk cause va
  | _ => s

/-- The link-page bytes of a chunk as runs: the peer, the offset in its window and the bytes that follow one another there. -/
def linkRuns : List (Nat × Nat × Byte) → List (Nat × Nat × List Byte)
  | [] => []
  | (peer, off, b) :: rest =>
    match linkRuns rest with
    | (p, o, bs) :: runs => if p = peer ∧ o = off + 1 then (peer, off, b :: bs) :: runs else (peer, off, [b]) :: (p, o, bs) :: runs
    | [] => [(peer, off, [b])]

/-- Hand the link-page bytes of a chunk to the link path, each run of them to its peer: they land when all are acknowledged (24 R424). Where a peer has no port for
them now, the chunk waits, or, where every port to that peer is lost, it faults. -/
def State.sendChunk (s : State) (core : Nat) (t : Transfer) (chunk : Nat) (bs : List (Nat × Nat × Byte)) : State :=
  let runs := linkRuns bs
  match runs.find? fun r => (s.choosePort t.owner r.1 core 0).isNone with
  | some (peer, _) => if s.peerLost peer then s.faultTransfer core t.tid chunk causeLinkLost (t.plan.destAddr (512 * chunk)) else s
  | none => runs.foldl (fun s (peer, off, bytes) => s.issueWrite
      { id := s.fresh, core := core, slot := t.slot, owner := t.owner, knum := t.knum, group := t.group, rank := t.rank, pc := t.pc
        number := 0, port := (s.choosePort t.owner peer core 0).getD 0, peer := peer, dstCore := 0, dstSlot := 0, seq := 0, bytes := bytes
        state := .held, attempts := 0, due := 0, domain := s.seamOf t.owner t.knum, transfer := some (t.tid, chunk, off) }) s

/-- Does a transfer that has not started wait for a range that switches or an extent that is blocked (10 R239, 22 R389, R390)? One in flight completes first, and
the switch waits for it: DEDUCED, log 204. -/
def State.switchHolds (s : State) (t : Transfer) : Bool :=
  (s.coh.switches.any fun w => (s.rangeEntry w.core w.index).any fun e => t.touches e.base e.size) || s.blocks.any fun b => t.touches b.base b.size

/-- TRANSFER_START: the engine starts a LAUNCHED transfer; it runs up to four at once (18 R348, R349). -/
def execTransferStart (core tid : Nat) (s : State) : Host.Outcome State Fault Refusal :=
  match s.transfer? core tid with
  | some t =>
    if t.state = .launched ∧ !t.cancelAsked ∧ !s.switchHolds t ∧ ((s.core core).transfers.filter (·.state == .inFlight)).length < 4 then
      .next (s.mapTransfer core tid fun t => { t with state := .inFlight })
    else .next s
  | none => .next s

/-- The home dies of a chunk's source and destination pages. -/
def State.chunkHomes (s : State) (t : Transfer) (chunk : Nat) : List Nat :=
  ((t.plan.chunkPlaces chunk).flatMap fun i =>
    let va := fun (a : Nat) => if inWindowRegion a then none else (s.walk a).map (·.home)
    ((va (t.plan.destAddr i)).toList ++ (match t.plan.source i with | .addr a => (va a).toList | _ => []))).eraseDups

/-- A chunk's accesses go through the network to the dies that are home to its pages (11 R254). -/
def State.crossChunk (s : State) (core : Nat) (t : Transfer) (chunk : Nat) : State := (s.chunkHomes t chunk).foldl (fun s h => s.crosses core h) s

/-- TRANSFER_CHUNK_LANDING: a chunk's bytes are performed and its updates made (18 R354 to R358, R438); the number one above the last chunk's
stands for the STATUS update. -/
def execTransferChunkLanding (core tid chunk : Nat) (s : State) : Host.Outcome State Fault Refusal :=
  match s.transfer? core tid with
  | none => .next s
  | some t =>
    if t.state = .inFlight ∧ chunk = t.plan.chunks then .next (s.settleTransfer core tid)
    else if t.state ≠ .inFlight ∨ t.plan.chunks ≤ chunk ∨ t.landed.contains chunk ∨ t.waiting.any (·.1 == chunk)
        ∨ (t.ending ≠ 0 ∧ !t.started.contains chunk)
        ∨ s.links.writes.any (fun w => (w.transfer.map fun x => (x.1, x.2.1)) == some (tid, chunk)) then .next s
    else
      let s := s.mapTransfer core tid fun t => { t with started := insertN chunk t.started }
      let finish := fun (s : State) =>
        match s.updateObstacle core t chunk with
        | (some r, s) => s.obstacle core t chunk r [] []
        | (none, s) => s.landUpdates core t chunk
      if t.performed.contains chunk then .next (finish s)
      else
        match s.gatherChunk core t (t.plan.chunkPlaces chunk) with
        | (l, r :: o, s) => .next (s.obstacle core t chunk (r.what, r.onDest) l (r :: o))
        | (l, [], s) =>
          if !(linkBytes l).isEmpty ∧ !t.acked.contains chunk then .next (s.sendChunk core t chunk (linkBytes l))
          else .next (finish (((s.crossChunk core t chunk).putLanding core t l).mapTransfer core tid fun t => { t with performed := insertN chunk t.performed }))

/-- TRANSFER_CANCELLATION: a cancellation reaches the engine; once the last chunk has landed it has no effect (18 R359). -/
def execTransferCancellation (core tid : Nat) (s : State) : Host.Outcome State Fault Refusal :=
  match s.transfer? core tid with
  | some t =>
    if t.live ∧ t.cancelAsked ∧ t.ending = 0 ∧ t.landed.length < t.plan.chunks then
      .next ((s.mapTransfer core tid fun t => { t with ending := 3 }).settleTransfer core tid)
    else .next s
  | none => .next s

end Sys2Proof.Machine
end

