-- ==== Sys2Proof/Machine/Carry.lean ====
section
/-!
DEFINITION. Sys2Proof/Machine/Carry.lean: carry channels (24 R420 to R423).
-/

namespace Sys2Proof.Machine

/-! ### CARRY (24 R421, R422) -/

/-- LEN of a carry descriptor. -/
def carryLen (d : Word) : Nat := bitsOf d 0 9

/-- Is a descriptor invalid: a zero field nonzero, a bad LEN, or the module's own id? -/
def carryBad (d : Word) (own : Nat) : Bool :=
  let n := carryLen d
  bitsOf d 41 7 != 0 || bitsOf d 26 6 != 0 || bitsOf d 9 15 != 0 || n % 8 != 0 || decide (n < 8) || decide (256 < n) || bitsOf d 48 16 == own

/-- Do n bytes at a window address lie inside the core's TCM? -/
def State.inTcm (s : State) (va n : Nat) : Bool := decide (tcmWindow ≤ va) && decide (va + n ≤ tcmWindow + s.tcmSize s.coreId)

/-- A context's next count of carries: 32 bits, from 1, skipping 0. -/
def nextCarry (n : BitVec 32) : BitVec 32 := if n + 1 = 0 then 1 else n + 1

/-- CARRY. -/
def execCarry (rd rs1 rs2 : Reg) (la : BitVec 4) (s : State) : Host.Outcome State Fault Refusal :=
  complete (.carry rd rs1 rs2 la) (do
    let d ← rdReg rs1
    let a ← rdReg rs2
    if carryBad d (← get).links.moduleId then illegal
    if a.toNat % 8 ≠ 0 then raise causeMisalign a.toNat
    if !(← get).inTcm a.toNat (carryLen d) then raise causeProtect a.toNat
    endChunk
    handOff (·.link)
    let s ← get
    let peer := bitsOf d 48 16
    let dst := bitsOf d 32 9
    match s.choosePort s.ctx.owner peer s.coreId dst with
    | none => raise causeLinkLost peer
    | some port =>
      let data ← readWords (carryLen d / 8) a.toNat
      let n := nextCarry s.ctx.arch.carryIndex
      modify fun s => (s.mapArch fun a => { a with carryIndex := n }).issueWrite
        { id := s.fresh, core := s.coreId, slot := s.cur.2, owner := s.ctx.owner, knum := s.ctx.knum, group := s.ctx.group
          rank := if s.ctx.handling.isSome then 0xFFFFFFFF else s.ctx.rank, pc := s.ctx.arch.pc.toNat, number := n, port := port, peer := peer
          dstCore := dst, dstSlot := bitsOf d 24 2, seq := 0, bytes := data, state := .held, attempts := 0, due := 0, domain := s.mySeam
          transfer := none }
      wrReg rd (n.setWidth 64)
      retireHanded 4 la (.reg rd)) s

/-! ### CARRYW (24 R423) -/

/-- Slot k of a core. -/
def Core.carry (c : Core) (k : Nat) : CarrySlot := (c.carries[k]?).getD { full := none, arrivals := [] }

def State.setCarry (s : State) (core k : Nat) (v : CarrySlot) : State :=
  s.mapCore core fun c => { c with carries := c.carries.setIfInBounds k v }

/-- A slot that has been emptied takes its first waiting arrival. -/
def CarrySlot.next (c : CarrySlot) : CarrySlot :=
  match c.arrivals with
  | [] => { full := none, arrivals := [] }
  | x :: rest => { full := some x, arrivals := rest }

/-- Write bytes upward as core-path doublewords. -/
def writeWords : (bs : List Byte) → (n va : Nat) → M Unit
  | _, 0, _ => pure ()
  | bs, n + 1, va => do
    reserveLines (← lineOf va)
    memWrite va 8 (ofLeBytes (bs.take 8))
    writeWords (bs.drop 8) n (va + 8)

/-- A CARRYW up to its wait: true when it has taken a carry. -/
def carrywWork (rd rs1 rs2 : Reg) : M Bool := do
  let k ← rdReg rs1
  let b ← rdReg rs2
  if 4 ≤ k.toNat then illegal
  if b.toNat % 8 ≠ 0 then raise causeMisalign b.toNat
  endChunk
  handOff (·.link)
  let s ← get
  let slot := s.myCore.carry k.toNat
  match slot.full with
  | none => return false
  | some c =>
    if !s.inTcm b.toNat c.bytes.length then raise causeProtect b.toNat
    writeWords c.bytes (c.bytes.length / 8) b.toNat
    endChunk
    modify fun s => s.setCarry s.coreId k.toNat slot.next
    wrReg rd (BitVec.ofNat 64 (c.peer % 2 ^ 16 * 2 ^ 48 + c.srcCore % 2 ^ 9 * 2 ^ 32 + c.bytes.length))
    return true

/-- CARRYW. A wait is numbered, so that waiters of one slot are served in the order they came. -/
def execCarryw (rd rs1 rs2 : Reg) (la : BitVec 4) (s : State) : Host.Outcome State Fault Refusal :=
  let i : Instr := .carryw rd rs1 rs2 la
  match carrywWork rd rs1 rs2 s with
  | .ok (true, t) => complete i (fun _ => retireHanded 4 la (.reg rd) t) s
  | .ok (false, t) =>
    let ticks := t.myCore.k.waitTmo.toNat
    .next (({ t with fresh := t.fresh + 1 } : State).block
      { kind := .carryw, ins := some i, rd := rd, a := bitsOf t.ctx.arch.regs[rs1] 0 2, b := t.fresh
        deadline := if ticks = 0 then none else some ((t.die (dieOf t.coreId)).gct + ticks) })
  | .error e => complete i (fun _ => .error e) s

/-- A waiting CARRYW tests again: it goes on, or waits on with its deadline and its place. -/
def State.retryCarryw (s : State) (core slot : Nat) : State :=
  let w := (s.ctxAt core slot).wait
  s.inSlot core slot fun s =>
    match w.ins with
    | some (.carryw rd rs1 rs2 la) =>
      let t := nextOf s (execCarryw rd rs1 rs2 la { s with ctx := s.ctx.wake })
      if t.ctx.life = .waiting ∧ t.ctx.wait.kind = .carryw then { t with ctx := { t.ctx with wait := w } } else t
    | _ => s

/-- The waiters of a core's carry slot. -/
def State.carryWaiters (s : State) (core k : Nat) : List (Nat × Nat) :=
  (s.allCtxs.filter fun (c, _, x) => c == core && x.life == .waiting && x.wait.kind == .carryw && x.wait.a == k).map fun (_, slot, x) => (x.wait.b, slot)

/-- The first waiter of a slot that holds a carry tests again, and so on while the slot fills anew. -/
def State.serveCarry (core k : Nat) : Nat → State → State
  | 0, s => s
  | n + 1, s =>
    let ws := s.carryWaiters core k
    match (ws.map (·.1)).min? with
    | none => s
    | some b =>
      if ((s.core core).carry k).full.isNone then s
      else match ws.find? (·.1 == b) with
        | some (_, slot) => State.serveCarry core k n (s.retryCarryw core slot)
        | none => s

/-! ### Arrival (24 R420) -/

/-- Place a carry in its slot, or in the slot's arrival queue. -/
def State.placeCarry (s : State) (p : CarryPacket) : State :=
  let slot := (s.core p.dstCore).carry p.dstSlot
  let c : Carry := { peer := p.peer, srcCore := p.srcCore, bytes := p.bytes }
  let s := s.setCarry p.dstCore p.dstSlot
    (if slot.full.isNone ∧ slot.arrivals.isEmpty then { slot with full := some c } else { slot with arrivals := slot.arrivals ++ [c] })
  State.serveCarry p.dstCore p.dstSlot 64 s

/-- What a carry that has its turn is answered. -/
def State.carryAnswer (s : State) (p : CarryPacket) : CarryReply :=
  let slot := (s.core p.dstCore).carry p.dstSlot
  if !s.heldBy p.owner p.dstCore then .refused
  else if slot.full.isNone ∧ slot.arrivals.isEmpty ∨ slot.arrivals.length < 64 then .accepted
  else .full

/-- The sequence number a pair's next packet has here. -/
def State.expectedSeq (s : State) (p : CarryPacket) : Nat :=
  ((s.links.recvSeq.find? fun (a, b, c, _) => a == p.peer && b == p.srcCore && c == p.dstCore).map fun (_, _, _, n) => n).getD 0

/-- A pair's next packet is the one after this one. -/
def State.passSeq (s : State) (p : CarryPacket) : State :=
  { s with links := { s.links with
    recvSeq := (p.peer, p.srcCore, p.dstCore, p.seq + 1) :: s.links.recvSeq.filter fun (a, b, c, _) => !(a == p.peer && b == p.srcCore && c == p.dstCore) } }

/-- The answer to a packet goes back to its module. -/
def State.answerPacket (s : State) (p : CarryPacket) (r : CarryReply) : State :=
  { s with links := { s.links with answers := s.links.answers ++ [(p, r)] } }

/-- The pages of a packet, each with the part of the packet in it. -/
def packetParts (va n : Nat) : List (Nat × Nat) :=
  (List.range ((va % 65536 + n + 65535) / 65536)).map fun i =>
    let lo := max va ((va / 65536 + i) * 65536)
    (lo, min (va + n) ((va / 65536 + i + 1) * 65536) - lo)

/-- Where a byte of a packet that passed lies. -/
def State.rdmaLoc (s : State) (va : Nat) : Nat := ((s.walk va).map fun l => l.frame + (va - l.va)).getD 0

/-- Bytes that come from outside are performed in an owner's memory at device scope (24 R419, R424), and the old lines go to the undo log of `dom`. -/
def State.performInput (s : State) (dom owner va : Nat) (bytes : List Byte) : State :=
  (packetParts va bytes.length).foldl (fun s (a, n) => s.foreignWrite dom owner (s.rdmaLoc a) (a / 128) ((bytes.drop (a - va)).take n)) s

/-- The domains of an owner: a write from outside into its memory is an input of each (23 R406). -/
def State.domainsOf (s : State) (owner : Nat) : List Nat := (s.domains.filter (·.owner == owner)).map (·.id)

/-- A write from outside into an owner's memory: an input of the owner's domains, and performed. -/
def State.takeInput (s : State) (dom owner va : Nat) (bytes : List Byte) : State :=
  ((s.domainsOf owner).foldl (fun s d => s.logInput d (.rdma owner va bytes)) s).performInput dom owner va bytes

/-- A peer's write into this module's JSL window (24 R424): lysa's map of the window names the owner and the address. What the map does not name is refused, and so is a
page that the owner may not write. The old lines are logged for the domain that holds the memory (23 R400). Which domain of an owner's that is, and what the map
refuses, the spec does not say: DESIGN CHOICE, log 222. -/
def State.deliverWindow (s : State) (p : CarryPacket) (off : Nat) : State :=
  let target := (Config.jslWindow (off / 65536)).map fun (o, page) => (o, page * 65536 + off % 65536)
  match target with
  | none => (s.answerPacket p .refused).passSeq p
  | some (o, va) =>
    if (packetParts va p.bytes.length).all fun (a, _) => (s.ownerLoc (s.domainOf o) a 2).isSome then
      (((s.answerPacket p .accepted).passSeq p).takeInput ((s.domainsOf o).headD 0) o va p.bytes).wakeRetries
    else (s.answerPacket p .refused).passSeq p

/-- A packet that has its turn: a write into the JSL window, or a carry, which is refused, placed or queued, or answered busy. From outside a seam domain it is one of
its inputs (23 R406). -/
def State.deliverCarry (s : State) (p : CarryPacket) : State :=
  match p.window with
  | some off => s.deliverWindow p off
  | none =>
  let r := s.carryAnswer p
  let s := s.answerPacket p r
  match r with
  | .full => s
  | .refused => s.passSeq p
  | .accepted =>
    let dom := s.seamAt p.dstCore
    let s := if dom = 0 ∨ s.joined dom p.peer then s else s.logInput dom (.carry p)
    (s.passSeq p).placeCarry p

/-- Packets that came before their turn are delivered when it comes. -/
def State.deliverEarly : Nat → State → State
  | 0, s => s
  | n + 1, s =>
    match s.links.early.find? fun p => p.seq == s.expectedSeq p with
    | some p => State.deliverEarly n (({ s with links := { s.links with early := s.links.early.erase p } } : State).deliverCarry p)
    | none => s

/-- CARRY_ARRIVAL: a peer's packet arrives; each pair's packets are delivered in their order (24 R418, R420, R424). -/
def execCarryArrival (packet : CarryPacket) (s : State) : Host.Outcome State Fault Refusal :=
  let n := s.expectedSeq packet
  if 512 ≤ packet.dstCore ∨ 4 ≤ packet.dstSlot then .next s
  else if packet.seq = n then .next (State.deliverEarly (s.links.early.length + 1) (s.deliverCarry packet))
  else if n < packet.seq ∧ !s.links.early.contains packet then
    .next { s with links := { s.links with early := s.links.early ++ [packet] } }
  else .next s

/-! ### Answers to a carry (24 R420) -/

def State.link? (s : State) (core entry : Nat) : Option LinkWrite := s.links.writes.find? fun w => w.core == core && w.id == entry

def State.dropWrite (s : State) (id : Nat) : State := { s with links := { s.links with writes := s.links.writes.filter (·.id != id) } }

def State.mapWrite (s : State) (id : Nat) (f : LinkWrite → LinkWrite) : State := s.mapWrites fun w => if w.id = id then f w else w

/-- The next carry of a pair that waits behind an answered or lost one goes out, unless it waits behind another that is busy. -/
def State.followWrite (s : State) (w : LinkWrite) : State :=
  let pair := s.links.writes.filter fun v => v.id != w.id && pairKey v.core v.peer v.dstCore == pairKey w.core w.peer w.dstCore
  match (if pair.any (·.state == .busy) then none else pair.find? (·.state == .behind)) with
  | some v => (s.mapWrite v.id fun v => { v with state := .sent }).transmitWrite v
  | none => s

/-- A write has been acknowledged: it is outstanding no more, and a chunk whose writes all are may land (24 R424). -/
def State.ackWrite (s : State) (w : LinkWrite) : State :=
  let s := (s.dropWrite w.id).followWrite w
  let s := match w.transfer with
    | some (tid, chunk, _) =>
      if s.links.writes.any fun v => (v.transfer.map fun (x : Nat × Nat × Nat) => (x.1, x.2.1)) == some (tid, chunk) then s
      else s.mapTransfer w.core tid fun t => { t with acked := insertN chunk t.acked }
    | none => s
  s.wakeRetries

/-- What names a carry's destination in a fault record. -/
def LinkWrite.destination (w : LinkWrite) : Nat := w.peer * 2 ^ 48 + w.dstCore * 2 ^ 32 + w.dstSlot * 2 ^ 24

/-- CARRY_ACKNOWLEDGEMENT: the peer's answer to a link write comes back (24 R420): placed or queued, busy, or refused, which is a PARTITION
fault of the kernel that sent it. -/
def execCarryAcknowledgement (core entry : Nat) (reply : CarryReply) (s : State) : Host.Outcome State Fault Refusal :=
  match s.link? core entry with
  | none => .next s
  | some w =>
    if w.state ≠ .sent ∨ s.lockStands then .next s
    else match reply with
      | .accepted => .next (s.ackWrite w)
      | .full =>
        .next (s.mapWrite w.id fun w => { w with
          state := .busy, attempts := w.attempts + 1
          due := (s.die (dieOf core)).gct + resendDelay (s.core core).k.backoff (w.attempts + 1) })
      | .refused =>
        let s := ((s.dropWrite w.id).followWrite w).recordEvent w.owner w.knum (w.entry causePartition 1 w.destination)
        .next ((s.kernelFaulted w.owner w.knum).wakeRetries).endKernels

/-- CARRY_RESEND: the back-off of a carry that was answered busy has expired (24 R420, 08 R178). -/
def execCarryResend (core entry : Nat) (s : State) : Host.Outcome State Fault Refusal :=
  match s.link? core entry with
  | none => .next s
  | some w =>
    if w.state = .busy ∧ w.due ≤ (s.die (dieOf core)).gct then .next ((s.mapWrite w.id fun w => { w with state := .sent }).transmitWrite w) else .next s

end Sys2Proof.Machine
end

