-- ==== Sys2Proof/Machine/Cloak.lean ====
section
/-!
DEFINITION. Sys2Proof/Machine/Cloak.lean: the CLOAK major (15). A cloak changes time only (15 R290), so what is kept of it is its
members, its blocks and whether the last binding was lost.
-/

namespace Sys2Proof.Machine

/-- May a core become a bound member of the executing context's cloak (15 R285)? -/
def State.eligible (s : State) (core : Nat) : Bool :=
  ((s.myGroup.map (·.cores)).getD []).contains core
    && !(s.allCtxs.any fun (k, _, c) => k == core && c.life != .free && c.life != .retired)
    && !(s.core core).transfers.any (·.live)
    && !(s.clusters.any fun p => p.2.queue.any fun q => q.core == core)
    && !s.cloaked core

/-- The cores of the executing core's cluster in cyclic order after it. -/
def State.neighbours (s : State) : List Nat := (List.range 7).map fun d => s.coreId / 8 * 8 + (s.coreId % 8 + d + 1) % 8

/-- The member core that a block beginning at pc runs on (15 R288). No result depends on it (15 R290). -/
def State.blockMember (s : State) (pc : Word) : Nat :=
  let ms := s.ctx.cloak.members
  ms.getD (draw s.myCore.k.kseed s.ctx.owner classCloak (pc.toNat / 2 % 2 ^ 32) % ms.length) s.coreId

/-- The member core that holds scalar register k, or handle register k, of a BOUND cloak (15 R289); time alone depends on it. -/
def State.registerMember (s : State) (k : Nat) : Nat := s.ctx.cloak.members.getD (k % s.ctx.cloak.members.length) s.coreId

/-- Hops of the cluster operand network between two core indices (15 R289). -/
def operandHops (a b : Nat) : Nat := let d := max a b - min a b; min d (8 - d)

/-- The status of a COMPOSE, and the members it would bind (15 R295). -/
def State.composeStatus (s : State) (n : Nat) : Nat × List Nat :=
  let cand := s.neighbours.filter s.eligible
  if s.isBound then (1, [])
  else if s.ctx.handling.isSome ∨ s.ctx.arch.inh then (4, [])
  else if s.allCtxs.any fun (k, slot, c) => k == s.coreId && slot != s.cur.2 && c.life != .free && c.life != .retired then (3, [])
  else if cand.length < n - 1 then (2, [])
  else (0, s.coreId :: cand.take (n - 1))

/-- The instruction that a context would issue next. -/
def State.nextIns (s : State) (core slot : Nat) : Option Instr :=
  let t := s.switchTo core slot
  let a := t.ctx.arch
  if a.inRep && a.repAct then (a.body.find? (·.addr == a.pc.toNat)).map (·.ins)
  else match fetchIns a.pc.toNat t with
    | .ok (b, _) => some b.ins
    | .error _ => none

def Instr.isCompose : Instr → Bool
  | .compose .. => true
  | _ => false

/-- Does a COMPOSE of the executing context get as far as its cluster's turn (15 R295)? -/
def State.composeTurns (s : State) : Bool := let st := (s.composeStatus 1).1; st == 0 || st == 2

/-- The contexts of the executing core's cluster that have come to the turn of a COMPOSE, the executing one among them. -/
def State.composers (s : State) : List (Nat × Nat) :=
  (List.range 8).flatMap fun j =>
    let core := 8 * clusterOf s.coreId + j
    ((List.range 64).filter fun n =>
      s.cur == (core, n) || ((s.ctxAt core n).life == .running && ((s.nextIns core n).map Instr.isCompose).getD false
        && (s.switchTo core n).composeTurns)).map fun n => (core, n)

/-- COMPOSE (15 R295). Of several that contend in a cluster, the one that the cluster's arbiter draws is performed, and the others wait for it (R285, 11 R250). -/
def execCompose (rd : Reg) (n : BitVec 2) (s : State) : Host.Outcome State Fault Refusal :=
  match (do
    endChunk
    let s ← get
    let (chosen, t) := if s.composeTurns then s.chooseCtx 3 (clusterArbiter (clusterOf s.coreId)) s.composers else (some s.cur, s)
    set t
    if chosen ≠ some s.cur then return false
    let (st, members) := t.composeStatus (2 ^ n.toNat)
    wrReg rd (BitVec.ofNat 64 st)
    retireDone 4
    if st = 0 then
      modify fun s => { s with ctx := { s.ctx with cloak := { state := .bound, members := members, lost := false } } }
      modify fun s => (s.mapArch fun a => { a with cloakBlocks := 0, cloakIns := 0 }).rebase
    modify (·.wakeRetries)
    return true : M Bool) s with
  | .ok (true, t) => .next t
  | .ok (false, t) => .next (t.block { kind := .cloak, ins := some (.compose rd n) })
  | .error e => complete (.compose rd n) (fun _ => .error e) s

/-- RELEASE (15 R292, R296). -/
def execRelease (rd : Reg) (s : State) : Host.Outcome State Fault Refusal :=
  complete (.release rd) (do
    endChunk
    let s ← get
    wrReg rd (if s.isBound then BitVec.ofNat 64 s.ctx.cloak.members.length else 1)
    modify fun s => { s with ctx := s.ctx.uncloak false }
    retireDone 4) s

/-- What CSTAT reads (15 R297), the block that it begins itself counted (15 R287). -/
def State.cloakStat (s : State) : Nat :=
  let c := s.ctx.cloak
  (s.ctx.arch.blockStep s.isBound false).cloakBlocks.toNat * 2 ^ 32 + (if c.lost then 2 ^ 5 else 0)
    + (if c.state = .bound then (c.members.map fun k => 2 ^ (k % 8)).sum * 2 ^ 8 + 2 ^ 4 + c.members.length else 0)

/-- CSTAT (15 R297). -/
def execCstat (rd : Reg) (la : BitVec 4) (s : State) : Host.Outcome State Fault Refusal :=
  complete (.cstat rd la) (do
    wrReg rd (BitVec.ofNat 64 (← get).cloakStat)
    retireLong 4 la (.reg rd)) s

end Sys2Proof.Machine
end

