-- ==== Sys2Proof/Machine/Fp.lean ====
section
/-!
DEFINITION. Sys2Proof/Machine/Fp.lean: the FP and FPL majors (05 R115 to R121).
-/

namespace Sys2Proof.Machine

/-- FP64 is selected by the format code 1. -/
def isDbl (fmt : BitVec 2) : Bool := fmt == 1

/-- Write an FP result and give its flags; CR_TVAL of an FPX it leads to is 0 for a scalar instruction (06 R147). -/
def fpWrite (rd : Reg) (r : Word × Flags) : M (Flags × Nat) := do
  wrReg rd r.1
  return (r.2, 0)

/-- An arithmetic member: round f of the operands once (05 R117). -/
def fpArith (i : Instr) (rd rs1 rs2 : Reg) (rm : BitVec 3) (fmt : BitVec 2) (f : RMode → Val → Val → Val × Flags) (s : State) :
    Host.Outcome State Fault Refusal :=
  completeFp i (do
    let mode ← fpMode rm
    let a ← rdReg rs1
    let b ← rdReg rs2
    fpWrite rd (fpDeliver (isDbl fmt) mode (f mode (fpVal (isDbl fmt) a) (fpVal (isDbl fmt) b)))) 4 0 (.reg rd) s

/-- A member without a rounding mode. -/
def fpPlain (i : Instr) (rd rs1 rs2 : Reg) (f : Word → Word → Word × Flags) (s : State) : Host.Outcome State Fault Refusal :=
  completeFp i (do
    let a ← rdReg rs1
    let b ← rdReg rs2
    fpWrite rd (f a b)) 4 0 (.reg rd) s

/-- FADD: Round(x + y) (05 R117). -/
def execFadd (rd rs1 rs2 : Reg) (rm : BitVec 3) (fmt : BitVec 2) (s : State) : Host.Outcome State Fault Refusal :=
  fpArith (.fadd rd rs1 rs2 rm fmt) rd rs1 rs2 rm fmt (fun mode x y => Val.add mode x y) s

/-- FSUB: Round(x - y) (05 R117). -/
def execFsub (rd rs1 rs2 : Reg) (rm : BitVec 3) (fmt : BitVec 2) (s : State) : Host.Outcome State Fault Refusal :=
  fpArith (.fsub rd rs1 rs2 rm fmt) rd rs1 rs2 rm fmt (fun mode x y => Val.add mode x y.negate) s

/-- FMUL: Round(x * y) (05 R117). -/
def execFmul (rd rs1 rs2 : Reg) (rm : BitVec 3) (fmt : BitVec 2) (s : State) : Host.Outcome State Fault Refusal :=
  fpArith (.fmul rd rs1 rs2 rm fmt) rd rs1 rs2 rm fmt (fun _ x y => Val.mul x y) s

/-- FMAC: Round(z + x * y) with z the old rd (05 R117). -/
def execFmac (rd rs1 rs2 : Reg) (rm : BitVec 3) (fmt : BitVec 2) (s : State) : Host.Outcome State Fault Refusal :=
  completeFp (.fmac rd rs1 rs2 rm fmt) (do
    let mode ← fpMode rm
    let a ← rdReg rs1
    let b ← rdReg rs2
    let c ← rdReg rd
    fpWrite rd (fpDeliver (isDbl fmt) mode
      (Val.fma mode (fpVal (isDbl fmt) a) (fpVal (isDbl fmt) b) (fpVal (isDbl fmt) c)))) 4 0 (.reg rd) s

/-- FMIN (05 R118). -/
def execFmin (rd rs1 rs2 : Reg) (fmt : BitVec 2) (s : State) : Host.Outcome State Fault Refusal :=
  fpPlain (.fmin rd rs1 rs2 fmt) rd rs1 rs2 (fpMinMax (isDbl fmt) false) s

/-- FMAX (05 R118). -/
def execFmax (rd rs1 rs2 : Reg) (fmt : BitVec 2) (s : State) : Host.Outcome State Fault Refusal :=
  fpPlain (.fmax rd rs1 rs2 fmt) rd rs1 rs2 (fpMinMax (isDbl fmt) true) s

/-- FSGNJ.J, .JN, .JX (05 R119). -/
def execFsgnj (rd rs1 rs2 : Reg) (j fmt : BitVec 2) (s : State) : Host.Outcome State Fault Refusal :=
  fpPlain (.fsgnj rd rs1 rs2 j fmt) rd rs1 rs2 (fpSignInject (isDbl fmt) j.toNat) s

/-- FEQ (05 R119). -/
def execFeq (rd rs1 rs2 : Reg) (fmt : BitVec 2) (s : State) : Host.Outcome State Fault Refusal :=
  fpPlain (.feq rd rs1 rs2 fmt) rd rs1 rs2 (fpCompare (isDbl fmt) .eq) s

/-- FLT (05 R119). -/
def execFlt (rd rs1 rs2 : Reg) (fmt : BitVec 2) (s : State) : Host.Outcome State Fault Refusal :=
  fpPlain (.flt rd rs1 rs2 fmt) rd rs1 rs2 (fpCompare (isDbl fmt) .lt) s

/-- FLE (05 R119). -/
def execFle (rd rs1 rs2 : Reg) (fmt : BitVec 2) (s : State) : Host.Outcome State Fault Refusal :=
  fpPlain (.fle rd rs1 rs2 fmt) rd rs1 rs2 (fpCompare (isDbl fmt) .le) s

/-- FCLASS: the class word; no flag (05 R119). -/
def execFclass (rd rs1 : Reg) (fmt : BitVec 2) (s : State) : Host.Outcome State Fault Refusal :=
  complete (.fclass rd rs1 fmt) (do
    let a ← rdReg rs1
    wrReg rd (fpClass (isDbl fmt) a)
    retire 4) s

/-- FCVT.F.I: an integer to FP32 or FP64 (05 R120). -/
def execFcvtFI (rd rs1 : Reg) (w32 uns : Bool) (rm : BitVec 3) (fmt : BitVec 2) (s : State) : Host.Outcome State Fault Refusal :=
  completeFp (.fcvtFI rd rs1 w32 uns rm fmt) (do
    let mode ← fpMode rm
    let a ← rdReg rs1
    fpWrite rd (fpDeliver (isDbl fmt) mode (.ofInt (intOperand w32 uns a), 0))) 4 0 (.reg rd) s

/-- FCVT.I.F: FP32 or FP64 to an integer, saturated (05 R120). -/
def execFcvtIF (rd rs1 : Reg) (w32 uns : Bool) (rm : BitVec 3) (fmt : BitVec 2) (s : State) : Host.Outcome State Fault Refusal :=
  completeFp (.fcvtIF rd rs1 w32 uns rm fmt) (do
    let mode ← fpMode rm
    let a ← rdReg rs1
    fpWrite rd (toIntReg w32 uns mode (fpVal (isDbl fmt) a))) 4 0 (.reg rd) s

/-- FCVT.F.F: from the other of FP32 and FP64 (05 R120). A signalling NaN raises NV (04 R91). -/
def execFcvtFF (rd rs1 : Reg) (rm : BitVec 3) (fmt : BitVec 2) (s : State) : Host.Outcome State Fault Refusal :=
  completeFp (.fcvtFF rd rs1 rm fmt) (do
    let mode ← fpMode rm
    let a ← rdReg rs1
    let x := fpVal (!isDbl fmt) a
    fpWrite rd (fpDeliver (isDbl fmt) mode (x, nvIf x.isSignalling))) 4 0 (.reg rd) s

/-- FDIV (05 R121). -/
def execFdiv (rd rs1 rs2 : Reg) (rm : BitVec 3) (dbl : Bool) (la : BitVec 4) (s : State) : Host.Outcome State Fault Refusal :=
  completeFp (.fdiv rd rs1 rs2 rm dbl la) (do
    let mode ← fpMode rm
    let a ← rdReg rs1
    let b ← rdReg rs2
    fpWrite rd (fpDeliver dbl mode (Val.div (fpVal dbl a) (fpVal dbl b)))) 4 la (.reg rd) s

/-- FSQRT (05 R121). -/
def execFsqrt (rd rs1 : Reg) (rm : BitVec 3) (dbl : Bool) (la : BitVec 4) (s : State) : Host.Outcome State Fault Refusal :=
  completeFp (.fsqrt rd rs1 rm dbl la) (do
    let mode ← fpMode rm
    let a ← rdReg rs1
    fpWrite rd (fpDeliver dbl mode (Val.sqrt (fpVal dbl a)))) 4 la (.reg rd) s

end Sys2Proof.Machine
end

