-- ==== Sys2Proof/Machine/Group.lean ====
section
/-!
DEFINITION. Sys2Proof/Machine/Group.lean: the collectives of a group (14): arrival, completion at every rank, and timeouts.
-/

namespace Sys2Proof.Machine

/-! ### A collective instruction taken apart (14 R278) -/

/-- op6, mod3, hd, the sources, and la. -/
structure GroupIns where
  op : Nat
  md : Nat
  hd : HReg
  srcs : List HReg
  la : BitVec 4
  deriving DecidableEq, Repr

/-- mod3 of a collective: [0] exclusive, [2:1] the mode. -/
def groupMod (rm : BitVec 2) (excl : Bool) : Nat := 2 * rm.toNat + (if excl then 1 else 0)

def groupIns : Instr → Option GroupIns
  | .gscanAdd hd ha rm excl la => some { op := 0, md := groupMod rm excl, hd := hd, srcs := [ha], la := la }
  | .gscanAff hd ha hb rm excl la => some { op := 1, md := groupMod rm excl, hd := hd, srcs := [ha, hb], la := la }
  | .gscanMax hd ha excl la => some { op := 2, md := groupMod 0 excl, hd := hd, srcs := [ha], la := la }
  | .gredAdd hd ha rm la => some { op := 3, md := groupMod rm false, hd := hd, srcs := [ha], la := la }
  | .gredMax hd ha la => some { op := 4, md := 0, hd := hd, srcs := [ha], la := la }
  | .gbcast hd ha hb la => some { op := 5, md := 0, hd := hd, srcs := [ha, hb], la := la }
  | .gsync => some { op := 6, md := 0, hd := 0, srcs := [], la := 0 }
  | _ => none

/-- The root GBCAST names. -/
def GroupIns.root (g : GroupIns) (a : Arch) : Nat :=
  match g.op, g.srcs with
  | 5, [_, hb] => (Tile.of hb a.handles[hb]).base % 2 ^ 32
  | _, _ => 0

/-- The sources a rank reads: GBCAST reads ha at the root alone (14 R279). -/
def GroupIns.reads (g : GroupIns) (a : Arch) (rank : Nat) : List HReg :=
  match g.op, g.srcs with
  | 5, [ha, _] => if g.root a = rank then [ha] else []
  | _, l => l

/-- The header of an arrival: op6, mod3, ER, EC, root (14 R275). -/
def GroupIns.header (g : GroupIns) (a : Arch) : List Nat :=
  let d := Tile.of g.hd a.handles[g.hd]
  let shape := if g.op = 6 ∨ d.isEmpty then [0, 0] else [d.er, d.ec]
  g.op :: g.md :: shape ++ [g.root a]

/-! ### The checks before arrival (14 R279, R441) -/

/-- Raise HANDLE for the first handle that fails a condition. -/
def failFirst (reason : Nat) (bad : HReg → Tile → Bool) : List HReg → M Unit
  | [] => pure ()
  | r :: rest => do
    if bad r (← tileOf r) then raiseHandle r reason
    failFirst reason bad rest

/-- The rows of R279 in order. -/
def groupChecks (g : GroupIns) (rank n : Nat) : M Unit := do
  let a := (← get).ctx.arch
  let d ← tileOf g.hd
  let full := g.reads a rank
  failFirst 9 (fun _ t => !spacesDst.contains t.space) [g.hd]
  failFirst 9 (fun _ t => !spacesSrc.contains t.space) g.srcs
  if g.op < 5 then failFirst 9 (fun _ t => t.fmt != 0) (g.hd :: full)
  else
    failFirst 9 (fun _ t => t.fmt != d.fmt) full
    failFirst 9 (fun _ t => !t.isImm || t.fmt != 7) (g.srcs.drop 1)
  failFirst 10 (fun _ t => !t.isImm && !(t.er == d.er && t.ec == d.ec)) full
  if g.op = 5 ∧ n ≤ g.root a then failFirst 11 (fun _ _ => true) (g.srcs.drop 1)

/-- Every element access of one operand, checked and not performed (14 R441). -/
def checkOperand (r : HReg) (a : Access) : M Unit := do
  let t ← tileOf r
  if t.isImm then return
  let _ ← forGrid t.er t.ec fun i j => t.pathPlaces i j a
  return

/-- The alignment of an operand (16 R302). -/
def checkAligned (r : HReg) : M Unit := do
  let t ← tileOf r
  if !t.isImm && !t.aligned then raiseHandle r 5

/-- A rank's own accesses: the alignment of hd and of its sources comes first, then its sources' elements, then those of its hd window (16 R311). -/
def checkAccesses (g : GroupIns) (rank : Nat) : M Unit := do
  let a := (← get).ctx.arch
  let d ← tileOf g.hd
  if g.op = 6 ∨ d.isEmpty then return
  (g.hd :: g.reads a rank).forM checkAligned
  (g.reads a rank).forM fun r => checkOperand r .load
  checkOperand g.hd .store

/-- The executing thread's kernel and group, for a launched thread; others are no ranks (14 R272, R274). -/
def State.rankGroup (s : State) : Option (Kernel × Group) :=
  if s.ctx.handling.isSome then none
  else (s.kernel? s.ctx.owner s.ctx.knum).bind fun k => (k.groups.find? (·.index == s.ctx.group)).map fun g => (k, g)

/-- What a rank does up to its arrival; it then waits for the instance (14 R274, R275, R277). -/
def arrive (i : Instr) (g : GroupIns) : M Unit := do
  match (← get).rankGroup with
  | none => illegal
  | some (k, grp) =>
    endChunk
    handOff (·.collective)
    let s ← get
    let rank := s.ctx.rank
    if g.op ≠ 6 then
      checkHandles (g.hd :: g.srcs)
      let d ← tileOf g.hd
      if !d.isEmpty then groupChecks g rank k.threads
      checkAccesses g rank
    match grp.retiredTval with
    | some t => raise causeTimeout t
    | none =>
      let ticks := s.myCore.k.btmo.toNat
      stop (.wait { kind := .collective, ins := some i
                    deadline := if ticks = 0 then none else some ((s.die (dieOf s.coreId)).gct + ticks) })

/-- The shape of every GRP instruction. -/
def collective (i : Instr) (s : State) : Host.Outcome State Fault Refusal :=
  let m : M Unit := match groupIns i with | some g => arrive i g | none => illegal
  complete i m (match m s with
    | .error (.trap cause _ _) => if cause = causeTimeout then s.failInstance s.ctx.owner s.ctx.knum s.ctx.group else s
    | _ => s)

/-- GSCAN.ADD (14 R280). -/
def execGscanAdd (hd ha : HReg) (rm : BitVec 2) (excl : Bool) (la : BitVec 4) (s : State) : Host.Outcome State Fault Refusal :=
  collective (.gscanAdd hd ha rm excl la) s

/-- GSCAN.AFF (14 R280). -/
def execGscanAff (hd ha hb : HReg) (rm : BitVec 2) (excl : Bool) (la : BitVec 4) (s : State) : Host.Outcome State Fault Refusal :=
  collective (.gscanAff hd ha hb rm excl la) s

/-- GSCAN.MAX (14 R280). -/
def execGscanMax (hd ha : HReg) (excl : Bool) (la : BitVec 4) (s : State) : Host.Outcome State Fault Refusal :=
  collective (.gscanMax hd ha excl la) s

/-- GRED.ADD (14 R280). -/
def execGredAdd (hd ha : HReg) (rm : BitVec 2) (la : BitVec 4) (s : State) : Host.Outcome State Fault Refusal :=
  collective (.gredAdd hd ha rm la) s

/-- GRED.MAX (14 R280). -/
def execGredMax (hd ha : HReg) (la : BitVec 4) (s : State) : Host.Outcome State Fault Refusal :=
  collective (.gredMax hd ha la) s

/-- GBCAST (14 R280). -/
def execGbcast (hd ha hb : HReg) (la : BitVec 4) (s : State) : Host.Outcome State Fault Refusal :=
  collective (.gbcast hd ha hb la) s

/-- GSYNC (14 R282). -/
def execGsync (s : State) : Host.Outcome State Fault Refusal := collective .gsync s

/-! ### Completion (14 R275, R280, R281) -/

/-- The context that is rank q of a group. -/
def State.rankAt (s : State) (owner knum group q : Nat) : Option (Nat × Nat × Context) :=
  (s.ctxsOf owner knum).find? fun (_, _, c) => c.group == group && c.handling.isNone && c.rank == q

/-- Has a context arrived at the instance of this arrival index? -/
def Context.arrived (c : Context) (index : BitVec 32) : Bool :=
  c.life == .waiting && c.wait.kind == .collective && c.arch.collIndex == index

/-- Run a piece of work as a context. -/
def State.runAs {α : Type} (s : State) (core slot : Nat) (m : M α) : Except Stop (α × State) :=
  let old := s.cur
  match m (s.switchTo core slot) with
  | .ok (a, t) => .ok (a, t.switchTo old.1 old.2)
  | .error e => .error e

/-- Run a piece of work as each rank in turn, collecting what it gives. -/
def State.runAll {α : Type} (s : State) (m : GroupIns → Context → M α) : List (Nat × Nat × Context) → Except Stop (List α × State)
  | [] => .ok ([], s)
  | (core, slot, c) :: rest =>
    match s.runAs core slot (m ((c.wait.ins.bind groupIns).getD { op := 6, md := 0, hd := 0, srcs := [], la := 0 }) c) with
    | .error e => .error e
    | .ok (a, t) =>
      match t.runAll m rest with
      | .error e => .error e
      | .ok (as, u) => .ok (a :: as, u)

/-- One element position over the ranks: what each rank receives, and the flags of the nodes (14 R280). -/
def groupNodes (op md : Nat) (xs : List (List Val)) : List Nat × Flags :=
  let mode := treeMode (BitVec.ofNat 2 (md / 2))
  let excl := md % 2 == 1
  let a := xs.map fun x => rawFp32 (x.headD (.zero false))
  let done := fun (l : List (Nat × Flags)) =>
    (l.map fun x => (specFp32.deliver .rne 0 (rootFp32 x.1).1).1,
      l.foldl (fun (f : Flags) x => f ||| x.2 ||| (rootFp32 x.1).2) 0)
  match op with
  | 0 => done (scan (addFp32 mode) 0 excl a)
  | 1 =>
    let b := xs.map fun x => rawFp32 (x.getD 1 (.zero false))
    done ((scan (affFp32 mode) (one32, 0) excl (a.zip b)).map fun x => (x.1.2, x.2))
  | 2 => done (scan maxFp32 negInf32 excl a)
  | 3 => let (r, f) := treeReduce (addFp32 mode) a; done (List.replicate xs.length (r.getD 0, f))
  | _ => let (r, f) := treeReduce maxFp32 a; done (List.replicate xs.length (r.getD 0, f))

/-- The instance completes at one rank: the union of the flags is raised, or FPX is taken with the index advanced (14 R274, R281). -/
def State.returnRank (s : State) (core slot : Nat) (flags : Grid Flags) : State :=
  s.inSlot core slot fun s =>
    let i := s.ctx.wait.ins.getD .gsync
    let g := (groupIns i).getD { op := 6, md := 0, hd := 0, srcs := [], la := 0 }
    let s := { s with ctx := { s.ctx with life := .ready, wait := {} } }
    let fs := flags.flatten
    let f : Flags := fs.foldl (· ||| ·) 0
    let s := s.mapArch fun a => { a.raiseFlags f with collIndex := a.collIndex + 1 }
    if s.ctx.arch.enabled f == (0 : Flags) then
      let w := Tile.of g.hd s.ctx.arch.handles[g.hd]
      match retireHanded 4 g.la (.window g.hd w.space (w.footprint s)) s with
      | .ok (_, t) => t
      | .error _ => s
    else
      let e := (fs.findIdx? fun x => s.ctx.arch.enabled x != 0).getD 0
      (s.mapChunk fun c => { c with ins := c.ins + 1 }).takeTrap i causeFpx (BitVec.ofNat 64 e) true 0 []

/-- The instance completes at every rank; a GSYNC's return lets a pending carve-out of its core take effect (06 R155). -/
def State.returnRanks (s : State) (ranks : List (Nat × Nat × Context)) (op : Nat) (flags : Grid Flags) : State :=
  let s := ranks.foldl (fun s (core, slot, _) => s.returnRank core slot flags) s
  if op = 6 then (ranks.map (·.1)).eraseDups.foldl State.tryCarve s else s

/-- Every rank raises HANDLE with reason 10 where headers differ (14 R275). -/
def State.headerTrap (s : State) (core slot : Nat) : State :=
  s.inSlot core slot fun s =>
    let i := s.ctx.wait.ins.getD .gsync
    let r := ((groupIns i).map (·.hd)).getD 0
    ({ s with ctx := { s.ctx with life := .ready, wait := {} } } : State).takeTrap i causeHandle (BitVec.ofNat 64 (r.val + 160)) false 0 []

/-- What every rank receives and the flags at each position, from the inputs of all of them. -/
def groupOutputs (op md er ec : Nat) (ins : List (List (Grid Val))) : List (Grid Nat) × Grid Flags :=
  let at' := mkGrid er ec fun i j => groupNodes op md (ins.map fun gs => gs.map fun g => gridAt (.zero false) g i j)
  ((List.range ins.length).map fun r => at'.map fun row => row.map fun x => x.1.getD r 0, at'.map fun row => row.map (·.2))

/-- The patterns of a window, read on the collective path. -/
def Tile.pathPatterns (t : Tile) : M (Grid Nat) := forGrid t.er t.ec t.pathElem

/-- The reads of a rank's sources are final once every rank's have been made (10 R229). -/
def consumeSources (rs : List HReg) : M Unit := do
  for r in rs do
    let t ← tileOf r
    let _ ← forGrid t.er t.ec t.pathConsume

/-- The bytes of its 3-byte group that a packed element lies in; every byte of another. -/
def Tile.ownBytes (t : Tile) (j : Nat) (locs : List Nat) : List Nat :=
  if t.form.bytes = 0 then ((locs.zipIdx.filter fun (_, k) => decide (t.elemBit j / 8 ≤ k) && decide (k ≤ (t.elemBit j + 5) / 8)).map (·.1)) else locs

/-- Where the bytes of a window lie, on the collective path. -/
def Tile.pathLocs (t : Tile) : M (List Nat) := do
  let g ← forGrid t.er t.ec fun i j => do
    let ps ← t.pathPlaces i j .store
    return t.ownBytes j (ps.map fun (p, n) => (List.range n).map (p.loc + ·)).flatten
  return g.flatten.flatten

/-- The bytes that more than one rank writes. -/
def sharedLocs : List (List Nat) → List Nat
  | [] => []
  | l :: rest => insertAll (l.filter fun x => rest.any (·.contains x)) (sharedLocs rest)

/-- Every rank's output is written. A byte that several ranks write receives one of their values, a free choice (14 R276). -/
def State.writeRanks (s : State) (ranks : List (Nat × Nat × Context)) (out : Nat → Grid Nat) : Except Stop State :=
  let put := fun (g : GroupIns) (c : Context) => (do
    let d ← tileOf g.hd
    forEach (out c.rank) d.pathPut : M Unit)
  match s.runAll put ranks, s.runAll (fun g _ => do
      let d ← tileOf g.hd
      d.pathLocs) ranks with
  | .ok (_, u), .ok (locs, _) =>
    .ok ((sharedLocs locs).foldl (fun u loc =>
      let writers := (ranks.zip locs).filter (·.2.contains loc)
      match (writers[Config.sharedWriter u.fresh % writers.length]?).map fun w => s.runAll put [w.1] with
      | some (.ok (_, v)) => { u.setByte loc (v.byteAt loc) with fresh := u.fresh + 1 }
      | _ => u) u)
  | .error e, _ => .error e
  | _, .error e => .error e

/-- The reads of some ranks of a collective are final. -/
def State.readsFinal (s : State) (ranks : List (Nat × Nat × Context)) : State :=
  match s.runAll (fun g _ => consumeSources g.srcs) ranks with
  | .ok (_, t) => t
  | .error _ => s

/-- The collective's work once every rank has arrived with one header: every input is read, then every output is written. -/
def State.collect (s : State) (ranks : List (Nat × Nat × Context)) (op md er ec root : Nat) : Except Stop (Grid Flags × State) :=
  if op = 6 ∨ er = 0 then .ok ([], s)
  else if op = 5 then
    match s.runAll (fun g c => do
        let t ← tileOf (g.srcs.headD 0)
        if c.rank = root then t.pathPatterns else return []) ranks with
    | .error e => .error e
    | .ok (gs, t) =>
      let t := t.readsFinal (ranks.filter fun (_, _, c) => c.rank == root)
      (t.writeRanks ranks fun _ => mkGrid er ec (gridAt 0 (gs.getD root []))).map fun u => ([], u)
  else
    match s.runAll (fun g _ => g.srcs.mapM fun r => do
        let t ← tileOf r
        let bits ← t.pathPatterns
        return bits.map fun row => row.map specFp32.value) ranks with
    | .error e => .error e
    | .ok (ins, t) =>
      let (outs, flags) := groupOutputs op md er ec ins
      let t := t.readsFinal ranks
      (t.writeRanks ranks fun r => outs.getD r []).map fun u => (flags, u)

/-- Does a context that has arrived at a collective access an extent of mapped memory when the instance completes (14 R441)? -/
def Context.collectiveMeets (c : Context) (base size : Nat) : Bool :=
  c.life == .waiting && c.wait.kind == .collective && (c.wait.ins.bind groupIns).any fun g =>
    let window := fun (r : HReg) => Tile.of r c.arch.handles[r]
    g.op != 6 && !(window g.hd).isEmpty && (g.hd :: g.reads c.arch c.rank).any fun r =>
      (window r).space == spGlobal && (window r).extents.any fun (a, b) => decide (a < (base + size : Nat)) && decide ((base : Int) < b)

/-- What the accesses of a rank would wait for or stop at, if anything. -/
def State.rankStop (s : State) (core slot : Nat) (c : Context) : Option Stop :=
  match (c.wait.ins.bind groupIns).map fun g => s.runAs core slot (checkAccesses g c.rank) with
  | some (.error e) => some e
  | _ => none

/-- Does a home block an access of these ranks? The instance then completes later (22 R390). -/
def State.ranksBlocked (s : State) (ranks : List (Nat × Nat × Context)) : Bool :=
  ranks.any fun (core, slot, c) => match s.rankStop core slot c with | some (.wait w) => w.kind == .homeBlock | _ => false

/-- Ranks whose accesses no longer pass their checks though no shoot-down has overtaken them, which would have waited: they arrive again (log 91). -/
def State.lateRanks (s : State) (ranks : List (Nat × Nat × Context)) : List (Nat × Nat × Context) :=
  ranks.filter fun (core, slot, c) => (s.rankStop core slot c).isSome

/-- Has every rank of a kernel's group arrived at one instance? -/
def State.allArrived (s : State) (owner knum group : Nat) : Bool :=
  let n := ((s.kernel? owner knum).map (·.threads)).getD 0
  let ranks := ((List.range n).map (s.rankAt owner knum group)).filterMap id
  ranks.length == n && match ranks with
    | [] => false
    | (_, _, c0) :: _ => ranks.all fun (_, _, c) => c.arrived c0.arch.collIndex

/-- COLLECTIVE_COMPLETE: the last rank has arrived, and the instance completes at every rank (14 R275). -/
def execCollectiveComplete (owner knum group : Nat) (s : State) : Host.Outcome State Fault Refusal :=
  let n := ((s.kernel? owner knum).map (·.threads)).getD 0
  let found := (List.range n).map (s.rankAt owner knum group)
  let ranks := found.filterMap id
  match ranks with
  | [] => .next s
  | (_, _, c0) :: _ =>
    if ranks.length ≠ n ∨ ranks.any (fun (_, _, c) => !c.arrived c0.arch.collIndex) then .next s
    else
      let header := fun (c : Context) => ((c.wait.ins.bind groupIns).map fun g => g.header c.arch).getD []
      match header c0 with
      | [op, md, er, ec, root] =>
        if ranks.any (fun (_, _, c) => header c != header c0) then
          .next (ranks.foldl (fun s (core, slot, _) => s.headerTrap core slot) s).endKernels
        else
          let late := s.lateRanks ranks
          if s.ranksBlocked ranks then .next s
          else if !late.isEmpty then .next (late.foldl (fun s (core, slot, _) => s.mapCtxAt core slot Context.wake) s)
          else if op = 6 ∧ ranks.any (fun (core, _, _) => s.carveHeld core) then .next s
          else match s.collect ranks op md er ec root with
            | .error _ => .next s
            | .ok (flags, t) => .next ((t.returnRanks ranks op flags).releaseHomes.wakeRetries).endKernels
      | _ => .next s

/-- COLLECTIVE_TIMEOUT: CR_BTMO has expired, and the rank withdraws and raises TIMEOUT with the lowest missing rank (14 R277). -/
def execCollectiveTimeout (core slot : Nat) (s : State) : Host.Outcome State Fault Refusal :=
  let c := s.ctxAt core slot
  if !s.expired core slot .collective then .next s
  else
    let n := ((s.kernel? c.owner c.knum).map (·.threads)).getD 0
    match (List.range n).find? fun q =>
      !(((s.rankAt c.owner c.knum c.group q).map fun (_, _, d) => d.arrived c.arch.collIndex).getD false) with
    | none => .next s
    | some q =>
      .next (s.inSlot core slot fun s =>
        let i := s.ctx.wait.ins.getD .gsync
        ({ s with ctx := { s.ctx with life := .ready, wait := {} } } : State).takeTrap i causeTimeout (BitVec.ofNat 64 (q % 2 ^ 16)) false 0 []).endKernels

end Sys2Proof.Machine
end

