-- ==== Sys2Proof/Machine/Hierarchy.lean ====
section
/-!
DEFINITION. Sys2Proof/Machine/Hierarchy.lean: RANGEQ, REGSW and PLOAD with the table checker (10 R235, R239 to R243), and the steps of homes
and dies (10 R227 to R238, 13 R269 to R271).
-/

namespace Sys2Proof.Machine

/-! ### Table images (10 R232, R235) -/

/-- Byte k of an image. -/
def imgByte (img : List Byte) (k : Nat) : Nat := (img.getD k 0).toNat

/-- The action word of a state and event in an image. -/
def imgAction (img : List Byte) (st ev : Nat) : Nat := ofLeBytes ((img.drop (128 + (32 * st + ev) * 4)).take 4)

def imgAttr (img : List Byte) (st bit : Nat) : Bool := decide (st < 16) && imgByte img (64 + st) / 2 ^ bit % 2 == 1

def attrUsed : Nat := 0
def attrDirty : Nat := 1
def attrExcl : Nat := 2
def attrShared : Nat := 3
def attrHeld : Nat := 4

/-- Every state and event, states upward and events upward. -/
def entryGrid (events : Nat) : List (Nat × Nat) := (List.range 16).flatMap fun st => (List.range events).map fun ev => (st, ev)

/-- Rule 1 (10 R235). -/
def headerBad (img : List Byte) : Bool :=
  let init := imgByte img 1
  decide (6 < imgByte img 0)
    || ((List.range 62).any fun k => imgByte img (2 + k) != 0)
    || ((List.range 48).any fun k => imgByte img (80 + k) != 0)
    || ((List.range 16).any fun k => imgByte img (64 + k) / 32 != 0)
    || !imgAttr img init attrUsed || imgAttr img init attrDirty || imgAttr img init attrHeld

/-- Has an action word a reserved code or bit? -/
def wordReserved (w : Nat) : Bool :=
  w / 2 ^ 24 != 0 || decide (4 < w / 2 ^ 11 % 8) || decide (6 < w / 2 ^ 7 % 16) || decide (2 < w / 2 ^ 4 % 8)

/-- Rule 2 at one entry: 0 it holds, 1 it fails, 2 it fails on a reserved field. -/
def unhandled (img : List Byte) (st ev : Nat) : Nat :=
  let w := imgAction img st ev
  if !imgAttr img st attrUsed ∨ 12 ≤ ev then (if w = 0 then 0 else 1)
  else if !(Action.ofWord w).handled ∨ !imgAttr img (w % 16) attrUsed then 1
  else if wordReserved w then 2
  else 0

/-- Rule 3 at one entry. -/
def twoWriters (img : List Byte) (st ev : Nat) : Bool :=
  let a := Action.ofWord (imgAction img st ev)
  imgAttr img st attrUsed && ev < 12 && a.setOwn && imgAttr img a.next attrExcl && imgAttr img st attrHeld
    && !((a.msg == msgInv || a.msg == msgFwdM) && 2 ≤ a.dest && a.dest ≤ 4 && a.wait == 1)

/-- Rule 4 at one entry; a consumed forward tag is exempt (10 R236). -/
def lostDirty (img : List Byte) (st ev : Nat) : Bool :=
  let a := Action.ofWord (imgAction img st ev)
  imgAttr img st attrUsed && ev < 12 && ev != evFwdtagConsume && imgAttr img st attrDirty && !imgAttr img a.next attrDirty
    && !(a.wb || (a.msg == msgFwdM && a.setOwn))

/-- The checker: rule, state and event of the first failure, rule 0 for none (10 R235, R243). -/
def checkTable (img : List Byte) : Nat × Nat × Nat :=
  if headerBad img then (1, 0, 0)
  else match (entryGrid 32).find? fun e => unhandled img e.1 e.2 != 0 with
    | some (st, ev) => if unhandled img st ev = 2 then (2, 0, 0) else (2, st, ev)
    | none =>
      match (entryGrid 32).find? fun e => (imgAttr img e.1 attrExcl && imgAttr img e.1 attrShared) || twoWriters img e.1 e.2 with
      | some (st, ev) => (3, st, if imgAttr img st attrExcl && imgAttr img st attrShared then 0 else ev)
      | none =>
        match (entryGrid 32).find? fun e => lostDirty img e.1 e.2 with
        | some (st, ev) => (4, st, ev)
        | none => (0, 0, 0)

/-- The table an image holds. -/
def tableOfImage (img : List Byte) : ProtoTable :=
  { kind := imgByte img 0, init := imgByte img 1, attr := (List.range 16).map fun k => imgByte img (64 + k)
    action := (entryGrid 32).map fun e => imgAction img e.1 e.2 }

/-- The image of a table, 2,176 bytes. -/
def imageOfTable (t : ProtoTable) : List Byte :=
  leBytes 1 t.kind ++ leBytes 1 t.init ++ List.replicate 62 0 ++ (t.attr.map fun a => BitVec.ofNat 8 a) ++ List.replicate 48 0
    ++ (t.action.map (leBytes 4)).flatten

/-! ### Quiescing an extent -/

/-- Copies in flight to or from an extent complete; a chunk that waits for fault service waits on (22 R389, R390, 10 R239). -/
def State.drainCopies (s : State) (lo n : Nat) : State :=
  s.cores.foldl (fun s (core, c) => (c.transfers.filter fun t => t.state == .inFlight && t.touches lo n).foldl (fun s t =>
    (List.range (t.plan.chunks + 1)).foldl (fun s k => nextOf s (execTransferChunkLanding core t.tid k s)) s) s) s

/-- Is a copy still in flight to or from an extent? Matrix commands touch no mapped memory, and a link write belongs to its copy. -/
def State.copiesFlow (s : State) (lo n : Nat) : Bool := s.cores.any fun p => p.2.transfers.any fun t => t.state == .inFlight && t.touches lo n

/-- Would copies to or from an extent still be in flight once what can land has landed? What blocks the extent then waits for them (22 R389, R390). -/
def State.copiesHold (s : State) (lo n : Nat) : Bool := (s.drainCopies lo n).copiesFlow lo n

/-- Squash every uncommitted chunk but the executing context's that meets a condition; a locked chunk has committed before (09 R199). -/
def State.squashWhere (s : State) (hit : Context → Bool) : State :=
  (s.ctxs.filter fun p => !p.2.chunk.locked && p.2.life != .runahead && hit p.2).foldl (fun s p => s.squashAt (p.1 / 64) (p.1 % 64)) s

/-- Write back and drop every core's SWM copies of the lines a condition names (10 R238, R239). -/
def State.dropSwm (s : State) (hit : Nat → SwmLine → Bool) : State :=
  let gone := s.coh.swm.filterMap fun (k, l) => l.bind fun l => if hit (k % 2 ^ 64) l then some (k, l) else none
  let s := gone.foldl (fun s (k, l) => l.dirty.foldl (fun s (i, b) => match b with
    | some b => s.setByte (128 * (k % 2 ^ 64) + i) b
    | none => s) s) s
  let s := (gone.filter fun x => !x.2.dirty.isEmpty).foldl (fun s x => s.squashMeeting [x.1 % 2 ^ 64]) s
  s.mapCoh fun c => { c with
    l1 := dropTags c.l1 fun k v => gone.any fun x => x.2.at_ == k && x.2.vline == v
    swm := c.swm.filter fun (k, l) => match l with | some l => !hit (k % 2 ^ 64) l | none => true }

/-- Clear the forward-tag marks of the lines a condition names; memory takes their newest bytes (10 R229). -/
def State.clearMarks (s : State) (hit : Nat → FwdMark → Bool) : State :=
  let gone := s.coh.marks.filterMap fun (k, m) => m.bind fun m => if hit k m then some k else none
  s.mapCoh fun c => { c with
    marks := c.marks.filter (fun p => !gone.contains p.1), stale := c.stale.filter (fun p => !gone.contains p.1) }

/-- No copy of an extent remains in any L1D, and no forward mark (22 R389, 10 R239). -/
def State.flushAll (s : State) (lo n : Nat) (ev : Nat := evFlush) : State :=
  let inside := fun line => decide (lo ≤ 128 * line ∧ 128 * line < lo + n)
  let s := (s.flushExtent lo n ev).dropSwm fun _ l => inside l.vline
  (s.clearMarks fun _ m => inside m.vline).dropLeases fun _ line => inside line

/-! ### RANGEQ, REGSW, PLOAD (10 R240 to R243) -/

/-- RANGEQ (10 R241). -/
def execRangeq (rd rs1 : Reg) (la : BitVec 4) (s : State) : Host.Outcome State Fault Refusal :=
  complete (.rangeq rd rs1 la) (do
    let a ← rdReg rs1
    endChunk
    let s ← get
    let v := if inWindowRegion a.toNat then 0
      else match s.rangeOf s.coreId s.ctx.owner a.toNat with
        | some e => e.index * 2 ^ 16 + 2 ^ 10 + e.state * 2 ^ 8 + s.kindOf e.slot * 2 ^ 4 + e.slot
        | none => s.kindOf 0 * 2 ^ 4
    wrReg rd (BitVec.ofNat 64 v)
    retireLong 4 la (.reg rd)) s

/-- Write word 2 of a range entry. -/
def State.putRangeWord (s : State) (core : Nat) (e : RangeEntry) (slot state : Nat) : State :=
  let a := (s.core core).rangeBase.toNat + 32 * e.index + 16
  s.foreignWrite 0 0 a (a / 128) (leBytes 8 (2 ^ 63 + e.owner * 2 ^ 32 + e.lease * 2 ^ 16 + state * 2 ^ 8 + slot))

/-- Is a line in a range? -/
def RangeEntry.covers (e : RangeEntry) (line : Nat) : Bool := decide (e.base ≤ 128 * line) && decide (128 * line < e.base + e.size)

/-- Steps 1 and 2 of the switching sequence (10 R239): the entry is SWITCHING, and every uncommitted chunk that has used a line of the range, of
whatever owner, is squashed. -/
def State.beginSwitch (s : State) (e : RangeEntry) (slot : Nat) : State :=
  let s := s.putRangeWord s.coreId e e.slot 2
  let s := s.squashWhere fun c => c.chunk.lineVa.any fun p => p.2.any e.covers
  s.mapCoh fun c => { c with switches := { core := s.coreId, index := e.index, slot := slot } :: c.switches }

/-- Is a copy still in flight to or from the range (10 R239)? -/
def State.switchWaits (s : State) (e : RangeEntry) : Bool := s.copiesFlow e.base e.size

/-- Steps 3 to 5 (10 R239): every tracked line is recalled, SWM copies are written back and dropped, the entry names its new slot, and the accesses that
waited run under it. -/
def State.endSwitch (s : State) (w : RangeSwitch) (e : RangeEntry) : State :=
  let s := s.flushAll e.base e.size evRecall
  let s := s.mapCoh fun c => { c with
    written := c.written.filter fun l => !e.covers l
    switches := c.switches.filter fun x => !(x.core == w.core && x.index == w.index) }
  (s.putRangeWord w.core e w.slot (if s.kindOf w.slot = kindSwm then 1 else 0)).releaseHomes.wakeRetries

/-- A switch under way ends once nothing is in flight to its range; an entry that lysa has removed has nothing left to switch. -/
def State.switched (s : State) (w : RangeSwitch) : State :=
  match s.rangeEntry w.core w.index with
  | some e => if s.switchWaits e then s else s.endSwitch w e
  | none => (s.mapCoh fun c => { c with switches := c.switches.filter (· != w) }).releaseHomes

/-- The switching sequence where nothing is in flight (10 R239). -/
def State.switchRange (s : State) (e : RangeEntry) (slot : Nat) : State :=
  (s.beginSwitch e slot).endSwitch { core := s.coreId, index := e.index, slot := slot } e

/-- REGSW (10 R242): it waits while copies are in flight to the range, and returns 0 once the range has switched. -/
def execRegsw (rd rs1 rs2 : Reg) (la : BitVec 4) (s : State) : Host.Outcome State Fault Refusal :=
  match (do
    requireSupervisor
    let i := bitsOf (← rdReg rs1) 0 8
    let n := bitsOf (← rdReg rs2) 0 4
    endChunk
    let s ← get
    match s.rangeEntry s.coreId i with
    | none =>
      wrReg rd 1
      return none
    | some e =>
      if e.state = 2 then
        wrReg rd 2
        return none
      else if (getT none s.slots n).isNone then
        wrReg rd 4
        return none
      else if (s.kindOf n == kindSwm) == (s.kindOf e.slot == kindSwm) then
        wrReg rd 3
        return none
      else if s.switchWaits e then
        modify fun s => s.beginSwitch e n
        return some i
      else
        modify fun s => s.switchRange e n
        wrReg rd 0
        return none : M (Option Nat)) s with
  | .ok (none, t) => complete (.regsw rd rs1 rs2 la) (fun _ => retireHanded 4 la (.reg rd) t) s
  | .ok (some i, t) => .next (t.block { kind := .rangeSwitch, ins := some (.regsw rd rs1 rs2 la), rd := rd, a := i })
  | .error e => complete (.regsw rd rs1 rs2 la) (fun _ => .error e) s

/-- The code with which PLOAD refuses a slot: 3 one of the fixed slots, 2 one that a range uses (10 R243). -/
def State.ploadRefused (s : State) (n : Nat) : Option Nat :=
  if n ≤ 6 then some 3
  else if (List.range 256).any fun i => ((s.rangeEntry s.coreId i).map (·.slot)) == some n then some 2
  else none

/-- PLOAD (10 R243). -/
def execPload (rd rs1 rs2 : Reg) (la : BitVec 4) (s : State) : Host.Outcome State Fault Refusal :=
  complete (.pload rd rs1 rs2 la) (do
    requireSupervisor
    let a ← rdReg rs1
    let n := bitsOf (← rdReg rs2) 0 4
    endChunk
    if a.toNat % 64 ≠ 0 then raise causeMisalign a.toNat
    let s ← get
    match s.ploadRefused n with
    | some code => wrReg rd (BitVec.ofNat 64 code)
    | none =>
      let img ← readWords 272 a.toNat
      let (rule, st, ev) := checkTable img
      if rule ≠ 0 then wrReg rd (BitVec.ofNat 64 (1 + rule * 2 ^ 8 + st * 2 ^ 16 + ev * 2 ^ 20))
      else
        modify fun s => { s with slots := setT none s.slots n (some (tableOfImage img)) }
        wrReg rd 0
    retireHanded 4 la (.reg rd)) s

/-! ### Steps of a home (10 R233, R234) -/

/-- GETS: a die asks for a read copy (10 R233). -/
def execGets (core line : Nat) (s : State) : Host.Outcome State Fault Refusal := .next (s.homeEvent evGets line core)

/-- GETM: a die asks for ownership and data (10 R233). -/
def execGetm (core line : Nat) (s : State) : Host.Outcome State Fault Refusal := .next (s.homeEvent evGetm line core)

/-- UPGRADE: a die that holds the line asks for ownership (10 R233). -/
def execUpgrade (core line : Nat) (s : State) : Host.Outcome State Fault Refusal :=
  .next (if (getT [] s.coh.holders line).any (fun k => dieOf k == dieOf core) then s.homeEvent evUpgrade line core else s)

/-- PUTS: a die drops its last clean copy (10 R227, R233). -/
def execPuts (core line : Nat) (s : State) : Host.Outcome State Fault Refusal :=
  let held := getT [] s.coh.holders line
  .next (if held.any (fun k => dieOf k == dieOf core) ∧ !s.dirtyIn core line then
    (s.mapCoh fun c => c.dropDie line (dieOf core)).homeEvent evPuts line core
  else s)

/-- PUTM: an owner die writes back dirty data (10 R227, R233). -/
def execPutm (core line : Nat) (s : State) : Host.Outcome State Fault Refusal :=
  let held := getT [] s.coh.holders line
  .next (if held.any (fun k => dieOf k == dieOf core) ∧ s.dirtyIn core line then
    (s.mapCoh fun c => (c.dropDie line (dieOf core)).cleaned line).homeEvent evPutm line core
  else s)

/-- ATOMIC: an atomic reaches the home (10 R233). -/
def execAtomic (core line : Nat) (s : State) : Host.Outcome State Fault Refusal := .next (s.homeEvent evAtomic line core)

/-- WRITE: a committed write reaches the home without an owned copy (10 R233). -/
def execWrite (core line : Nat) (s : State) : Host.Outcome State Fault Refusal := .next (s.homeEvent evWrite line core)

/-- An event the home raises itself, for the owner whose line it is. -/
def State.takeBack (s : State) (ev line : Nat) : State := s.homeEvent ev line (s.lineCore line)

/-- DIR_EVICT: the home recalls a line whose directory entry is evicted (10 R227). -/
def execDirEvict (line : Nat) (s : State) : Host.Outcome State Fault Refusal :=
  .next (if (getT none s.coh.dir line).isSome then s.takeBack evDirEvict line else s)

/-- RECALL: a line is recalled from every die (10 R233). -/
def execRecall (line : Nat) (s : State) : Host.Outcome State Fault Refusal := .next (s.takeBack evRecall line)

/-- FLUSH: the home flushes a line for a page or range flush (10 R233); its forward-tag mark is cleared (22 R389). -/
def execFlush (line : Nat) (s : State) : Host.Outcome State Fault Refusal :=
  .next ((s.takeBack evFlush line).clearMarks fun _ m => m.vline == line)

/-- RECLASSIFY: an access of a core to an address of a CLS range that conflicts with its page's class flushes the page and makes it SHARED (22 R384). -/
def execReclassify (access : PageAccess) (s : State) : Host.Outcome State Fault Refusal :=
  match s.walk access.va with
  | some l =>
    let conflict := (s.governs access.core (s.core access.core).owner access.va).1 == kindCls && l.conflicts access.core (if access.write then .store else .load)
    .next (if conflict then (s.reclassify l access.core (access.va / 128)).wakeRetries else s)
  | none => .next s

/-- FWDTAG_CONSUME: the consumer's read of a marked line has become final, and the slice drops the line unwritten (10 R229). `line` is
the physical line. -/
def execFwdtagConsume (core line : Nat) (s : State) : Host.Outcome State Fault Refusal :=
  match getT none s.coh.marks line with
  | some m => .next (s.consume core line m.vline)
  | none => .next s

/-! ### Steps of a die (10 R234, 13 R270) -/

/-- INV: the die drops its copies and answers (13 R270). -/
def execInv (die line : Nat) (s : State) : Host.Outcome State Fault Refusal := .next (s.takeFirst [msgInv] die line)

/-- FWD_S: the owner die sends the data to the requester and keeps a copy (10 R234). -/
def execFwdS (die line : Nat) (s : State) : Host.Outcome State Fault Refusal := .next (s.takeFirst [msgFwdS] die line)

/-- FWD_M: the owner die sends the data and gives up its copy (10 R234). -/
def execFwdM (die line : Nat) (s : State) : Host.Outcome State Fault Refusal := .next (s.takeFirst [msgFwdM] die line)

/-- UPDATE: a sharer applies committed write data (10 R234, R238). -/
def execUpdate (die line : Nat) (s : State) : Host.Outcome State Fault Refusal := .next (s.takeFirst [msgUpdate] die line)

/-- The RECALL message at a die: it writes back and drops the line (10 R236). -/
def execDieRecall (die line : Nat) (s : State) : Host.Outcome State Fault Refusal := .next (s.takeFirst [msgRecall] die line)

/-- ACK: an acknowledgement reaches the home or the requester (10 R234). -/
def execAck (die line : Nat) (s : State) : Host.Outcome State Fault Refusal := .next (s.takeFirst [msgAck, msgAnswer] die line)

/-- DATA: the line's data, from the home or from an owner, or a grant without data reach the requesting die (10 R234). -/
def execData (die line : Nat) (s : State) : Host.Outcome State Fault Refusal :=
  .next (s.takeFirst [msgData, msgGrant, msgOwnerData] die line)

/-- LEASE_EXPIRY: a leased read copy expires and its L1D drops it (10 R237); commits that waited for it may go on. -/
def execLeaseExpiry (core line : Nat) (s : State) : Host.Outcome State Fault Refusal :=
  match getT none s.coh.leases (core * 2 ^ 64 + line) with
  | some t =>
    .next (if t ≤ (s.die (dieOf core)).gct then ((s.mapCoh fun c => { c with
        leases := setT none c.leases (core * 2 ^ 64 + line) none
        l1 := dropTags c.l1 fun k l => k == core && l == line }).leasesOver line).wakeRetries
      else s)
  | none => .next s

end Sys2Proof.Machine
end

