-- ==== Sys2Proof/Machine/Illegal.lean ====
section
/-!
DEFINITION. Sys2Proof/Machine/Illegal.lean: encodings that are no instruction (02 R28, R29) and fetches that fault (02 R24, 22 R386).
-/

namespace Sys2Proof.Machine

/-- RESERVED_ENCODING: ILLEGAL, with the bits in CR_TVAL (02 R29). -/
def execReservedEncoding (bits : BitVec 32) (short : Bool) (s : State) : Host.Outcome State Fault Refusal :=
  let tval : Word := if short then (bits.setWidth 16).setWidth 64 else bits.setWidth 64
  .next (if s.ahead then s.endRunahead else s.trap .nop causeIllegal tval false 0 [])

/-- A fetch that faults in a run ahead: its page joins the batch, and the run ends (22 R386). -/
def State.aheadFetchFault (s : State) (cause va : Nat) : State :=
  match s.ctx.runahead with
  | none => s
  | some ra =>
    let ra := if cause = causePageFault ∧ va < 2 ^ 56 ∧ !s.recorded ra va then
      { ra with records := ra.records ++ [s.faultRecord va 2 false true] } else ra
    ({ s with ctx := { s.ctx with runahead := some ra } } : State).endRunahead

/-- INSTRUCTION_FETCH_FAULT: the trap is taken at the target; a PAGEFAULT forms a batch of one record of KIND 2 (22 R386). -/
def execInstructionFetchFault (cause va : Nat) (s : State) : Host.Outcome State Fault Refusal :=
  .next (if s.ahead then s.aheadFetchFault cause va else s.trap .nop cause (BitVec.ofNat 64 va) false 2 [])

end Sys2Proof.Machine
end

