-- ==== Sys2Proof/Machine/Page.lean ====
section
/-!
DEFINITION. Sys2Proof/Machine/Page.lean: frames, leaves, shoot-downs, migration, locked regions, fault batches, and the page instructions
of the MEMSYS major (22, 11 R247).
-/

namespace Sys2Proof.Machine

/-! ### Physical memory (01 R13, R14; 11 R244) -/

/-- A region that holds nothing lysa has given out. -/
def State.freeFrame (s : State) (base size : Nat) : Bool := !s.frames.any fun (_, b, n) => decide (b < base + size) && decide (base < b + n)

/-- The first address of a region, at or after what lysa has given out, where a frame of this size fits. -/
def State.lowestFree (s : State) (lo hi size : Nat) : Option Nat :=
  ((lo :: s.frames.map fun (_, b, n) => (b + n + size - 1) / size * size).filter fun a =>
    decide (lo ≤ a) && decide (a + size ≤ hi) && s.freeFrame a size).min?

/-- A free frame of one of some regions. Which one is lysa's choice. -/
def State.pickFrame (s : State) (regions : List (Nat × Nat)) (size : Nat) : Option Nat :=
  let n := Config.framePick s.fresh
  match regions[n % regions.length]? with
  | none => none
  | some (lo, hi) =>
    let a := lo + n / regions.length % (max 1 ((hi - lo) / size)) * size
    if a + size ≤ hi ∧ s.freeFrame a size then some a
    else (regions.filterMap fun (lo, hi) => s.lowestFree lo hi size).head?

/-- Where an owner's frames may lie: its pseudo-channels on the page's home die, or the tenants' half of the second tier. -/
def Owner.regions (o : Owner) (tier2 : Bool) (home : Nat) : List (Nat × Nat) :=
  if tier2 then [(tierBase, lysaBase)]
  else (List.range 512).filterMap fun g =>
    if o.pch.getD (g / 64) 0 / 2 ^ (g % 64) % 2 = 1 ∧ g / 128 = home then some (g * channelBytes, (g + 1) * channelBytes) else none

/-- Record a frame as given out to an owner, 0 for lysa. -/
def State.takeFrame (s : State) (owner base size : Nat) : State :=
  { s with frames := (owner, base, size) :: s.frames, fresh := s.fresh + 1 }

def State.freeFrames (s : State) (base size : Nat) : State :=
  { s with frames := s.frames.filter fun (_, b, n) => !(decide (base ≤ b) && decide (b + n ≤ base + size)) }

/-- An owner's next frame for a page: in its channels on the home die, or, where these are full, in its others (11 R247). -/
def State.allocFrame (s : State) (o : Owner) (tier2 : Bool) (home size : Nat) (zero : Bool) : Option (Nat × State) :=
  let places := o.regions tier2 home :: if tier2 then [] else [((List.range 4).map (o.regions false)).flatten]
  (places.findSome? fun rs => s.pickFrame rs size).map fun f =>
    let s := s.takeFrame o.id f size
    (f, if zero then s.zeroBytes f size else s)

/-- A piece of lysa's own memory, zeroed. -/
def State.allocLysa (s : State) (size : Nat) : Option (Nat × State) :=
  (s.lowestFree lysaBase tierEnd size).map fun f => (f, (s.takeFrame 0 f size).zeroBytes f size)

/-- A piece of the second tier that lysa keeps undo logs and spilled contexts in (01 R14); DESIGN CHOICE, log 200. -/
def State.reserveLysa (s : State) (size : Nat) : Option (Nat × State) := (s.lowestFree lysaBase tierEnd size).map fun f => (f, s.takeFrame 0 f size)

/-! ### Writing the table (22 R377) -/

/-- The level a page of this size is a leaf of. -/
def levelOf (size : Nat) : Nat := if size = 2 ^ 30 then 1 else if size = 2 ^ 21 then 2 else 3

/-- The address of the entry of a virtual address at a level; tables that are missing on the way are made. -/
def State.entryFor (s : State) (va level : Nat) : (fuel at' table : Nat) → Option (Nat × State)
  | 0, _, _ => none
  | n + 1, at', table =>
    let entry := table + 16 * (va / 2 ^ levelShift at' % 2 ^ levelBits at')
    if at' = level then some (entry, s)
    else
      let e := s.natAt entry 16
      if e % 8 = 1 then s.entryFor va level n (at' + 1) (e / 2 ^ 9 % 2 ^ 43 * 2 ^ 9)
      else if e % 2 = 1 then none
      else match s.allocLysa (16 * 2 ^ levelBits (at' + 1)) with
        | some (t, s) => (s.setNat entry 16 (t + 1)).entryFor va level n (at' + 1) t
        | none => none

/-- The 16 bytes of a leaf. -/
def Leaf.word (l : Leaf) : Nat :=
  5 + (if l.p then 2 else 0) + (if l.h then 2 ^ 12 else 0) + l.frame + l.home % 4 * 2 ^ 54 + l.rights % 8 * 2 ^ 80 + l.domain % 2 ^ 12 * 2 ^ 84
    + l.grights % 8 * 2 ^ 96 + l.gdom % 2 ^ 12 * 2 ^ 100 + l.pcore % 2 ^ 9 * 2 ^ 112 + l.cls % 8 * 2 ^ 121

/-- Write a leaf where the table has room for it. -/
def State.putLeaf (s : State) (l : Leaf) : Option State :=
  (s.entryFor l.va (levelOf l.size) 4 0 s.ptRoot).map fun (entry, s) => s.setNat entry 16 { l with entry := entry }.word

/-- Rewrite a leaf in place; a chunk that has used its entry is squashed (22 R377). -/
def State.rewriteLeaf (s : State) (l : Leaf) : State := (s.setNat l.entry 16 l.word).squashMeeting [l.entry / 128]

/-- The valid leaves that meet an extent, ascending: each walk goes on after the leaf it found, or after the page it missed. -/
def State.leavesFrom (s : State) (hi : Nat) : (fuel va : Nat) → List Leaf
  | 0, _ => []
  | n + 1, va =>
    if hi ≤ va then []
    else match s.walk va with
      | some l => l :: s.leavesFrom hi n (l.va + l.size)
      | none => s.leavesFrom hi n (va + 65536)

def State.leaves (s : State) (base size : Nat) : List Leaf := s.leavesFrom (base + size) (size / 65536 + 1) base

/-! ### Shoot-downs (22 R389) -/

/-- The 64 KiB pages of an extent. -/
def pagesOf (base size : Nat) : List Nat := (List.range (size / 65536)).map (base / 65536 + ·)

/-- The 64 KiB pieces of a locked region in the extents that a condition names become dropped (22 R382). -/
def LockedRegion.drop (r : LockedRegion) (hit : Nat → Nat → Bool) : LockedRegion :=
  { r with dropped := insertAll ((pagesOf r.base r.size).filter fun p => hit (p * 65536) 65536) r.dropped }

/-- The extents of the cached translations that meet an extent. -/
def State.cachedIn (s : State) (base size : Nat) : List (Nat × Nat) :=
  (((s.dies.flatMap fun p => p.2.tcache) ++ s.cores.flatMap fun p => p.2.plb).filterMap fun l =>
    if extentsMeet l.va l.size base size then some (l.va, l.size) else none).eraseDups

/-- Drop every translation that meets an extent, and squash the chunks that used one; with `locks` the locked regions lose what they held of the extent and of the
pages whose translations go. -/
def State.dropTranslations (s : State) (base size : Nat) (locks : Bool) : State :=
  let gone := s.cachedIn base size
  let hit := fun lo n => extentsMeet lo n base size || gone.any fun (a, k) => extentsMeet lo n a k
  let s : State := { s with
    generation := (s.generation + 1) % 2 ^ 32
    dies := s.dies.map fun (k, d) => (k, { d with tcache := d.tcache.filter fun l => !extentsMeet l.va l.size base size })
    cores := s.cores.map fun (k, c) => (k, { c with plb := c.plb.filter fun l => !extentsMeet l.va l.size base size })
    locked := if locks then s.locked.map fun r => r.drop hit else s.locked }
  s.squashWhere fun c => c.chunk.pages.any fun p => hit (p * 65536) 65536

/-- No cached copy of an extent remains, in an L1D or a slice, and its pins are dropped (22 R389). -/
def State.flushLines (s : State) (base size : Nat) : State :=
  (s.flushAll base size).mapCoh fun c => { c with l2 := dropL2 c.l2 fun l => decide (base ≤ 128 * l) && decide (128 * l < base + size) }

/-- A shoot-down of an extent; with FLUSH its copies in flight complete and no cached copy remains (22 R389). -/
def State.shoot (s : State) (base size : Nat) (flush : Bool) : State :=
  let s := if flush then s.drainCopies base size else s
  let s := s.dropTranslations base size true
  (if flush then s.flushLines base size else s).wakeRetries

/-- Is an extent one that SHOOT and the memory requests take (22 R395, 11 R247)? -/
def extentOk (base size : Nat) : Bool := base % 65536 == 0 && size % 65536 == 0 && size != 0 && decide (base + size ≤ 2 ^ 56)

/-- Must a shoot-down of an extent wait: for one, or a migration, under way that meets it (22 R395), or for accesses that have passed their checks, those of a
collective whose instance has not completed (14 R441)? -/
def State.shootWaits (s : State) (base size : Nat) : Bool :=
  s.blocks.any (fun b => extentsMeet b.base b.size base size) || s.allCtxs.any fun (_, _, c) => c.collectiveMeets base size

/-- The block that the executing context has asked for, which it has not seen the end of. -/
def State.myBlock (s : State) : Bool := s.blocks.any fun b => b.core == s.coreId && b.slot == s.cur.2

/-- An instruction that has blocked an extent waits until the copies in flight to or from it have completed. -/
def State.awaitBlock (s : State) (i : Instr) (rd : Reg) : State := s.block { kind := .pageBlock, ins := some i, rd := rd }

/-- The executing context blocks an extent (22 R389, R390). -/
def State.putBlock (s : State) (base size : Nat) (move : Option (Nat × Nat × Nat)) : State :=
  { s with blocks := s.blocks ++ [{ core := s.coreId, slot := s.cur.2, base := base, size := size, move := move }] }

/-- SHOOT (22 R395). Where copies are in flight, FLUSH drops the translations, blocks the extent and waits for them. -/
def execShoot (rd rs1 rs2 : Reg) (doFlush : Bool) (la : BitVec 4) (s : State) : Host.Outcome State Fault Refusal :=
  let i : Instr := .shoot rd rs1 rs2 doFlush la
  match (do
    requireSupervisor
    let b ← rdReg rs1
    let n ← rdReg rs2
    endChunk
    let s ← get
    if !extentOk b.toNat n.toNat then
      wrReg rd 1
      return false
    else if s.myBlock then return true
    else
      if s.shootWaits b.toNat n.toNat then waitFor .homeBlock
      if doFlush && s.copiesHold b.toNat n.toNat then
        modify fun s => (s.dropTranslations b.toNat n.toNat true).putBlock b.toNat n.toNat none
        return true
      else
        modify fun s => s.shoot b.toNat n.toNat doFlush
        wrReg rd 0
        return false : M Bool) s with
  | .ok (false, t) => complete i (fun _ => retireHanded 4 la (.reg rd) t) s
  | .ok (true, t) => .next (t.awaitBlock i rd)
  | .error e => complete i (fun _ => .error e) s

/-! ### Migration (22 R390, R394) -/

/-- What names a byte of a moved extent by its location names its new place: barrier waits and the undo logs. -/
def State.moveNames (s : State) (src dst size : Nat) : State :=
  let inside := fun loc => decide (src ≤ loc) && decide (loc < src + size)
  let moved := fun loc => if inside loc then loc - src + dst else loc
  let s := s.mapCtxs fun _ _ c => if c.life == .waiting && c.wait.kind == .bwait then { c with wait := { c.wait with a := moved c.wait.a } } else c
  { s with domains := s.domains.map fun d => { d with undo := d.undo.map fun u => { u with line := moved (128 * u.line) / 128 } } }

/-- Copy an extent's bytes to its new frame. -/
def State.moveBytes (s : State) (src dst size : Nat) : State :=
  let bytes := s.mem.filter fun p => decide (src ≤ p.1) && decide (p.1 < src + size)
  bytes.foldl (fun s p => s.setByte (p.1 - src + dst) p.2) (s.zeroBytes dst size)

/-- The lines of an extent that are pinned in their slices. -/
def State.pinnedIn (s : State) (base size : Nat) : List Nat :=
  s.coh.l2.flatMap fun p => p.2.ways.filterMap fun w => w.bind fun w =>
    if w.pinned ∧ base ≤ 128 * w.line ∧ 128 * w.line < base + size then some w.line else none

/-- The translations of an extent lie in their homes' caches, which keep them while a region that holds them is locked (22 R382). -/
def State.lockLeaves (s : State) (base size : Nat) : State := (s.leaves base size).foldl (fun s l => s.fillTcache l.home l) s

/-- Steps 3 to 5 of the migration of a page (22 R390): every line is recalled, the bytes move, the leaf takes its new frame and home and the class it had, and its
translations are dropped; locked ones move with it. -/
def State.moveLeaf (s : State) (l : Leaf) (frame home : Nat) : State :=
  let s := s.squashWhere fun c => c.chunk.pages.any fun p => l.covers (p * 65536)
  let s := s.flushAll l.va l.size evRecall
  let pins := s.pinnedIn l.va l.size
  let s := s.mapCoh fun c => { c with l2 := dropL2 c.l2 fun line => l.covers (128 * line) }
  let inside := fun line => decide (l.frame ≤ 128 * line ∧ 128 * line < l.frame + l.size)
  let s := (s.dropSwm fun line _ => inside line).clearMarks fun line _ => inside line
  let s := (s.moveBytes l.frame frame l.size).moveNames l.frame frame l.size
  let s := { s with frames := s.frames.map fun (o, b, n) => if b = l.frame ∧ n = l.size then (o, frame, n) else (o, b, n) }
  let s := pins.foldl (fun s line => s.fillL2 line true) (s.rewriteLeaf { l with frame := frame, home := home })
  let s := s.dropTranslations l.va l.size false
  if s.locked.any (fun r => extentsMeet r.base r.size l.va l.size) then s.lockLeaves l.va l.size else s

/-- The migration of a page where no copy holds it (22 R390): copies in flight complete first. -/
def State.migrate (s : State) (l : Leaf) (frame home : Nat) : State := ((s.drainCopies l.va l.size).moveLeaf l frame home).wakeRetries

/-- MIGRATE (22 R394). Where copies are in flight to or from the page, its class is MIGRATING and it is blocked until they have completed (R390). -/
def execMigrate (rd rs1 rs2 : Reg) (la : BitVec 4) (s : State) : Host.Outcome State Fault Refusal :=
  let i : Instr := .migrate rd rs1 rs2 la
  match (do
    requireSupervisor
    let v ← rdReg rs1
    let f ← rdReg rs2
    endChunk
    let s ← get
    let frame := bitsOf f 0 52
    let fails := fun (code : Word) => (do
      wrReg rd code
      return false : M Bool)
    if s.myBlock then return true
    else match s.walk v.toNat with
    | none => fails 1
    | some l =>
      if !l.p ∨ v.toNat % l.size ≠ 0 then fails 1
      else if l.cls = clsMigrating ∨ l.cls = clsPoisoned then fails 2
      else if l.size = 2 ^ 30 then fails 3
      else if bitsOf f 56 8 ≠ 0 ∨ bitsOf f 52 2 ≠ 0 ∨ frame % l.size ≠ 0 ∨ (frame < hbmBytes ∧ hbmDie frame ≠ bitsOf f 54 2) then fails 4
      else
        if s.blocks.any (fun b => extentsMeet b.base b.size l.va l.size) then waitFor .homeBlock
        if s.copiesHold l.va l.size then
          modify fun s => (s.setClass l clsMigrating).putBlock l.va l.size (some (frame, bitsOf f 54 2, l.cls))
          return true
        else
          modify fun s => s.migrate l frame (bitsOf f 54 2)
          wrReg rd 0
          return false : M Bool) s with
  | .ok (false, t) => complete i (fun _ => retireHanded 4 la (.reg rd) t) s
  | .ok (true, t) => .next (t.awaitBlock i rd)
  | .error e => complete i (fun _ => .error e) s

/-- What a block was for is done, once no copy is in flight to or from its extent: the flush of a shoot-down or the move of a page (22 R389, R390). -/
def State.endBlock (s : State) (b : PageBlock) : State :=
  let s := s.drainCopies b.base b.size
  match b.move with
  | none => s.flushLines b.base b.size
  | some (frame, home, cls) =>
    match s.walk b.base with
    | some l => s.moveLeaf { l with cls := if l.cls = clsMigrating then cls else l.cls } frame home
    | none => s

/-- The SHOOT or MIGRATE that waited for its block returns 0. -/
def State.endBlocker (s : State) (core slot : Nat) : State := (s.finishWait core slot 0).inSlot core slot State.takeNotice

/-- A block ends: its work is done, the instruction that asked for it returns 0, and the accesses that its homes have queued go on in the order of arrival
(22 R389, R390). -/
def pageUnblocked (core slot : Nat) (s : State) : Host.Outcome State Fault Refusal :=
  match s.blocks.find? fun b => b.core == core && b.slot == slot with
  | none => .next s
  | some b =>
    if s.copiesHold b.base b.size then .next s
    else
      let t : State := { s.endBlock b with blocks := (s.endBlock b).blocks.erase b }
      let c := t.ctxAt core slot
      let t := if c.life = .waiting ∧ c.wait.kind = .pageBlock then t.endBlocker core slot else t
      .next t.releaseHomes.wakeRetries

/-- A context that waited for its block waits on, or returns 0 where the block has ended meanwhile. -/
def State.resumeBlock (s : State) (core slot : Nat) : State :=
  if s.blocks.any fun b => b.core == core && b.slot == slot then s.mapCtxAt core slot fun c => { c with life := .waiting } else s.endBlocker core slot

/-! ### Locked regions (22 R382, R392) -/

/-- Locked translations of an owner at a home die. -/
def State.lockedAt (s : State) (owner die : Nat) : Nat :=
  ((s.locked.filter (·.owner == owner)).map fun r => ((s.leaves r.base r.size).filter fun l =>
    l.home == die && !r.dropped.contains (max l.va r.base / 65536)).length).sum

/-- The L2 sets in which the lines of an extent lie. -/
def State.setsOf (s : State) (base size : Nat) : List Nat :=
  (List.range (size / 128)).filterMap fun i => (s.l2Place (base / 128 + i)).map (·.2)

/-- Lines of an owner's locked data that a set holds pinned. -/
def State.pinsIn (s : State) (owner key : Nat) : Nat :=
  ((getT L2Set.empty s.coh.l2 key).ways.filter fun w => w.any fun w => w.pinned && s.locked.any fun r =>
    r.owner == owner && r.data && decide (r.base ≤ 128 * w.line) && decide (128 * w.line < r.base + r.size)).length

/-- Would pinning these lines put more than 8 of the owner's into a set? -/
def State.overPinned (s : State) (owner base size : Nat) : Bool :=
  let new := s.setsOf base size
  new.any fun k => decide (8 < new.count k + s.pinsIn owner k)

/-- The pages of an extent, ascending: each one's own address, and its first address in the extent (22 R385). -/
def State.pagesIn (s : State) (hi : Nat) : (fuel va : Nat) → List (Nat × Nat)
  | 0, _ => []
  | n + 1, va => if hi ≤ va then [] else let p := s.pageAt va; (p.1, va) :: s.pagesIn hi n (p.1 + p.2)

/-- What XLPIN's PLB steps find: the first page that traps, and the other pages that are not present. -/
def State.pinFaults (s : State) (base size : Nat) : Option (Nat × Nat × List Nat) :=
  let bad := (s.pagesIn (base + size) (size / 65536) base).filterMap fun (page, va) =>
    match placeOf va 1 .load s with
    | .error (.trap cause _ _) => some (cause, page)
    | _ => none
  match bad with
  | [] => none
  | (cause, va) :: rest => some (cause, va, (rest.filter (·.1 == causePageFault)).map (·.2))

/-- The status of an XLPIN that locks or refuses (22 R392). -/
def State.pinStatus (s : State) (owner base size : Nat) (pinData : Bool) : Nat × State :=
  let o := (s.owner? owner).getD { id := owner, domain := 0, state := .created, seed := 0, placementSeed := 0, clusters := 0, slices := [], sfWays := 0
                                   dirWays := 0, pch := [], kmax := [], cred := 0, flogBase := 0, knumNext := 0, windows := [], driver := none, retire := none }
  let quota := 128 * popcount o.dirWays
  if (List.range 4).any fun d => decide (quota < s.lockedAt owner d + ((s.leaves base size).filter (·.home == d)).length)
      && ((s.leaves base size).any (·.home == d)) then (2, s)
  else if pinData && s.overPinned owner base size then (3, s)
  else
    let s : State := { s with locked := s.locked ++ [{ owner := owner, base := base, size := size, data := pinData, dropped := [] }] }
    let s := s.lockLeaves base size
    (0, if pinData then (List.range (size / 128)).foldl (fun s i => s.fillL2 (base / 128 + i) true) s else s)

/-- XLPIN (22 R392). A page that is not present starts a batch of every such page of the region (22 R386). -/
def execXlpin (rd rs1 rs2 : Reg) (pinData : Bool) (la : BitVec 4) (s : State) : Host.Outcome State Fault Refusal :=
  let i : Instr := .xlpin rd rs1 rs2 pinData la
  match (do
    let b ← rdReg rs1
    let n ← rdReg rs2
    endChunk
    let s ← get
    let base := b.toNat
    let size := n.toNat
    let mine := s.locked.filter (·.owner == s.ctx.owner)
    let bad := !extentOk base size || decide (tcmWindow < base + size)
      || mine.any fun r => decide (r.base < base + size) && decide (base < r.base + r.size)
    if bad then
      wrReg rd 4
      return none
    else if 16 ≤ mine.length then
      wrReg rd 1
      return none
    else match s.pinFaults base size with
      | some f => return some f
      | none =>
        let (st, t) := s.pinStatus s.ctx.owner base size pinData
        set t
        wrReg rd (BitVec.ofNat 64 st)
        return none : M (Option (Nat × Nat × List Nat))) s with
  | .ok (none, t) => complete i (fun _ => retireHanded 4 la (.reg rd) t) s
  | .ok (some (cause, va, more), t) =>
    .next (if t.ahead then t.endRunahead else t.trap i cause (BitVec.ofNat 64 va) false (if cause = causePageFault then 6 else 0) more)
  | .error e => complete i (fun _ => .error e) s

/-- Lines of the regions `gone` lose their pins in the L2 slices (22 R392). -/
def State.unpinLines (s : State) (gone : List LockedRegion) : State :=
  let held := fun (w : L2Way) => gone.any fun r => decide (r.base ≤ 128 * w.line) && decide (128 * w.line < r.base + r.size)
  let l2 := mapL2 s.coh.l2 fun w => some (if held w then { w with pinned := false } else w)
  { s with coh := { s.coh with l2 := l2 } }

def State.withLocked (s : State) (regions : List LockedRegion) : State := { s with locked := regions }

/-- XLUNPIN (22 R392). -/
def execXlunpin (rd rs1 : Reg) (la : BitVec 4) (s : State) : Host.Outcome State Fault Refusal :=
  complete (.xlunpin rd rs1 la) (do
    let b ← rdReg rs1
    endChunk
    let s ← get
    let mine := fun (r : LockedRegion) => r.owner == s.ctx.owner && r.base == b.toNat
    if s.locked.any mine then
      modify fun s => (s.unpinLines ((s.locked.filter mine).filter (·.data))).withLocked (s.locked.filter fun r => !mine r)
      wrReg rd 0
    else wrReg rd 1
    retireHanded 4 la (.reg rd)) s

/-- PCLASS (22 R393). -/
def execPclass (rd rs1 : Reg) (sel : BitVec 3) (la : BitVec 4) (s : State) : Host.Outcome State Fault Refusal :=
  complete (.pclass rd rs1 sel la) (do
    let a ← rdReg rs1
    endChunk
    let s ← get
    let va := a.toNat
    match (if 2 ^ 56 ≤ va ∨ inWindowRegion va then none else s.walk va) with
    | none => wrReg rd 0x30
    | some l =>
      if l.cls = clsMigrating ∨ l.cls = clsPoisoned then wrReg rd 0x30
      else
        let st := if s.ctx.domain ≠ l.domain then 2 else if (s.governing va).1 ≠ kindCls then 1 else 0
        if st = 0 then
          if sel = 1 then modify fun s => (s.flushAll l.va l.size).setClass l clsPrivate (some s.coreId)
          if sel = 2 then modify fun s => (s.flushAll l.va l.size).setClass l clsReadonly
          if sel = 3 then modify fun s => s.setClass l clsShared
        wrReg rd (BitVec.ofNat 64 (l.cls + st * 16))
    retireHanded 4 la (.reg rd)) s

/-! ### Fault batches (22 R387, R388, 11 R248) -/

def FaultRecord.bytes (r : FaultRecord) (batch owner : Nat) : List Byte :=
  leBytes 8 r.va ++ leBytes 4 batch ++ leBytes 4 r.knum ++ leBytes 2 r.who ++ leBytes 1 r.kind ++ leBytes 1 r.flags ++ leBytes 2 owner
    ++ leBytes 2 0 ++ leBytes 8 r.aux

def State.batch? (s : State) (owner id : Nat) : Option Batch := s.batches.find? fun b => b.owner == owner && b.id == id && !b.ended

def State.mapBatch (s : State) (owner id : Nat) (f : Batch → Batch) : State :=
  { s with batches := s.batches.map fun b => if b.owner = owner ∧ b.id = id ∧ !b.ended then f b else b }

/-- TAIL passes the batches of an owner that have ended, in log order (11 R248). -/
def State.passTail (s : State) (owner : Nat) : (fuel : Nat) → State
  | 0 => s
  | n + 1 =>
    match s.batches.find? (fun b => b.owner == owner && b.written), s.owner? owner with
    | some b, some o =>
      if b.ended then
        let s := s.foreignWrite 0 0 (o.flogBase + 8) (o.flogBase / 128) (leBytes 4 (s.natAt (o.flogBase + 8) 4 + b.records.length))
        State.passTail { s with batches := s.batches.erase b } owner n
      else s
    | _, _ => s

/-- FAULT_BATCH_WRITE: a batch is written whole once the log has room, also one that has been replayed before; until then it waits, and WAITS counts it
(22 R387). -/
def execFaultBatchWrite (owner batch : Nat) (s : State) : Host.Outcome State Fault Refusal :=
  match s.batches.find? fun b => b.owner == owner && b.id == batch && !b.written, s.owner? owner with
  | some b, some o =>
      let log := o.flogBase
      let size := s.natAt log 4
      let head := s.natAt (log + 4) 4
      let used := (head + 2 ^ 32 - s.natAt (log + 8) 4) % 2 ^ 32
      if used + b.records.length ≤ size then
        let s := b.records.zipIdx.foldl (fun s (r, i) =>
          let at' := log + 64 + 32 * ((head + i) % 2 ^ 32 % size)
          s.foreignWrite 0 0 at' (at' / 128) (r.bytes batch owner)) s
        let s := s.foreignWrite 0 0 (log + 4) (log / 128) (leBytes 4 (head + b.records.length))
        .next (State.passTail { s with batches := (s.batches.erase b) ++ [{ b with written := true, tick := (s.die 0).gct }] } owner s.batches.length)
      else if b.counted then .next s
      else
        let s := s.foreignWrite 0 0 (log + 12) (log / 128) (leBytes 4 (s.natAt (log + 12) 4 + 1))
        .next { s with batches := s.batches.map fun x => if x = b then { b with counted := true } else x }
  | _, _ => .next s

/-- Does a context wait on a batch of its owner? -/
def Context.waitsOn (c : Context) (owner id : Nat) : Bool :=
  (c.life == .parked || c.life == .spilled) && c.wait.kind == .faultBatch && c.wait.a == id && c.owner == owner

/-- A spilled context's kernel learns that its batch has ended badly: the context is FAULTED when it is filled again. -/
def State.releaseSpilled (s : State) (owner key id : Nat) (bad : Bool) : State :=
  { s with kernels := s.kernels.map fun (n, k) => (n, k.map fun k => { k with spill := { k.spill with
      ctxs := k.spill.ctxs.map fun (a, c) => (a, if a = key ∧ c.waitsOn owner id then { c with wait := { c.wait with b := if bad then 1 else 0 } } else c) } }) }

/-- One context that waits on a batch goes on at its CR_EPC, or becomes FAULTED (22 R388). -/
def State.releaseCtx (s : State) (owner core slot id : Nat) (bad : Bool) : State :=
  let c := s.ctxAt core slot
  if c.waitsOn owner id then
    if bad then s.inSlot core slot State.goFaulted
    else s.setCtxAt core slot { c with life := if c.preempted then .parked else .ready, wait := {} }
  else s.releaseSpilled owner (ctxKey core slot) id bad

/-- One transfer's chunks that wait on a batch go on, or the transfer faults (22 R388, 18 R358). -/
def State.releaseTransfer (s : State) (core tid id : Nat) (bad : Bool) (va : Nat) : State :=
  match s.transfer? core tid with
  | none => s
  | some t =>
    match t.waiting.find? (·.2 == id) with
    | none => s
    | some (chunk, _) =>
      let s := s.mapTransfer core tid fun t => { t with waiting := t.waiting.filter (·.2 != id) }
      if bad then s.faultTransfer core tid chunk causePageFault va else s

/-- Who still waits on a batch. -/
def State.waiters (s : State) (b : Batch) : List (Nat × Nat) × List (Nat × Nat) :=
  (b.ctxs.filter fun (core, slot) => (s.ctxAt core slot).waitsOn b.owner b.id
      || s.allKernels.any fun k => k.spill.ctxs.any fun (a, c) => a == ctxKey core slot && c.waitsOn b.owner b.id,
   b.transfers.filter fun (core, tid) => ((s.transfer? core tid).map fun t => t.live && t.waiting.any (·.2 == b.id)).getD false)

/-- REPLAY's effect: how many were released, none if nothing waits (22 R388, R394). -/
def State.replayBatch (s : State) (owner id : Nat) (bad : Bool) : Option (Nat × State) :=
  match s.batch? owner id with
  | none => none
  | some b =>
    let (cs, ts) := s.waiters b
    let n := cs.length + ts.length
    if n = 0 then none
    else
      let s := s.mapBatch owner id fun b => { b with ended := true }
      let s := cs.foldl (fun s (core, slot) => s.releaseCtx owner core slot id bad) s
      let s := ts.foldl (fun s (core, tid) => s.releaseTransfer core tid id bad ((b.records.head?.map (·.va)).getD 0)) s
      some (n, (s.passTail owner s.batches.length).endKernels)

/-- REPLAY (22 R394). -/
def execReplay (rd rs1 rs2 : Reg) (la : BitVec 4) (s : State) : Host.Outcome State Fault Refusal :=
  complete (.replay rd rs1 rs2 la) (do
    requireSupervisor
    let g := bitsOf (← rdReg rs1) 0 32
    let w ← rdReg rs2
    endChunk
    match (← get).replayBatch (bitsOf w 0 16) g (bitsOf w 16 1 == 1) with
    | none => wrReg rd (BitVec.allOnes 64)
    | some (n, t) =>
      set t
      wrReg rd (BitVec.ofNat 64 n)
    retireHanded 4 la (.reg rd)) s

/-- The owner whose frames a page takes: the one of the page's own domain (10 R223). -/
def State.pageOwner (s : State) (l : Leaf) : Option Owner := (s.owners.filterMap (·.2)).find? fun o => o.domain == l.domain && o.state != .retired

/-- Give a mapped page its frame, as lysa or the host's POPULATE does. -/
def State.present (s : State) (l : Leaf) (tier2 zero : Bool) : Option State :=
  if l.p then some s
  else (s.pageOwner l).bind fun o => (s.allocFrame o tier2 l.home l.size zero).map fun (f, s) =>
    s.rewriteLeaf { l with frame := f, p := true }

/-- Serve one record that the host driver does not: a page with a valid leaf gets its frame. -/
def State.serveRecord (s : State) (r : FaultRecord) : State :=
  match s.walk r.va with
  | some l => if r.flags / 2 % 2 = 1 ∨ l.cls = clsPoisoned then s else (s.present l false true).getD s
  | none => s

/-- Can the page of a record be served (22 R386)? -/
def State.servable (s : State) (r : FaultRecord) : Bool :=
  match s.walk r.va with
  | some l => l.cls != clsPoisoned && (l.p || r.flags / 2 % 2 == 1)
  | none => false

/-- The message that forwards a batch (11 R248). -/
def Batch.message (b : Batch) : List Byte :=
  leBytes 1 0x85 ++ leBytes 1 b.records.length ++ leBytes 2 b.owner ++ leBytes 4 b.id ++ leBytes 8 b.tick ++ List.replicate 48 0
    ++ (b.records.map fun r => r.bytes b.id b.owner).flatten

/-- FAULT_BATCH_SERVICE: lysa serves the records that are its own, then forwards a batch that has others, or ends it (22 R386 to R388,
11 R248). -/
def execFaultBatchService (owner batch : Nat) (s : State) : Host.Outcome State Fault Refusal :=
  match s.batch? owner batch with
  | none => .next s
  | some b =>
    if !b.written ∨ b.forwarded then .next s
    else
      let s := b.records.foldl State.serveRecord s
      let finish := fun (bad : Bool) => ((s.replayBatch owner batch bad).map (·.2)).getD s
      if !((b.records.head?.map s.servable).getD false) then .next (finish true)
      else if b.records.any fun r => r.flags / 2 % 2 == 1 then
        match (s.owner? owner).bind (·.driver) with
        | none => .next (finish true)
        | some ep =>
          .next (({ s.askUe owner with outputs := (s.askUe owner).outputs ++ [{ endpoint := ep, bytes := b.message, domain := 0, held := false }] } : State).mapBatch owner batch
            fun b => { b with forwarded := true })
      else .next (finish false)

end Sys2Proof.Machine
end

