-- ==== Sys2Proof/Machine/Own.lean ====
section
/-!
DEFINITION. Sys2Proof/Machine/Own.lean: the OWN major and the shared arbiters' rounds (11 R252 to R266).
-/

namespace Sys2Proof.Machine

/-! ### Arbitration rounds (11 R253) -/

/-- The oldest pending request of each owner at an arbiter of a class; an instance has the class of its structure (11 R252). -/
def roundOf (cls arbiter : Nat) (rs : List ArbRequest) : List ArbRequest :=
  if instanceClass arbiter ≠ some cls then [] else rs.foldl (fun l r => if r.cls = cls ∧ r.arbiter = arbiter ∧ !l.any (·.owner == r.owner) then l ++ [r] else l) []

/-- Put a contender into the order of service: descending ticket, equal tickets to the lower owner. -/
def serveInsert (x : Nat × ArbRequest) : List (Nat × ArbRequest) → List (Nat × ArbRequest)
  | [] => [x]
  | y :: rest => if y.1 < x.1 ∨ (x.1 = y.1 ∧ x.2.owner < y.2.owner) then x :: y :: rest else y :: serveInsert x rest

/-- ARBITRATION_ROUND: a free arbiter forms a round, every contender's stream steps once, and the round is served by ticket (11 R253). -/
def execArbitrationRound (cls arbiter : Nat) (s : State) : Host.Outcome State Fault Refusal :=
  match roundOf cls arbiter s.arbRequests with
  | [] => .next s
  | round =>
    let stepped := round.map fun r => ((xorshift (BitVec.ofNat 32 (s.stream cls arbiter r.owner))).toNat, r)
    let order := (stepped.map fun (v, r) => (v / 2 ^ 16, r)).foldl (fun l x => serveInsert x l) []
    .next { s with
      streams := stepped.foldl (fun t (v, r) => setT 0 t (streamKey cls arbiter r.owner) v) s.streams
      arbRequests := round.foldl (fun l r => l.erase r) s.arbRequests
      arbServed := order.map (·.2) }

/-! ### RESEED (11 R258 to R263) -/

/-- Write back and invalidate the L1Ds of some cores; their eviction counts stay. The home hears of every line whose last copy in a die this was (10 R227). -/
def State.flushCores (s : State) (cores : List Nat) : State :=
  let s := s.coh.swm.foldl (fun s (k, l) => match l with
    | some l => if cores.contains l.at_ then s.swmWriteLine (k / 2 ^ 64) (k % 2 ^ 64) l else s
    | none => s) s
  let mine := s.coh.holders.flatMap fun p => (p.2.filter cores.contains).map fun k => (k, p.1)
  let s := mine.foldl (fun s (k, line) => s.dropVictim k line) s
  (s.mapCoh fun h => { h with
    l1 := dropTags h.l1 fun k _ => cores.contains k
    swm := h.swm.filter fun p => !p.2.any fun l => cores.contains l.at_ }).dropLeases fun k _ => cores.contains k

/-- The word a pass reports: lines moved, victims evicted and pins dropped, each saturating; an L1D has no pins. -/
def reseedWord (moved victims : Nat) (pins : Nat := 0) : Word :=
  BitVec.ofNat 64 (min moved (2 ^ 32 - 1) + min victims (2 ^ 16 - 1) * 2 ^ 32 + min pins (2 ^ 8 - 1) * 2 ^ 48)

/-- Relocate the L1Ds of some cores under a new seed, one after another (11 R259); victims are written back. -/
def State.relocate (s : State) (kseed : Word) (owner : Nat) : List Nat → (moved victims : Nat) → Word × State
  | [], m, v => (reseedWord m v, s)
  | c :: cs, m, v =>
    let p := relocateCore s.coh.l1 c kseed owner
    let s := s.mapCoh fun h => { h with l1 := p.sets }
    State.relocate (p.victims.foldl (fun s l => s.evictL1 c l) s) kseed owner cs (m + p.moved) (v + p.victims.length)

/-- The user form: the kernel's seed on every core it holds. -/
def State.reseedKernel (s : State) (seed : Word) (remap : Bool) : Word × State :=
  let cores := if s.ctx.knum = 0 then [s.coreId] else s.heldCores s.ctx.owner s.ctx.knum
  let s := cores.foldl (fun s c => s.mapCore c fun x => { x with k := { x.k with kseed := seed } }) s
  let s := s.mapKernel s.ctx.owner s.ctx.knum fun k => { k with kseed := seed }
  let s := s.restartKernelStreams s.ctx.owner s.ctx.knum
  if remap then s.relocate seed s.ctx.owner cores 0 0
  else (0, (s.flushCores cores).mapCoh fun h => { h with l1 := clearTags h.l1 cores })

/-- The OWNER form begins: the owner is RESEEDING, with both its seeds new, and its streams restart (11 R258, R263). -/
def State.beginReseed (s : State) (o : Owner) (seed : Word) (remap : Bool) : State :=
  (s.putOwner { o with seed := seed, placementSeed := seed, state := .reseeding, remap := remap }).restartStreams o.id

/-- It ends: the lines of the owner's slices have moved, or are written back and invalidated, and the owner is ACTIVE. -/
def State.endReseed (s : State) (o : Owner) : Word × State :=
  let s := s.putOwner { o with state := .active, remap := false }
  if o.remap then
    let p := s.coh.relocateL2 o
    (reseedWord p.moved p.victims p.pins, s.mapCoh fun _ => p.coh)
  else (0, s.mapCoh fun c => c.flushL2 o)

/-- The whole OWNER form where no slice of the owner holds a line. -/
def State.reseedOwner (s : State) (o : Owner) (seed : Word) (remap : Bool) : Word × State :=
  (s.beginReseed o seed remap).endReseed { o with seed := seed, placementSeed := seed, state := .reseeding, remap := remap }

/-- Has a pass over an owner's slices anything to visit? -/
def State.slicesHold (s : State) (o : Owner) : Bool := s.coh.l2.any fun p => o.ownsSet p.1

/-- An owner's pass ends (11 R258, R260): the RESEED that waits for it returns its word. During the pass a line is looked up by both placements, so that one is
never missed or filled twice, and the pass moves all lines at its end. -/
def ownerReseeded (owner : Nat) (s : State) : Host.Outcome State Fault Refusal :=
  match s.owner? owner with
  | none => .next s
  | some o =>
    if o.state ≠ .reseeding then .next s
    else
      let (v, t) := s.endReseed o
      .next (((t.allCtxs.filter fun (_, _, c) => c.life == .waiting && c.wait.kind == .reseed && c.wait.a == owner).foldl
        (fun t (k, slot, _) => t.finishWait k slot v) t).releaseHomes.wakeRetries)

/-- RESEED (11 R263). A kernel's pass runs at one point; an owner's lasts while its slices hold lines, and another RESEED of the owner waits for it (R261). -/
def execReseed (rd rs1 rs2 : Reg) (ownerForm remap : Bool) (la : BitVec 4) (s : State) : Host.Outcome State Fault Refusal :=
  match (do
    if ownerForm then requireSupervisor
    if !ownerForm && !(← get).isUser then illegal
    let seed ← rdReg rs1
    let o := bitsOf (← rdReg rs2) 0 16
    endChunk
    if ownerForm then
      match (← get).owner? o with
      | some x =>
        if x.state = .reseeding then waitFor .homeBlock
        else if x.state ≠ .active then
          wrReg rd (BitVec.allOnes 64)
          return none
        else if (← get).slicesHold x then
          modify fun s => s.beginReseed x seed remap
          return some o
        else
          let (v, t) := (← get).reseedOwner x seed remap
          set t
          wrReg rd v
          return none
      | none =>
        wrReg rd (BitVec.allOnes 64)
        return none
    else
      let (v, t) := (← get).reseedKernel seed remap
      set t
      wrReg rd v
      return none : M (Option Nat)) s with
  | .ok (none, t) => complete (.reseed rd rs1 rs2 ownerForm remap la) (fun _ => retireHanded 4 la (.reg rd) t) s
  | .ok (some o, t) => .next (t.block { kind := .reseed, ins := some (.reseed rd rs1 rs2 ownerForm remap la), rd := rd, a := o })
  | .error e => complete (.reseed rd rs1 rs2 ownerForm remap la) (fun _ => .error e) s

/-- DRAW (11 R264). -/
def execDraw (rd rs1 : Reg) (la : BitVec 4) (s : State) : Host.Outcome State Fault Refusal :=
  complete (.draw rd rs1 la) (do
    let v ← rdReg rs1
    let s ← get
    wrReg rd (BitVec.ofNat 64 (draw s.myCore.k.kseed s.ctx.owner classProg (bitsOf v 0 32)))
    retireLong 4 la (.reg rd)) s

/-! ### Exceedance (11 R257, R265) -/

/-- T[s] in cycles (11 R254). -/
def serviceTime (st : Nat) : Nat := [1, 2, 8, 2, 4, 8, 4, 16].getD st 0

/-- ceil(n(k-1)/2 + (k-1) sqrt(n q ln 2 / 2)): the least w with 2w >= A and (2w - A)^2 >= 2 (k-1)^2 n q ln 2, where A = n(k-1). The
bound is irrational unless it is 0, so the ceiling is that of a close enough value of ln 2. -/
def exceedanceW (n k q : Nat) : Nat :=
  let a := n * (k - 1)
  let r := 2 * (k - 1) * (k - 1) * n * q * ln2Fix
  let root := Nat.sqrt (r / fixOne)
  (a + (if r = 0 then 0 else root + 1) + 1) / 2

/-- The figure of R257, saturating. -/
def exceedance (st n k q : Nat) (align : Bool) : Word :=
  if k ≤ 1 ∨ n = 0 then 0
  else BitVec.ofNat 64 (min (2 ^ 64 - 1) ((exceedanceW n k q + (if align then n * (k - 1) else 0)) * serviceTime st))

/-- Does an owner hold a cluster on a die, or on the module (11 R257)? -/
def Owner.holdsOn (o : Owner) (st die : Nat) : Bool :=
  if st ≤ 3 then o.clusters / 2 ^ (16 * die) % 2 ^ 16 != 0 else o.clusters != 0

/-- k of R257 for the executing owner. -/
def State.sharers (s : State) (st : Nat) (cur : Bool) : Nat :=
  if cur then ((s.owners.filterMap (·.2)).filter fun o =>
    (o.state == .active || o.state == .reseeding) && o.holdsOn st (dieOf s.coreId)).length
  else ((s.owner? s.ctx.owner).map fun o => o.kmax.getD st 1).getD 1

/-- Is a descriptor valid but for q (11 R265)? -/
def exqValid (d : Word) : Bool := bitsOf d 4 4 == 0 && bitsOf d 16 16 == 0 && decide (bitsOf d 0 4 ≤ 7)

/-- EXQ (11 R265). -/
def execExq (rd rs1 : Reg) (align cur : Bool) (la : BitVec 4) (s : State) : Host.Outcome State Fault Refusal :=
  complete (.exq rd rs1 align cur la) (do
    let d ← rdReg rs1
    let q := bitsOf d 8 8
    let st := bitsOf d 0 4
    let s ← get
    wrReg rd (if !exqValid d ∨ q = 0 ∨ 64 < q then BitVec.allOnes 64 else exceedance st (bitsOf d 32 32) (s.sharers st cur) q align)
    retireLong 4 la (.reg rd)) s

/-- EXCURVE: 32 points, written in the current chunk (11 R265). -/
def execExcurve (rd rs1 rs2 : Reg) (align cur : Bool) (la : BitVec 4) (s : State) : Host.Outcome State Fault Refusal :=
  complete (.excurve rd rs1 rs2 align cur la) (do
    let d ← rdReg rs1
    let a ← rdReg rs2
    if !exqValid d then wrReg rd (BitVec.allOnes 64)
    else
      let s ← get
      let st := bitsOf d 0 4
      let k := s.sharers st cur
      let va := fun (j : Nat) => (a + BitVec.ofNat 64 (8 * j)).toNat
      reserveLines ((List.range 32).map fun j => s.lineKey s.coreId (va j))
      (List.range 32).forM fun j => memWrite (va j) 8 (exceedance st (bitsOf d 32 32) k (2 * (j + 1)) align).toNat
      wrReg rd 32
    retireLong 4 la (.reg rd)) s

/-- PLQ (11 R266). -/
def execPlq (rd rs1 : Reg) (sel : BitVec 3) (la : BitVec 4) (s : State) : Host.Outcome State Fault Refusal :=
  complete (.plq rd rs1 sel la) (do
    let a ← rdReg rs1
    let s ← get
    let va := a.toNat
    if 2 ^ 56 ≤ va ∨ inWindowRegion va then wrReg rd (BitVec.allOnes 64)
    else
      let mapped := (s.walk va).map (·.home)
      let v := match s.owner? s.ctx.owner with
        | some o =>
          let home := mapped.getD (o.drawHome va)
          match sel.toNat with
          | 0 => l1Set s.myCore.k.kseed s.ctx.owner va
          | 1 => home * 2 ^ 6 + o.slice home va
          | 2 => l2Set o.placementSeed o.id va
          | _ => home + (if mapped.isSome then 2 ^ 63 else 0)
        | none => match sel.toNat with
          | 0 => l1Set s.myCore.k.kseed s.ctx.owner va
          | 1 => mapped.getD 0 * 2 ^ 6
          | 2 => l2Set 0 s.ctx.owner va
          | _ => mapped.getD 0 + (if mapped.isSome then 2 ^ 63 else 0)
      wrReg rd (BitVec.ofNat 64 v)
    retireLong 4 la (.reg rd)) s

end Sys2Proof.Machine
end

