-- ==== Sys2Proof/Machine/Link.lean ====
section
/-!
DEFINITION. Sys2Proof/Machine/Link.lean: the life of a port (24 R412 to R414, R417), the flits it receives (R415, R416), and what a FAILED port
does to the operations it carried (R422, R424). Ports 0 to 95 are the logical JSL ports, ports 96 to 99 the Ultra Ethernet ports.
-/

namespace Sys2Proof.Machine

def isUe (p : Nat) : Bool := decide (96 ≤ p)

/-- The GCT that lysa and the ports count by. -/
def State.gct (s : State) : Nat := (s.die 0).gct

/-! ### States of a port (24 R412, R413) -/

/-- A write that a FAILED port carried is lost: it is recorded, and a transfer it was part of faults (24 R422, R424). -/
def State.loseWrite (s : State) (w : LinkWrite) : State :=
  let s := (s.mapWrite w.id fun w => { w with state := .lost }).recordEvent w.owner w.knum (w.entry causeLinkLost 4 w.value)
  match w.transfer with
  | some (tid, chunk, _) =>
    let va := ((s.transfer? w.core tid).map fun t => t.plan.destAddr (512 * chunk)).getD 0
    s.faultTransfer w.core tid chunk causeLinkLost va
  | none => s

/-- The held outputs and link writes of a domain leave, in their order of issue (23 R399); a write that no port takes is lost. -/
def State.releaseHeld (s : State) (dom : Nat) : State :=
  let held := s.links.writes.filter fun w => w.domain == dom && w.state == .held
  let s := held.foldl State.sendWrite s
  let s := (s.links.writes.filter fun w => w.state == .lost && held.any (·.id == w.id)).foldl State.loseWrite s
  { s with outputs := s.outputs.map fun o => if o.domain = dom then { o with held := false } else o }

/-- A port enters FAILED: its replay buffer is discarded and what it carried is lost (24 R416, R422); carries that waited behind a lost
one go out by their own ports (R420). -/
def State.failPort (s : State) (p : Nat) : State :=
  let s := s.mapPort p fun x => { x with state := .failed, buffer := [], pending := [] }
  let lost := s.links.writes.filter fun w => w.port == p && w.state.carried
  (lost.foldl State.followWrite (lost.foldl State.loseWrite s)).wakeRetries

/-- A training flit: the sender's module id and its logical port number (24 R417). -/
def trainingFlit (moduleId port : Nat) : List Byte := flitOf flitTraining 0 0 0 (leBytes 2 moduleId ++ leBytes 1 port)

/-- Training begins: the retrain limit starts to run (24 R412), and a JSL port sends its training flit (R417). -/
def State.train (s : State) (p : Nat) (st : PortState) : State :=
  s.mapPort p fun x => { x with
    state := st, deadline := s.gct + s.links.rtlimit
    replies := if isUe p then x.replies else x.replies ++ [trainingFlit s.links.moduleId p] }

/-- PARTNER_DETECTED (24 R412), once lysa trains the ports (26 R433 step 6). -/
def execPartnerDetected (port : Nat) (s : State) : Host.Outcome State Fault Refusal :=
  .next (if s.platform.stage = 6 ∧ port < 100 ∧ (s.port port).state = .down then s.train port .training else s)

/-- PARTNER_LOST: the partner is gone while the port trains (24 R412). -/
def execPartnerLost (port : Nat) (s : State) : Host.Outcome State Fault Refusal :=
  .next (if (s.port port).state = .training then (s.mapPort port fun x => { x with state := .down }).wakeRetries else s)

/-- Does the peer that training reported differ from the one the platform configuration expects (24 R417)? -/
def Port.mismatch (p : Port) : Bool :=
  match p.expected with
  | some e => p.peer != some e
  | none => false

/-- A port has trained: it resends what its replay buffer holds, and goes on sending (24 R412, R415). -/
def Port.trained (p : Port) (st : PortState) : Port :=
  ({ p with state := st, buffer := p.buffer.map fun k => { k with resent := 0 } } : Port).run

/-- LINK_TRAINED: so many lanes have trained (24 R412). A JSL port has learnt its peer by then; one that expects another goes to FAILED, and lysa records what
the peer reported (R417). -/
def execLinkTrained (port lanes : Nat) (s : State) : Host.Outcome State Fault Refusal :=
  let x := s.port port
  if (x.state ≠ .training ∧ x.state ≠ .retraining) ∨ lanes = 0 ∨ 100 ≤ port then .next s
  else if isUe port then .next (s.mapPort port fun x => { x with state := .up })
  else if x.peer.isNone then .next s
  else if x.mismatch then
    let s : State := { s with links := { s.links with mismatches := s.links.mismatches ++ [(port, x.peer.getD 0, x.peerPort)] } }
    .next (s.failPort port)
  else .next (s.mapPort port fun x => x.trained (if lanes = 1 then .degraded else .up)).wakeRetries

/-- LINK_REPAIR: lysa has repaired a FAILED port, which trains again (24 R412). Its link starts anew. -/
def execLinkRepair (port : Nat) (s : State) : Host.Outcome State Fault Refusal :=
  .next (if (s.port port).state = .failed then
    (s.mapPort port fun x => { Port.reset with expected := x.expected, spares := x.spares }).train port .training else s)

/-- UE_PORT_FAULT: a fault moves an Ultra Ethernet port to DOWN (24 R412). -/
def execUePortFault (port : Nat) (s : State) : Host.Outcome State Fault Refusal :=
  let p := 96 + port
  .next (if port < 4 ∧ (s.port p).state = .up then s.mapPort p fun x => { x with state := .down } else s)

/-! ### Flits that arrive (24 R415 to R417) -/

/-- A field of a flit. -/
def flitField (f : List Byte) (offset n : Nat) : Nat := ofLeBytes ((f.drop offset).take n)

/-- Is a flit one the port takes: whole, of a known KIND, with a good CRC? -/
def flitGood (f : List Byte) : Bool :=
  f.length == 256 && decide (flitField f 0 1 ≤ 4) && flitField f 248 8 == (crc64 (f.take 248)).toNat

/-- Answer with an ACK or NAK of the last data SEQ received in order. -/
def Port.reply (p : Port) (kind credit : Nat) : Port :=
  { p with replies := p.replies ++ [flitOf kind 0 p.recvSeq.toNat credit []] }

/-- Has the SEQ of a kept flit been received, where `a` is the last one received in order? -/
def seqAcked (q a : BitVec 16) : Bool := decide ((a - q).toNat < 2 ^ 15)

/-- Drop the kept flits a peer has received. -/
def Port.acked (p : Port) (a : BitVec 16) : Port := { p with buffer := p.buffer.filter fun k => !seqAcked k.seq a }

/-- Resend every kept flit. -/
def Port.resend (p : Port) : Port := { p with buffer := p.buffer.map fun k => { k with resent := k.resent + 1 } }

/-- A data flit: the next one in order is passed on and acknowledged, a gap is answered NAK, one received already is acknowledged again. The credit its sender spent
comes back with the flit that is passed on; one sent again has spent none. -/
def Port.data (p : Port) (f : List Byte) : Port :=
  let q := BitVec.ofNat 16 (flitField f 2 2)
  if q = p.recvSeq + 1 then ({ p with recvSeq := q, received := p.received ++ (f.drop 8).take 240 } : Port).reply flitAck 1
  else if seqAcked q p.recvSeq then p.reply flitAck 0
  else p.reply flitNak 0

/-- A training flit reports the sender's module id and its port number (24 R417). -/
def Port.training (p : Port) (f : List Byte) : Port := { p with peer := some (flitField f 8 2), peerPort := flitField f 10 1 }

/-- A flit of a kind arrives. One that is not good is discarded and answered NAK; CREDIT of a good one comes back to the sender. -/
def State.takeFlit (s : State) (port kind : Nat) (f : List Byte) : State :=
  let x := s.port port
  let trains := x.state == .training || x.state == .retraining
  let carries := x.state == .up || x.state == .degraded
  if isUe port ∨ !(trains || carries) then s
  else if !flitGood f then s.mapPort port fun p => p.reply flitNak 0
  else if flitField f 0 1 ≠ kind ∨ (kind = flitTraining ∧ !trains) ∨ (kind ≠ flitTraining ∧ !carries) then s
  else
    let s := s.mapPort port fun p => { p with credit := p.credit + flitField f 6 2 }
    let a := BitVec.ofNat 16 (flitField f 4 2)
    s.mapPort port fun p =>
      if kind = flitData then p.data f
      else if kind = flitAck then (p.acked a).run
      else if kind = flitNak then (p.acked a).resend.run
      else if kind = flitTraining then p.training f
      else p.run

/-- DATA_FLIT (24 R415, R416). -/
def execDataFlit (port : Nat) (flit : List Byte) (s : State) : Host.Outcome State Fault Refusal := .next (s.takeFlit port flitData flit)

/-- ACK_FLIT (24 R415). -/
def execAckFlit (port : Nat) (flit : List Byte) (s : State) : Host.Outcome State Fault Refusal := .next (s.takeFlit port flitAck flit)

/-- NAK_FLIT (24 R415). -/
def execNakFlit (port : Nat) (flit : List Byte) (s : State) : Host.Outcome State Fault Refusal := .next (s.takeFlit port flitNak flit)

/-- TRAINING_FLIT (24 R417). -/
def execTrainingFlit (port : Nat) (flit : List Byte) (s : State) : Host.Outcome State Fault Refusal := .next (s.takeFlit port flitTraining flit)

/-- IDLE_FLIT (24 R415). -/
def execIdleFlit (port : Nat) (flit : List Byte) (s : State) : Host.Outcome State Fault Refusal := .next (s.takeFlit port 0 flit)

/-- FLIT_RESEND_LIMIT: one flit has been resent 8 times without an ACK, and the port retrains with its replay buffer kept (24 R415). -/
def execFlitResendLimit (port : Nat) (s : State) : Host.Outcome State Fault Refusal :=
  let x := s.port port
  .next (if (x.state = .up ∨ x.state = .degraded) ∧ x.buffer.any (fun k => decide (8 ≤ k.resent)) then s.train port .retraining else s)

end Sys2Proof.Machine
end

