-- ==== Sys2Proof/Machine/Preempt.lean ====
section
/-!
DEFINITION. Sys2Proof/Machine/Preempt.lean: core budgets (07 R160), stopping a kernel's groups, spilling and filling them, and resuming
(06 R149, 07 R162, R164, R168).
-/

namespace Sys2Proof.Machine

/-! ### Budgets (07 R160) -/

/-- Cores held by the kernels of an owner launched from a node or from its descendants. -/
def State.subtreeHeld (s : State) (owner addr : Nat) : Nat :=
  ((s.allKernels.filter fun k => k.owner == owner && k.chain.any (·.addr == addr)).map fun k => k.held.length).sum

/-- Can a kernel take so many more cores under every node of its chain? -/
def State.withinBudget (s : State) (k : Kernel) (need : Nat) : Bool :=
  k.chain.all fun n => decide (s.subtreeHeld k.owner n.addr + need ≤ n.cores)

/-- A tenant core of an owner's partition that no kernel holds. -/
def State.coreFree (s : State) (core : Nat) : Bool := (s.core core).knum == 0 && !isReserved core

/-! ### Stopping (06 R149) -/

/-- Collectives at which every rank has arrived complete. -/
def State.completeCollectives (s : State) (k : Kernel) : State :=
  k.groups.foldl (fun s g => nextOf s (execCollectiveComplete k.owner k.knum g.index s)) s

/-- Every group of a kernel is pre-empted: it stops at chunk boundaries and its contexts are PARKED. -/
def State.preemptKernel (s : State) (k : Kernel) (priority : Bool) : State :=
  let s := s.completeCollectives k
  (s.stopKernel ((s.kernel? k.owner k.knum).getD k) .preempted).mapKernel k.owner k.knum fun k => { k with forPriority := priority }

/-! ### Spilling and filling (07 R162, R168) -/

/-- Clusters on which no other kernel than this one holds a core. -/
def State.soleClusters (s : State) (k : Kernel) : List Nat :=
  ((k.held.map clusterOf).eraseDups).filter fun u => (List.range 8).all fun i => s.coreFree (8 * u + i) || isReserved (8 * u + i) || k.held.contains (8 * u + i)

/-- Does a location lie in the local memory of these cores and clusters: in a TCM, a scratchpad, a B store, or an accumulation slot that `slot` names by
cluster and number? -/
def isLocalTo (cores units : List Nat) (slot : Nat → Nat → Bool) (loc : Nat) : Bool :=
  if loc < 2 ^ 60 then false
  else if loc < 2 ^ 61 then cores.contains ((loc - 2 ^ 60) / 2 ^ 20)
  else if loc < 2 ^ 62 then units.contains ((loc - 2 ^ 61) / 2 ^ 22)
  else if loc < 2 ^ 63 then units.contains ((loc - 2 ^ 62) / 2 ^ 24)
  else slot ((loc - 2 ^ 63) / 2 ^ 22) ((loc - 2 ^ 63) / 2 ^ 20 % 4)

/-- Does one of these cores hold a slot of a cluster (17 R334)? -/
def Cluster.heldBy (u : Cluster) (cores : List Nat) (slot : Nat) : Bool := ((u.acc[slot]?).map fun a => a.state != .free && cores.contains a.holder).getD false

/-- The clusters a kernel has cores in or holds slots in. -/
def State.unitsOf (s : State) (k : Kernel) : List Nat :=
  (k.held.map clusterOf ++ (s.clusters.filter fun p => (List.range 4).any (p.2.heldBy k.held)).map (·.1)).eraseDups

/-- Bytes of the second tier that hold a spilled kernel: 2 MiB for each core, and 32 MiB for each cluster that is its alone. -/
def spillBytes (cores sole : Nat) : Nat := cores * 2 ^ 21 + sole * 2 ^ 25

/-- The contexts of a kernel pre-empted for priority are SPILLED to the second tier, with the local state that is its own, and its cores are released; with no room
there it waits. The slots its cores hold stay held (17 R334). A FAULTED context stays FAULTED (06 R130). -/
def State.spillKernel (s : State) (k : Kernel) : State :=
  let sole := s.soleClusters k
  let size := spillBytes k.held.length sole.length
  match s.reserveLysa size with
  | none => s
  | some (area, s) =>
  let cs := (s.ctxsOf k.owner k.knum).filter fun (_, _, c) => c.life != .retired
  let sp : Spill :=
    { ctxs := cs.map fun (core, slot, c) => (ctxKey core slot, { c with life := if c.life = .faulted then .faulted else .spilled })
      cores := k.held.map fun c => (c, s.core c)
      units := (s.unitsOf k).map fun u => (u, s.cluster u)
      sole := sole
      bytes := s.mem.filter fun p => isLocalTo k.held sole (fun u i => (s.cluster u).heldBy k.held i) p.1
      area := area, areaSize := size }
  let s := cs.foldl (fun s (core, slot, _) => s.setCtxAt core slot Context.free) s
  (s.clearCores k).putKernel { k with held := [], spill := sp }

/-- Can a spilled kernel take its own cores again (07 R168)? -/
def State.canFill (s : State) (k : Kernel) : Bool :=
  k.spill.cores.all (fun (c, _) => s.coreFree c) && s.withinBudget k k.spill.cores.length

/-- Does a slot that a spilled kernel held go back to it: it is free, or stands in the name of one of the kernel's cores? -/
def Cluster.givesBack (now saved : Cluster) (cores : List Nat) (slot : Nat) : Bool :=
  saved.heldBy cores slot && (now.heldBy cores slot || ((now.acc[slot]?).map fun a => a.state == .free).getD false)

/-- A matrix unit that a spilled kernel comes back to: its slots and format contexts as they were, and its B slots where the cluster is its alone. Commands of
others stay. -/
def Cluster.fill (unit : Nat) (now saved : Cluster) (cores : List Nat) (sole : Bool) : Cluster :=
  { now with
    acc := Vector.ofFn fun i => if now.givesBack saved cores i then saved.acc[i] else now.acc[i]
    done := Vector.ofFn fun i => if now.givesBack saved cores i then saved.done[i] else now.done[i]
    bslots := if sole then saved.bslots else now.bslots
    bcores := if sole then saved.bcores else now.bcores
    contexts := Vector.ofFn fun i => if cores.contains (8 * unit + i.val) then saved.contexts[i] else now.contexts[i] }

/-- A spilled kernel is back on its own cores, its contexts PARKED. -/
def State.fillKernel (s : State) (k : Kernel) : State :=
  let cores := k.spill.cores.map (·.1)
  let sole := k.spill.sole.filter fun u => (List.range 8).all fun i => s.coreFree (8 * u + i) || isReserved (8 * u + i)
  let slots := (k.spill.units.map fun (u, x) => ((List.range 4).filter ((s.cluster u).givesBack x cores)).map fun i => (u, i)).flatten
  let mine := fun (loc : Nat) => isLocalTo cores sole (fun u i => slots.contains (u, i)) loc
  let s := k.spill.cores.foldl (fun s (c, x) => s.mapCore c fun now => { x with
    plb := [], l1i := [], plbEn := now.plbEn, rangeBase := now.rangeBase, spared := now.spared }) s
  let s := k.spill.units.foldl (fun s (u, x) => s.mapCluster u fun now => now.fill u x cores (sole.contains u)) s
  let s : State := { s with mem := s.mem.filter fun p => !mine p.1 }
  let s := (k.spill.bytes.filter fun p => mine p.1).foldl (fun s p => s.setByte p.1 p.2) s
  let s := k.spill.ctxs.foldl (fun s (key, c) => s.setCtxAt (key / 64) (key % 64)
    { c with life := if c.life = .faulted then .faulted else .parked, preempted := true }) s
  { s.putKernel { k with held := cores, spill := {} } with frames := s.frames.filter fun (_, b, n) => !(b == k.spill.area && n == k.spill.areaSize) }

/-! ### The end of a range's switch (10 R239, R242) -/

/-- Does a REGSW's context wait for this switch? -/
def Context.awaits (c : Context) (w : RangeSwitch) : Bool := c.wait.kind == .rangeSwitch && c.wait.a == w.index

/-- A REGSW returns 0 (10 R242). -/
def State.endRegsw (s : State) (core slot : Nat) : State := (s.finishWait core slot 0).inSlot core slot State.takeNotice

/-- A range's switch ends, and the REGSW that waits for it returns 0 (10 R242). -/
def rangeSwitched (core index : Nat) (s : State) : Host.Outcome State Fault Refusal :=
  match s.coh.switches.find? fun w => w.core == core && w.index == index with
  | none => .next s
  | some w =>
    let t := s.switched w
    .next (if t.coh.switches.contains w then s
      else ((t.allCtxs.filter fun (k, _, c) => k == core && c.life == .waiting && c.awaits w).foldl (fun t (k, slot, _) => t.endRegsw k slot) t))

/-- A context that waited in a REGSW waits on, or returns 0 where its switch has ended meanwhile. -/
def State.resumeSwitch (s : State) (core slot : Nat) : State :=
  let c := s.ctxAt core slot
  if s.coh.switches.any fun w => w.core == core && c.awaits w then s.setCtxAt core slot { c with life := .waiting } else s.endRegsw core slot

/-- What a WFI that a pre-emption or a rollback ends returns: the lowest code among the wake events that are present, of which this is 3 (06 R156). -/
def State.wfiCode (s : State) (core slot : Nat) : Word :=
  let late := match (s.ctxAt core slot).wait.deadline with | some t => decide (t ≤ (s.die (dieOf core)).gct) | none => false
  if !(s.core core).queue.isEmpty then 0 else if s.hasFired core slot then 1 else if late then 2 else 3

/-! ### Resuming (06 R156, 09 R220, 07 R168) -/

/-- Is an answer still owed to a context that waits so: by lysa, a matrix unit, a home, or a block? It takes a ROLLBACK notice when that has come. -/
def WaitKind.owedAnswer : WaitKind → Bool
  | .syscall | .remoteCommand | .rangeSwitch | .pageBlock => true
  | _ => false

/-- One context of a stopped kernel goes on: a SLEEP returns 18, a WFI 3, a FAULTED context goes on at CR_EPC, one that lysa or a matrix unit still
owes an answer waits for it, and any other wait executes again. A ROLLBACK notice that waited for it is taken (23 R403). -/
def State.resumeCtx (s : State) (core slot : Nat) : State :=
  let c := s.ctxAt core slot
  let s := s.setCtxAt core slot { c with preempted := false }
  let s := match c.life with
  | .faulted => s.mapCtxAt core slot fun x => { x with life := .ready, wait := {}, arch := { x.arch with pc := x.arch.epc }
                                                       chunk := freshChunk (s.core core).k { x.arch with pc := x.arch.epc } }
  | .parked =>
    match c.wait.kind with
    | .sleep => s.finishWait core slot 18
    | .wfi => s.finishWait core slot (s.wfiCode core slot)
    | .syscall => s
    | .rangeSwitch => s.resumeSwitch core slot
    | .pageBlock => s.resumeBlock core slot
    | .faultBatch =>
      if (s.batch? c.owner c.wait.a).isSome then s
      else if c.wait.b = 1 then s.inSlot core slot State.goFaulted
      else s.mapCtxAt core slot fun x => { x with life := .ready, wait := {} }
    | .remoteCommand => (s.mapCtxAt core slot fun x => { x with life := .waiting }).remoteReturn core slot
    | _ => s.mapCtxAt core slot fun x => { x with life := .ready, wait := {} }
  | _ => s
  if c.wait.kind.owedAnswer ∧ c.life ≠ .faulted then s else if (s.ctxAt core slot).life = .ready then s.inSlot core slot State.takeNotice else s

/-- A stopped kernel runs again: its queues accept, its groups are RUNNING, its contexts go on. -/
def State.resumeKernel (s : State) (k : Kernel) : State :=
  let s := s.putKernel { k with
    state := .running, forPriority := false, groups := k.groups.map fun g => { g with state := .running } }
  let s := k.held.foldl (fun s c => s.mapCore c (·.closeQueue false)) s
  (s.ctxsOf k.owner k.knum).foldl (fun s (core, slot, _) => s.resumeCtx core slot) s

/-! ### Events -/

/-- GANG_PREEMPTION: the last steps of a pre-emption, once the copies and matrix commands of the stopped groups have drained: contexts stay PARKED in
the stores that hold them, or, for a kernel pre-empted for priority, are SPILLED and its cores released (06 R149, 07 R162). -/
def execGangPreemption (owner knum : Nat) (s : State) : Host.Outcome State Fault Refusal :=
  match s.kernel? owner knum with
  | some k => .next (if k.state = .preempted ∧ k.forPriority ∧ k.held ≠ [] ∧ !s.enginesBusy k then s.spillKernel k else s)
  | none => .next s

/-- Spilled kernels that come before this one in kernel-number order. -/
def State.firstSpilled (s : State) (k : Kernel) : Bool :=
  !s.allKernels.any fun j => j.owner == k.owner && decide (j.knum < k.knum) && j.state == .preempted && j.forPriority && s.canFill j

end Sys2Proof.Machine
end

