-- ==== Sys2Proof/Machine/Seam.lean ====
section
/-!
DEFINITION. Sys2Proof/Machine/Seam.lean: SEAM, taking a seam, errors and rollback (23 R396 to R406, R411).
-/

namespace Sys2Proof.Machine

/-! ### A domain's parts (23 R396) -/

/-- Was a kernel launched by a thread of the domain? -/
def State.launchedIn (s : State) (dom : Nat) (src : Source) : Bool :=
  match src with
  | .device _ o n => s.seamOf o n == dom
  | .host _ => false

def State.domainCores (s : State) (dom : Nat) : List Nat := ((s.domainKernels dom).map (·.held)).flatten

/-- The contexts of a domain, with core and slot. -/
def State.domainCtxs (s : State) (dom : Nat) : List (Nat × Nat × Context) :=
  s.allCtxs.filter fun (_, _, c) => c.life != .free && c.life != .retired && dom != 0 && s.seamOf c.owner c.knum == dom

/-! ### SEAM and the triggers (23 R398, R411) -/

/-- SEAM: the seam it triggers, or joins, ends it. -/
def execSeam (rs1 : Reg) (s : State) : Host.Outcome State Fault Refusal :=
  let i : Instr := .seam rs1
  match (do
    let v ← rdReg rs1
    endChunk
    let s ← get
    if (s.domain? s.mySeam).isNone then return none else return some v : M (Option Word)) s with
  | .ok (none, t) => complete i (fun _ => retireDone 4 t) s
  | .ok (some v, t) => .next ((t.trigger t.mySeam v).block { kind := .seam, ins := some i, a := t.mySeam })
  | .error e => complete i (fun _ => .error e) s

/-- SEAM_INTERVAL_EXPIRY: INTERVAL ticks have passed since the last seam or rollback. -/
def execSeamIntervalExpiry (domain : Nat) (s : State) : Host.Outcome State Fault Refusal :=
  match s.domain? domain with
  | some d => .next (if d.interval ≠ 0 ∧ d.began + d.interval ≤ s.gct then s.trigger domain 0 else s)
  | none => .next s

/-- LOG_FULL: the undo log has filled to LOGFULL 256ths; 0 acts as 192 (23 R398, R410). -/
def execLogFull (domain : Nat) (s : State) : Host.Outcome State Fault Refusal :=
  match s.domain? domain with
  | some d =>
    let n := if d.logFull = 0 then 192 else d.logFull
    .next (if d.capacity * n ≤ 256 * d.undo.length ∧ d.undo ≠ [] then s.trigger domain 0 else s)
  | none => .next s

/-! ### The checkpoint (23 R399) -/

/-- One context as a seam saves it: gathered, and never bound. -/
def Context.saved (c : Context) : Context := { (c.uncloak true).closeWindows with runahead := none }

/-- The remote commands that contexts of a domain wait for, each as one more than its number. -/
def State.awaited (s : State) (dom : Nat) : List Nat :=
  (s.domainCtxs dom).filterMap fun (_, _, c) => if c.wait.kind = .remoteCommand then some c.wait.a else none

/-- Does a matrix unit hold anything of these cores: a command, an accumulation slot, or the end of a remote command that is awaited? -/
def Cluster.concerns (u : Cluster) (cores awaited : List Nat) : Bool :=
  u.queue.any (fun q => cores.contains q.core) || (List.range 4).any (u.heldBy cores) || u.remoteDone.any fun x => awaited.contains (x.1 + 1)

def State.checkpoint (s : State) (dom : Nat) : Checkpoint :=
  let cores := s.domainCores dom
  { kernels := s.domainKernels dom ++ s.allKernels.filter (fun k => k.state == .queued && s.launchedIn dom k.source)
    requests := s.requests.filter fun r => s.launchedIn dom r.source
    swm := s.coh.swm.filter fun p => cores.contains (p.1 / 2 ^ 64)
    written := s.coh.written
    ctxs := (s.domainCtxs dom).map fun (core, slot, c) => (ctxKey core slot, c.saved)
    cores := cores.map fun c => { core := c, unit := s.core c }
    clusters := ((cores.map clusterOf ++ (s.clusters.filter fun p => p.2.concerns cores (s.awaited dom)).map (·.1)).eraseDups).map fun c =>
      { cluster := c, unit := s.cluster c } }

/-- Bring one context to a seam point: a chunk that holds its grants commits, any other goes back to its start. -/
def State.seamCtx (s : State) (core slot : Nat) : State :=
  let c := s.ctxAt core slot
  match c.life with
  | .runahead => s.inSlot core slot State.endRunahead
  | .running | .ready | .waiting =>
    if c.chunk.isEmpty ∨ c.chunk.locked ∨ c.chunk.full then
      s.inSlot core slot fun s =>
        let s := if s.canCommit then s.endFull else if s.ctx.chunk.locked then s else s.squashAt core slot
        { s with ctx := s.ctx.closeWindows }
    else (s.squashAt core slot).mapCtxAt core slot Context.closeWindows
  | _ => s

/-- A collective that has not completed is withdrawn: its ranks execute it again (14 R277). -/
def State.withdraw (s : State) (core slot : Nat) : State :=
  s.mapCtxAt core slot fun c => if c.life = .waiting ∧ c.wait.kind = .collective then c.wake else c

/-- A SEAM whose seam has COMMITTED completes. -/
def State.endSeam (s : State) (core slot : Nat) : State :=
  s.inSlot core slot fun s =>
    match retireDone 4 { s with ctx := { s.ctx with wait := {}, life := if s.ctx.life = .waiting then .ready else s.ctx.life } } with
    | .ok (_, t) => t
    | .error _ => s

/-- The SEAMs of a domain are over. -/
def State.endSeams (s : State) (dom : Nat) : State :=
  ((s.domainCtxs dom).filter fun (_, _, c) => c.wait.kind == .seam).foldl (fun s (core, slot, _) => s.endSeam core slot) s

/-- The kernels of a domain that drained before the seam end with it (07 R164). -/
def State.endDrained (s : State) (dom : Nat) : State :=
  ((s.domainKernels dom).filter fun k => k.state == .draining).foldl (fun s k => if s.enginesBusy k then s else s.finishKernel k) s

/-- Chunks of copies that are in progress land where nothing holds them (23 R399 step 3). -/
def State.landStarted (s : State) (dom : Nat) : State :=
  (s.domainCores dom).foldl (fun s core => ((s.core core).transfers).foldl (fun s t =>
    t.started.foldl (fun s k => nextOf s (execTransferChunkLanding core t.tid k s)) s) s) s

/-- Steps 2 to 5 of a seam (23 R399): chunks go to a seam point, chunks of copies in progress land, collectives complete or are withdrawn, and the checkpoint is
written. Matrix commands execute each in one step, so none is in progress. -/
def State.writeSeam (s : State) (dom : Nat) : State :=
  let s := s.mapDomain dom fun d => { d with state := .committing }
  let s := (s.domainCtxs dom).foldl (fun s (core, slot, _) => s.seamCtx core slot) s
  let s := s.landStarted dom
  let s := (s.domainKernels dom).foldl State.completeCollectives s
  let s := (s.domainCtxs dom).foldl (fun s (core, slot, _) => s.withdraw core slot) s
  s.mapDomain dom fun d => { d with pending := some { checkpoint := s.checkpoint dom, undo := d.undo.length, inputs := d.inputs.length } }

/-- A checkpoint without the kernels that have ended since, their cores and contexts, and the clusters where nothing else of it is. -/
def Checkpoint.without (c : Checkpoint) (ended : List Kernel) : Checkpoint :=
  let gone := fun (owner knum : Nat) => ended.any fun k => k.owner == owner && k.knum == knum
  let ctxs := c.ctxs.filter fun (_, x) => !gone x.owner x.knum
  let cores := c.cores.filter fun x => !gone x.unit.owner x.unit.knum
  let ids := cores.map (·.core)
  { c with
    kernels := c.kernels.filter fun k => !gone k.owner k.knum, ctxs := ctxs, cores := cores
    clusters := c.clusters.filter fun x => ids.any (clusterOf · == x.cluster)
      || x.unit.concerns ids (ctxs.filterMap fun (_, x) => if x.wait.kind = .remoteCommand then some x.wait.a else none) }

/-- Step 6 and the end of a seam (23 R397, R399): the log is truncated, the sequence number grows and held outputs leave (COMMITTED); at once the next seam is OPEN,
issue resumes, SEAMs complete, and the kernels that have drained end. -/
def State.sealSeam (s : State) (dom : Nat) (w : SeamWrite) : State :=
  let s := s.mapDomain dom fun d => { d with
    undo := d.undo.drop w.undo, inputs := d.inputs.drop w.inputs, seq := d.seq + 1, lastTag := d.nextTag, nextTag := 0, began := s.gct
    triggered := false, checkpoint := w.checkpoint, pending := none, ready := [], state := .committed }
  let s := (s.releaseHeld dom).mapDomain dom fun d => { d with state := .opened }
  let s := (s.endSeams dom).endDrained dom
  let ended := w.checkpoint.kernels.filter fun k => k.seamDomain == dom && !((s.kernel? k.owner k.knum).map fun k => k.state.live).getD false
  (s.mapDomain dom fun d => { d with checkpoint := d.checkpoint.without ended }).flushDelayed.wakeRetries

/-- Can a seam of a domain be taken now: no rollback and no pre-emption of it is under way, and no chunk runs locked (09 R440)? -/
def State.seamReady (s : State) (d : SeamDomain) : Bool := d.state != .rollingBack && !s.stoppingIn d.id && !s.lockStands

/-- Have all the modules a domain spans written their part of the checkpoint (23 R407)? -/
def SeamDomain.allReady (d : SeamDomain) : Bool := d.peers.all d.ready.contains

/-- Take a domain's seam: the checkpoint is written, and the seam commits once the other modules have written theirs. -/
def State.takeSeam (s : State) (dom : Nat) : State :=
  let s := if ((s.domain? dom).map fun d => d.pending.isNone).getD false then s.writeSeam dom else s
  match s.domain? dom with
  | some d => match d.pending with
    | some w => if d.allReady then (s.sealSeam dom w).endKernels else s
    | none => s
  | none => s

/-- SEAM_COMMIT: a triggered seam is taken; or another module of a joined domain has completed step 5 of its own, which triggers the seam here (23 R397, R399,
R407). -/
def execSeamCommit (part : SeamPart) (s : State) : Host.Outcome State Fault Refusal :=
  match s.domain? part.domain, part.member with
  | none, _ => .next s
  | some d, none => .next (if d.triggered ∧ s.seamReady d then s.takeSeam part.domain else s)
  | some d, some m =>
    .next (if d.state = .rollingBack ∨ !d.peers.contains m ∨ d.ready.contains m then s
      else (s.mapDomain part.domain fun d => { d with ready := m :: d.ready }).trigger part.domain part.tag)

/-! ### Rollback (23 R401 to R404) -/

/-- Issue stops in a domain, and what is in flight and held in it is discarded (23 R402 steps 1 to 3). -/
def State.stopDomain (s : State) (dom : Nat) : State :=
  let cores := s.domainCores dom
  let s := (s.domainCtxs dom).foldl (fun s (core, slot, c) =>
    s.setCtxAt core slot { c.uncloak true with life := .parked, wait := {}, preempted := true, runahead := none, chunk := freshChunk (s.core core).k c.arch }) s
  let s := cores.foldl (fun s c => s.mapCore c fun x => { x with transfers := [], window := [] }) s
  let s : State := { s with
    clusters := s.clusters.map fun (n, u) => (n, { u with queue := u.queue.filter fun q => !cores.contains q.core })
    links := { s.links with writes := s.links.writes.filter fun w => !(w.domain == dom && w.state == .held) }
    outputs := s.outputs.filter fun o => !(o.domain == dom && o.held) }
  s.mapDomain dom fun d => { d with state := .rollingBack }

/-- Where an undo entry's line lies under the mapping that stands now; none where its page is unmapped. -/
def State.undoLoc (s : State) (u : UndoEntry) : Option Nat :=
  match u.va with
  | none => some (128 * u.line)
  | some v => (s.walk (128 * v)).bind fun l => if l.p then some (l.frame + (128 * v - l.va)) else none

/-- Apply one undo entry. -/
def State.applyUndo (s : State) (keep : List Nat) (u : UndoEntry) : State :=
  match s.undoLoc u with
  | none => s
  | some loc =>
    let line := loc / 128
    (s.setBytes loc u.old).mapCoh fun h => { h with
      marks := setT none h.marks line none, stale := setT none h.stale line none
      written := match u.va with
        | some v => h.written.filter fun w => w != v || keep.contains w
        | none => h.written }

/-- A cluster's matrix unit as it stands, with the domain's part of it as the seam saved it. -/
def Cluster.restore (unit : Nat) (now saved : Cluster) (cores : List Nat) (sole : Bool) : Cluster :=
  let mine := fun (a : AccSlot) => a.state == .free || cores.contains a.holder
  { acc := Vector.ofFn fun i => if mine now.acc[i] ∧ mine saved.acc[i] then saved.acc[i] else if mine now.acc[i] then { state := .free, holder := 0, m := 0, k := 0 } else now.acc[i]
    done := Vector.ofFn fun i => if mine now.acc[i] then saved.done[i] else now.done[i]
    bslots := if sole then saved.bslots else saved.bslots.foldl (fun t p => setT 0 t p.1 p.2) now.bslots
    bcores := if sole then saved.bcores else saved.bcores.foldl (fun t p => setT 0 t p.1 p.2) now.bcores
    contexts := Vector.ofFn fun i => if cores.contains (8 * unit + i.val) then saved.contexts[i] else now.contexts[i]
    queue := now.queue ++ saved.queue.filter fun q => cores.contains q.core
    remoteDone := saved.remoteDone ++ now.remoteDone.filter fun x => !saved.remoteDone.contains x }

/-- A transfer as the seam saved it: chunks that had not landed start again, but for what a peer has acknowledged since. -/
def Transfer.restore (t : Transfer) (acked : List Nat) (s : State) : Transfer :=
  { t with
    started := [], performed := t.performed.filter t.landed.contains, acked := insertAll acked t.acked
    waiting := t.waiting.filter fun (_, id) => (s.batch? t.owner id).isSome }

/-- A core as the seam saved it. -/
def CoreCheckpoint.restore (c : CoreCheckpoint) (now : Core) (s : State) (acks : List (Nat × List Nat)) : Core :=
  { c.unit with
    plb := now.plb, l1i := [], plbEn := now.plbEn, rangeBase := now.rangeBase, spared := now.spared
    transfers := c.unit.transfers.map fun t => t.restore (((acks.find? (·.1 == t.tid)).map (·.2)).getD []) s }

/-- The contexts of a spilled kernel take the ROLLBACK notice when they resume (23 R403). -/
def Kernel.noteRollback (k : Kernel) (tag : Word) : Kernel :=
  { k with spill := { k.spill with ctxs := k.spill.ctxs.map fun (key, c) => (key, { c with rollbackNotice := some tag.toNat }) } }

/-- A kernel as the seam saved it, with what lysa has counted since. -/
def Kernel.restore (k : Kernel) (now : Option Kernel) : Kernel :=
  match now with
  | some n => { k with nfault := n.nfault, nentry := n.nentry, dropped := n.dropped, nextEntry := n.nextEntry, firstFault := n.firstFault }
  | none => k

/-- Put one context back: a SLEEP or WFI returns, a SEAM that the seam ended completes, other waits execute again, and the ROLLBACK notice is taken or held (23
R402, R403). A FAULTED or stopped context takes it when it resumes. One that waited in a BWAIT leaves the object's WAITERS. -/
def State.restoreCtx (s : State) (key : Nat) (c : Context) (tag : Word) : State :=
  let core := key / 64
  let slot := key % 64
  let a := { c with rollbackNotice := some tag.toNat }
  let s := ((s.setCtxAt core slot a).leaveBarrier core slot).setCtxAt core slot a
  let s := match c.wait.kind with
    | .sleep => (s.finishWait core slot 19).mapCtxAt core slot fun x => { x with life := if c.life = .waiting then .ready else c.life }
    | .wfi => (s.finishWait core slot (s.wfiCode core slot)).mapCtxAt core slot fun x => { x with life := if c.life = .waiting then .ready else c.life }
    | .remoteCommand => s.remoteReturn core slot
    | .seam => s.endSeam core slot
    | .rangeSwitch => (s.resumeSwitch core slot).mapCtxAt core slot fun x => { x with life := if c.preempted then .parked else x.life }
    | .pageBlock => (s.resumeBlock core slot).mapCtxAt core slot fun x => { x with life := if c.preempted then .parked else x.life }
    | .syscall => s
    | .faultBatch => if (s.batch? c.owner c.wait.a).isSome then s
        else s.mapCtxAt core slot fun x => { x with life := if c.preempted then .parked else .ready, wait := {} }
    | _ => s.mapCtxAt core slot fun x => { x with
        life := if c.life = .waiting ∨ c.life = .running ∨ c.life = .runahead then .ready else c.life
        wait := {} }
  if c.wait.kind.owedAnswer ∨ (s.ctxAt core slot).life = .faulted ∨ (s.ctxAt core slot).preempted then s else s.inSlot core slot State.takeNotice

/-- A kernel that the domain's threads launched, or that was placed, after the seam: it is queued again, or, where a replayed thread will
launch it again, gone. One that held no cores at the seam gives up those it has. -/
def State.unplace (s : State) (dom : Nat) (saved : List Kernel) : State :=
  let new := s.allKernels.filter fun k => !saved.any (fun j => j.owner == k.owner && j.knum == k.knum)
    && (k.seamDomain == dom && k.state.live || k.state == .queued && s.launchedIn dom k.source)
  let back := (saved.filter fun k => k.held.isEmpty).filterMap fun k => (s.kernel? k.owner k.knum).bind fun n => if n.state.live then some n else none
  let clear := fun (s : State) (k : Kernel) => (s.retireCtxs k.owner k.knum).releaseCores k
  let s := new.foldl (fun s k =>
    let s := clear s k
    if s.launchedIn dom k.source then { s with kernels := setT none s.kernels (kernelKey k.owner k.knum) none }
    else s.putKernel { k with state := .queued, held := [], groups := [], seamDomain := 0 }) s
  back.foldl clear s

/-- Deliver an input of the interval again (23 R402, R406). -/
def State.redeliver (s : State) (dom : Nat) : Input → State
  | .message core e => s.enqueue core e
  | .carry p => (s.logInput dom (.carry p)).placeCarry p
  | .rdma owner va bytes =>
    let s := s.logInput dom (.rdma owner va bytes)
    if (packetParts va bytes.length).all fun (a, _) => (s.ownerLoc (s.domainOf owner) a 2).isSome then s.performInput dom owner va bytes else s
  | .abort owner knum =>
    let s := s.logInput dom (.abort owner knum)
    match s.kernel? owner knum with
    | some k => if k.state.live then s.abortKernel k stAborted else s
    | none => s
  | .preempt owner knum resume =>
    let s := s.logInput dom (.preempt owner knum resume)
    let s := if resume then s else s.serveFaulted owner knum
    match s.kernel? owner knum with
    | some k => if k.state = .running ∧ !resume then s.stopKernel k .preempted else s
    | none => s

/-- A rollback that ends a binding leaves the context LOST, as do those before it (15 R293). -/
def Context.loseCloak (c : Context) (lost : Bool) : Context := { c with cloak := { c.cloak with lost := c.cloak.lost || lost } }

/-- The domain is restored to its last committed seam (23 R402 steps 4 to 7). -/
def State.rollback (s : State) (d : SeamDomain) : State :=
  let c := d.checkpoint
  let acks := (((s.domainCores d.id).map fun n => (s.core n).transfers.map fun t => (t.tid, t.acked)).flatten)
  let s := s.stopDomain d.id
  let s := d.undo.reverse.foldl (fun s u => s.applyUndo c.written u) s
  let s := s.unplace d.id c.kernels
  let cores := c.cores.map (·.core)
  let now := s.domainCtxs d.id
  let lost := (now.filter fun (_, _, x) => x.cloak.lost).map fun (core, slot, _) => ctxKey core slot
  let s := now.foldl (fun s (core, slot, _) => s.setCtxAt core slot Context.free) s
  let s := c.kernels.foldl (fun s k => s.putKernel (k.restore (s.kernel? k.owner k.knum))) s
  let s := c.cores.foldl (fun s x => s.mapCore x.core fun now => x.restore now s acks) s
  let s := ((c.clusters.map (·.cluster) ++ s.clusters.map (·.1)).eraseDups).foldl (fun s n =>
    match c.clusters.find? (·.cluster == n) with
    | some x =>
      let sole := (List.range 8).all fun i => (s.core (8 * n + i)).knum == 0 || cores.contains (8 * n + i)
      s.mapCluster n fun now => now.restore n x.unit cores sole
    | none => s.mapCluster n fun now => now.restore n Cluster.reset cores false) s
  let s := s.mapCoh fun h => { h with swm := c.swm.foldl (fun t p => setT none t p.1 p.2) (h.swm.filter fun p => !cores.contains (p.1 / 2 ^ 64)) }
  let s : State := { s with requests := s.requests.filter fun r => !s.launchedIn d.id r.source || c.requests.contains r }
  let s := c.kernels.foldl (fun s k => s.mapKernel k.owner k.knum fun k => k.noteRollback d.lastTag) s
  let s := s.mapDomain d.id fun x => { x with
    undo := [], inputs := [], triggered := false, nextTag := 0, began := s.gct, state := .opened, pending := none, ready := [] }
  let s := c.ctxs.foldl (fun s (key, x) => s.restoreCtx key (x.loseCloak (lost.contains key)) d.lastTag) s
  let s := d.inputs.foldl (fun s i => s.redeliver d.id i) s
  s.flushDelayed.wakeRetries

/-- Kernels of a domain that the seam saved on cores they have been pre-empted from since. -/
def State.away (s : State) (d : SeamDomain) : List Kernel :=
  d.checkpoint.kernels.filterMap fun k => if k.held.isEmpty then none else (s.kernel? k.owner k.knum).bind fun n => if n.held.isEmpty ∧ n.state.live then some n else none

/-- ROLLBACK: a domain that is ROLLING_BACK is restored (23 R402), once the cores it is restored to are its own. -/
def execRollback (domain : Nat) (s : State) : Host.Outcome State Fault Refusal :=
  match s.domain? domain with
  | some d =>
    let away := s.away d
    if d.state ≠ .rollingBack ∨ away.any (fun k => !s.canFill k) then .next s
    else .next (((away.foldl State.fillKernel s).rollback d).endKernels)
  | none => .next s

/-! ### Errors (23 R401, R405) -/

/-- An error sends a domain to ROLLING_BACK. One that strikes during a rollback starts it again, to the same end (23 R404). -/
def State.failDomain (s : State) (dom : Nat) : State := if (s.domain? dom).isNone then s else s.stopDomain dom

/-- Every kernel of a domain is aborted (23 R401). -/
def State.abortDomain (s : State) (dom : Nat) : State :=
  ((s.domainKernels dom).foldl (fun s k => s.abortKernel k stAborted) s).mapDomain dom fun d => { d with state := .opened, undo := [], pending := none, ready := [] }

/-- The kernels that hold a core outside any domain are aborted: nothing of theirs can be undone. -/
def State.abortCore (s : State) (core : Nat) : State :=
  match s.kernelOf core with
  | some k => if k.state.live then s.abortKernel k stAborted else s
  | none => s

/-- The cores a location of a local memory belongs to: a TCM's core, the cores of a scratchpad's cluster, the core that loaded a B slot, and the holder of an
accumulation slot. -/
def State.coresOfLoc (s : State) (loc : Nat) : List Nat :=
  if loc < 2 ^ 60 then []
  else if loc < 2 ^ 61 then [(loc - 2 ^ 60) / 2 ^ 20]
  else if loc < 2 ^ 62 then (List.range 8).map (8 * ((loc - 2 ^ 61) / 2 ^ 22) + ·)
  else if loc < 2 ^ 63 then
    let x := getT 0 (s.cluster ((loc - 2 ^ 62) / 2 ^ 24)).bcores ((loc - 2 ^ 62) % 2 ^ 17 / 512)
    if x = 0 then [] else [x - 1]
  else (((s.cluster ((loc - 2 ^ 63) / 2 ^ 22)).acc[(loc - 2 ^ 63) / 2 ^ 20 % 4]?).map fun a => if a.state = .free then [] else [a.holder]).getD []

/-- The table entries that are not zero, from the memory cells of a table. -/
def State.entriesIn (s : State) (table size : Nat) : List Nat :=
  ((s.mem.filter fun p => decide (table ≤ p.1) && decide (p.1 < table + size)).map fun p => (p.1 - table) / 16).eraseDups

/-- Every valid leaf below a table. -/
def State.leavesBelow (s : State) : (fuel level table va : Nat) → List Leaf
  | 0, _, _, _ => []
  | n + 1, level, table, va =>
    ((s.entriesIn table (16 * 2 ^ levelBits level)).map fun i =>
      let entry := table + 16 * i
      let e := s.natAt entry 16
      let at' := va + i * 2 ^ levelShift level
      if e % 8 = 1 then s.leavesBelow n (level + 1) (e / 2 ^ 9 % 2 ^ 43 * 2 ^ 9) at'
      else (leafOf at' level entry e).toList).flatten

/-- The leaf whose frame holds a physical address. -/
def State.leafAt (s : State) (loc : Nat) : Option Leaf :=
  (s.leavesBelow 4 0 s.ptRoot 0).find? fun l => l.p && decide (l.frame ≤ loc) && decide (loc < l.frame + l.size)

/-- Has a global line another good copy than the one destroyed (23 R401)? Of the memory's own, a cached one; of a cached one, memory where it is not behind, and holds no
older bytes under a forward mark, and no core's SWM copy of it is dirty, or else the copy of another core. -/
def State.hasCopy (s : State) (loc line : Nat) (cached : Bool) : Bool :=
  let cores := getT [] s.coh.holders line
  if cached then
    decide (2 ≤ cores.length) || ((getT none s.coh.behind line).isNone && (getT none s.coh.stale (loc / 128)).isNone
      && !(s.coh.swm.any fun p => decide (p.1 % 2 ^ 64 = loc / 128) && (p.2.map fun l => !l.dirty.isEmpty).getD false))
  else !cores.isEmpty || s.coh.inSlice line

/-- A line is destroyed, in a cache or in memory: written in the interval, its domain rolls back; a local one that is older ends the domains that hold it; another
good copy makes a global one good; else its page is POISONED (22 R385). -/
def State.loseLine (s : State) (loc : Nat) (cached : Bool) : State :=
  match s.domains.find? fun d => d.undo.any (·.line == loc / 128) with
  | some d => s.failDomain d.id
  | none =>
    if 2 ^ 60 ≤ loc then
      (s.coresOfLoc loc).foldl (fun s c => if s.seamAt c = 0 then s.abortCore c else s.abortDomain (s.seamAt c)) s
    else match s.leafAt loc with
      | none => s
      | some l =>
        if s.hasCopy loc ((l.va + (loc - l.frame)) / 128) cached then s
        else ((s.flushAll l.va l.size).setClass l clsPoisoned).dropTranslations l.va l.size true

/-- Is a domain joined with domains of other modules? What rolls one of these back rolls it back too (23 R407). -/
def State.spansModules (s : State) (dom : Nat) : Bool := ((s.domain? dom).map fun d => !d.peers.isEmpty).getD false

/-- UNCORRECTABLE_ERROR (23 R401); one that struck another member of a joined domain rolls this one back (R407). -/
def execUncorrectableError (what : Destroyed) (s : State) : Host.Outcome State Fault Refusal :=
  .next (match what with
    | .core c => if s.seamAt c = 0 then s.abortCore c else s.failDomain (s.seamAt c)
    | .line loc cached => s.loseLine loc cached
    | .record d => s.abortDomain d
    | .member d => if s.spansModules d then s.failDomain d else s
    | .flit p => (((s.links.writes.filter fun w => w.port == p && w.domain != 0).map fun w => w.domain).eraseDups).foldl State.failDomain s : State).endKernels

/-- The home of a line whose entry is lost recalls it from every die; the line is busy until all have answered, and its entry is then in INIT: what was
under way for it is void (23 R405). -/
def Coherence.recallAll (c : Coherence) (line req : Nat) : Coherence :=
  { c.cleaned line with
    dir := setT none c.dir line none
    written := c.written.filter (· != line)
    busy := { line := line, answers := 4, data := false, req := req } :: c.busy.filter fun b => b.line != line
    msgs := (c.msgs.filter fun m => m.line != line) ++ (List.range 4).map fun d => { kind := msgRecall, line := line, die := d, req := req } }

/-- DIRECTORY_ENTRY_ERROR; where the responses conflict, every domain that holds a copy rolls back (23 R405). -/
def execDirectoryEntryError (line : Nat) (recallError : Bool) (s : State) : Host.Outcome State Fault Refusal :=
  let cores := getT [] s.coh.holders line
  let s := if recallError then ((cores.map s.seamAt).eraseDups).foldl State.failDomain s else s
  .next (s.mapCoh fun c => c.recallAll line (cores.headD 0))

end Sys2Proof.Machine
end

