-- ==== Sys2Proof/Machine/Request.lean ====
section
/-!
DEFINITION. Sys2Proof/Machine/Request.lean: how lysa takes and answers requests (07 R167, R168, R170), and the requests about a kernel that
exists: ABORT, PREEMPT and QUERY.
-/

namespace Sys2Proof.Machine

/-! ### Taking a request (07 R167, R168, R170, 26 R433) -/

/-- Is an Ultra Ethernet port UP, so that a host can be heard? -/
def State.hostReachable (s : State) : Bool := (List.range 4).any fun u => (s.port (96 + u)).state == .up

/-- Does a host's request with one of these OPs reach lysa: after bring-up, from an endpoint that exists, over a port that is UP? -/
def State.heard (s : State) (r : Request) (ops : Nat → Bool) : Bool :=
  match r.source with
  | .host ep => s.platform.stage == 6 && ops r.op && decide (ep < 65536) && s.hostReachable
  | .device .. => false

/-- The number of the next host request that arrives: one more than any that waits has. -/
def State.nextArrival (s : State) : Nat := (s.requests.map (·.arrival)).foldl max 0 + 1

/-- A host's request with one of these OPs arrives, is numbered and waits behind those its endpoint has made before (07 R168). One that has a number waits
already. -/
def State.hear (s : State) (r : Request) (ops : Nat → Bool) : Request × State :=
  if s.heard r ops ∧ r.arrival = 0 then
    let q := { r with arrival := s.nextArrival }
    (q, { s with requests := s.requests ++ [q] })
  else (r, s)

/-- Does a context wait for the pass of its RESEED? A pre-emption waits for the pass to end (11 R261). -/
def State.reseeds (s : State) : Bool := s.allCtxs.any fun (_, _, c) => c.life == .waiting && c.wait.kind == .reseed

/-- Does a collective at which every rank has arrived wait for a carve-out's copies and commands (06 R155)? It completes before a pre-emption goes on
(14 R277). -/
def State.collectivePends (s : State) (owner : Nat) : Bool :=
  s.allKernels.any fun k => k.owner == owner && k.groups.any fun g => s.allArrived k.owner k.knum g.index && k.held.any s.carveHeld

/-- Does a pre-emption in an owner wait? -/
def State.stopWaits (s : State) (owner : Nat) : Bool := s.reseeds || s.collectivePends owner

/-- The kernel a TAG names: the one that has not ended. -/
def State.tagged (s : State) (owner tag : Nat) : Option Kernel :=
  s.allKernels.find? fun k => k.owner == owner && k.tag == tag && k.state != .done && k.state != .aborted && k.state != .defined

/-- Does a PREEMPT wait: for a pass or a collective in its owner, or for the seam that its kernel's domain is COMMITTING (23 R398)? -/
def State.preemptWaits (s : State) (r : Request) : Bool := r.op == 3 && (s.stopWaits r.owner || ((s.tagged r.owner r.tag).map s.seamBars).getD false)

/-- Does lysa take this request now? Bring-up has ended, its OP is one of those asked for, it is the first that waits of its source, and no chunk
runs locked (09 R440). -/
def State.takes (s : State) (r : Request) (ops : Nat → Bool) : Bool :=
  s.platform.stage == 6 && ops r.op && s.requests.find? (fun q => q.source == r.source) == some r && !s.lockStands && !s.preemptWaits r

/-- The request is no longer waiting. -/
def State.takeRequest (s : State) (r : Request) : State := { s with requests := s.requests.erase r }

/-- The owner a request names, where its credential holds; a device thread speaks for its own owner only. -/
def State.credited (s : State) (r : Request) : Option Owner :=
  (s.owner? r.owner).bind fun o =>
    match r.source with
    | .host _ => if o.cred = r.cred ∧ o.state ≠ .retired then some o else none
    | .device _ owner _ => if owner = r.owner ∧ o.state ≠ .retired then some o else none

/-- An ACK that names no kernel. -/
def State.ack (s : State) (r : Request) (status : Nat) : State :=
  s.answer r.source r.chand 0 (s.replyBytes 0x81 status r.owner 0 r.rcb r.tag 0 0 0)

/-- An ACK or QUERY reply about a kernel. -/
def State.ackKernel (s : State) (r : Request) (kind status : Nat) (k : Kernel) : State := s.answer r.source r.chand 0 (s.kernelReply k kind status)

/-- Take a request with one of these OPs and serve it for its owner. -/
def State.serve (s : State) (r : Request) (ops : Nat → Bool) (f : Owner → State → State) : State :=
  let (r, s) := s.hear r ops
  if !s.takes r ops then s
  else
    let s := s.takeRequest r
    match s.credited r with
    | none => s.ack r stBadCred
    | some o => f o s

/-- A domain that has written one of these bytes of an owner's memory in its open interval: lysa waits for that domain's seam (23 R406). -/
def State.openAt (s : State) (domain va n : Nat) : Option Nat :=
  ((List.range ((va % 128 + n + 127) / 128)).filterMap fun i =>
    (s.ownerLoc domain (if i = 0 then va else (va / 128 + i) * 128) 4).bind fun loc => s.foreignDomain 0 (loc / 128)).head?

/-- Take and serve a request that makes lysa read some of its owner's memory. Where a seam domain has written there in its open interval, that domain gets a
seam trigger and the request waits. -/
def State.serveReading (s : State) (r : Request) (ops : Nat → Bool) (reads : Owner → List (Nat × Nat)) (f : Owner → State → State) : State :=
  let (r, s) := s.hear r ops
  match (if s.takes r ops then s.credited r else none) with
  | none => s.serve r ops f
  | some o =>
    match (reads o).findSome? fun (va, n) => s.openAt o.domain va n with
    | some d => s.trigger d 0
    | none => s.serve r ops f

/-- An order about a kernel from outside its seam domain is one of the domain's inputs (23 R406). -/
def State.logOrder (s : State) (k : Kernel) (src : Source) (i : Input) : State :=
  if k.seamDomain = 0 ∨ s.launchedIn k.seamDomain src then s else s.logInput k.seamDomain i

/-! ### ABORT, PREEMPT, QUERY (07 R168) -/

/-- What an ABORT does to a kernel. -/
def State.orderAbort (s : State) (k : Kernel) : State :=
  match k.state with
  | .queued => s.finishKernel { k with aborting := true, status := stAborted }
  | .draining => s.putKernel { k with aborting := true, status := if k.aborting then k.status else stAborted }
  | _ => s.abortKernel k stAborted

/-- ABORT. -/
def execAbort (r : Request) (s : State) : Host.Outcome State Fault Refusal :=
  .next (s.serve r (· == 2) fun _ s =>
    match s.tagged r.owner r.tag with
    | none => s.ack r stNoKernel
    | some k => ((((s.ackKernel r 0x81 stOk k).logOrder k r.source (.abort k.owner k.knum)).orderAbort k).wakeRetries).endKernels)

/-- PREEMPT with RESUME = 0: a RUNNING kernel is pre-empted (06 R149). Lysa first acts on a context of the kernel that has reached FAULTED (06 R146). -/
def execPreempt (r : Request) (s : State) : Host.Outcome State Fault Refusal :=
  .next (if r.mflags % 2 = 1 then s else s.serve r (· == 3) fun _ s =>
    match s.tagged r.owner r.tag with
    | none => s.ack r stNoKernel
    | some k =>
      let s := s.serveFaulted k.owner k.knum
      let k := (s.kernel? k.owner k.knum).getD k
      if k.state = .running then
        (((s.ackKernel r 0x81 stOk k).logOrder k r.source (.preempt k.owner k.knum false)).preemptKernel k false).endKernels
      else (s.ackKernel r 0x81 stBadState k).endKernels)

/-- PREEMPT with RESUME = 1: a PREEMPTED or FAULTED kernel runs on its cores again. One pre-empted for priority waits for them, and lysa resumes it
(KERNEL_RESUME). -/
def execPreemptResume (r : Request) (s : State) : Host.Outcome State Fault Refusal :=
  .next (if r.mflags % 2 = 0 then s else s.serve r (· == 3) fun _ s =>
    match s.tagged r.owner r.tag with
    | none => s.ack r stNoKernel
    | some k =>
      if k.state = .preempted ∨ k.state = .faulted then
        let s := (s.ackKernel r 0x81 stOk k).logOrder k r.source (.preempt k.owner k.knum true)
        if k.forPriority then s else (s.resumeKernel k).endKernels
      else s.ackKernel r 0x81 stBadState k)

/-- QUERY. -/
def execQuery (r : Request) (s : State) : Host.Outcome State Fault Refusal :=
  .next (s.serve r (· == 4) fun _ s =>
    match s.tagged r.owner r.tag with
    | none => s.ack r stNoKernel
    | some k => s.ackKernel r 0x83 stOk k)

/-- The OPs of the launch endpoint (07 R167, 11 R247). -/
def launchOp (op : Nat) : Bool := (1 ≤ op && op ≤ 4) || (20 ≤ op && op ≤ 25)

/-- Take a request with one of these OPs at the administration endpoint, where only a host sends, and serve it if it carries the administrator
credential (11 R246). -/
def State.administer (s : State) (r : Request) (ops : Nat → Bool) (f : State → State) : State :=
  match r.source with
  | .device .. => s
  | .host _ => if !s.heard r ops then s else if r.cred ≠ Config.adminCred then s.ack r stBadCred else f s

/-- BADOP_REQUEST: an OP that the launch endpoint, or the administration endpoint, does not know (07 R167, 11 R246). -/
def execBadopRequest (r : Request) (admin : Bool) (s : State) : Host.Outcome State Fault Refusal :=
  .next (if admin then s.administer r (fun op => !(16 ≤ op && op ≤ 19)) fun s => s.ack r stBadOp
    else s.serve r (fun op => !launchOp op) fun _ s => s.ack r stBadOp)

end Sys2Proof.Machine
end

