-- ==== Sys2Proof/Machine/Launch.lean ====
section
/-!
DEFINITION. Sys2Proof/Machine/Launch.lean: LAUNCH (07 R157 to R161), the placement of kernels (R162, R165, R166, 23 R396) and pre-emption for
priority (R162).
-/

namespace Sys2Proof.Machine

/-! ### Nodes (07 R157 to R159) -/

/-- A node as lysa read it. -/
structure Node where
  addr : Nat
  bytes : List Byte
  deriving DecidableEq, Repr

/-- A field of a node. -/
def Node.field (n : Node) (offset size : Nat) : Nat := ofLeBytes ((n.bytes.drop offset).take size)

/-- Is the SETMASK bit of a field set? -/
def Node.sets (n : Node) (bit : Nat) : Bool := n.field 104 4 / 2 ^ bit % 2 == 1

def Node.parent (n : Node) : Nat := n.field 96 8

/-- Is a zero field nonzero? The bytes of a field that the node does not set are ignored. -/
def Node.bad (n : Node) : Bool :=
  n.field 92 4 != 0 || n.field 130 2 != 0 || n.field 208 48 != 0 || n.field 104 4 / 2 ^ 27 != 0
    || (n.sets 4 && n.field 90 2 / 2 != 0) || (n.sets 5 && n.field 108 1 / 16 != 0)
    || ((n.sets 6 || n.sets 7) && n.field 109 1 / 4 != 0) || (n.sets 10 && n.field 111 1 / 16 != 0)

/-- The chain from a node to its root, the node itself first: at most `fuel` nodes, each readable, aligned and met once. -/
def State.readChain (s : State) (domain : Nat) : (fuel addr : Nat) → (seen : List Nat) → Option (List Node)
  | 0, _, _ => none
  | n + 1, addr, seen =>
    if addr % 64 ≠ 0 ∨ seen.contains addr then none
    else match s.ownerRead domain 256 addr with
      | .error _ => none
      | .ok bytes =>
        let node : Node := { addr := addr, bytes := bytes }
        if node.bad then none
        else if node.parent = 0 then some [node]
        else (s.readChain domain n node.parent (addr :: seen)).map (node :: ·)

/-- The nodes that lysa reads from an address on, as they stand. -/
def State.chainReads (s : State) (domain : Nat) : (fuel addr : Nat) → List (Nat × Nat)
  | 0, _ => []
  | n + 1, addr =>
    match s.ownerRead domain 8 (addr + 96) with
    | .ok p => (addr, 256) :: (if ofLeBytes p = 0 then [] else s.chainReads domain n (ofLeBytes p))
    | .error _ => [(addr, 256)]

/-- The effective value of a field that is inherited. -/
def effective? (chain : List Node) (bit offset size : Nat) : Option Nat := (chain.find? (·.sets bit)).map fun n => n.field offset size

def effective (chain : List Node) (bit offset size default : Nat) : Nat := (effective? chain bit offset size).getD default

/-- FAULTDOM or SEAMDOM of the first node of a chain, which is never inherited: set in a root, clear elsewhere. -/
def ownFlag (chain : List Node) (bit k : Nat) : Bool :=
  match chain with
  | [] => false
  | n :: up => if n.sets bit then n.field 109 1 / 2 ^ k % 2 == 1 else up.isEmpty

/-- The least cap that a chain gives; 0 is no cap (07 R160). -/
def capOf (chain : List Node) (bit offset size : Nat) : Nat :=
  (((chain.filter (·.sets bit)).map fun n => n.field offset size).filter (· != 0)).min?.getD 0

/-- What lysa keeps of each node of the chain; one whose chain gives no CORES bounds nothing. A root always bounds a fault domain (07 R163). -/
def chainOf : List Node → List ChainNode
  | [] => []
  | n :: up =>
    { addr := n.addr, faultDom := up.isEmpty || ownFlag (n :: up) 6 0, seamDom := ownFlag (n :: up) 7 1, cores := effective (n :: up) 11 120 2 65535 } :: chainOf up

/-- FRECLEN and FRECBUF, which only the launched node itself gives. -/
def recordField (chain : List Node) (offset size : Nat) : Nat :=
  match chain with
  | [] => 0
  | n :: _ => if n.sets 26 then n.field offset size else 0

/-- The kernel a chain describes, QUEUED. -/
def kernelOf (o : Owner) (r : Request) (chain : List Node) : Kernel :=
  let f := effective chain
  let cores := f 11 120 2 0
  { owner := o.id, knum := o.knumNext, state := .queued, node := r.rcb, chain := chainOf chain, tag := r.tag, chand := r.chand, source := r.source
    entry := f 0 0 8 0, args := (List.range 8).map fun i => f 1 (8 + 8 * i) 8 0, hlo := f 2 72 8 0, hhi := f 2 80 8 0, threads := f 3 88 2 0
    flags := f 4 90 2 0, prio := f 5 108 1 0, cgran := f 9 110 1 1, dieMask := f 10 111 1 0xF, seed := effective? chain 8 112 8
    gcores := f 12 122 2 cores, ngroups := f 13 124 2 1, l2slices := capOf chain 14 126 2, hbmpc := capOf chain 15 128 2
    bsmib := capOf chain 16 132 4, tvec := f 17 136 8 0, chunkCtl := f 18 144 8 0x400200, tdeleg := f 19 152 4 0, backoff := f 20 156 4 0
    waitTmo := f 21 160 4 0, btmo := f 22 164 4 0, xtmo := f 23 168 4 0, tcmLen := f 24 172 4 0, tcmImg := f 24 176 8 0
    spadImg := f 25 184 8 0, spadLen := f 25 192 4 0, frecLen := recordField chain 196 4, frecBuf := recordField chain 200 8
    kseed := 0, held := [], groups := [], nfault := 0, nentry := 0, dropped := 0, nextEntry := 1, firstFault := false, aborting := false
    status := 0, forPriority := false, completeSent := false, seamDomain := 0, spill := {} }

/-- Does a launch break R158 or the limits of R157? -/
def Kernel.refused (k : Kernel) (chain : List Node) : Bool :=
  (effective? chain 0 0 8).isNone || (effective? chain 3 88 2).isNone || (effective? chain 11 120 2).isNone
    || k.threads == 0 || k.cgran == 0 || decide (8 < k.cgran) || k.gcores == 0 || decide (127 < k.gcores) || k.ngroups == 0 || decide (508 < k.ngroups)
    || (k.hhi != 0 && !(decide (k.hlo ≤ k.entry) && decide (k.entry < k.hhi)))
    || decide (effective chain 11 120 2 0 < k.gcores * k.ngroups) || decide (8 * k.cgran < (k.threads + k.gcores - 1) / k.gcores)
    || k.dieMask == 0 || decide (tcmBytes k.cgran < k.tcmLen) || decide (spadSize < k.spadLen)
    || (k.frecLen != 0 && (k.frecLen % 32 != 0 || decide (k.frecLen < 64) || decide (65536 < k.frecLen))) || k.frecBuf % 64 != 0

/-! ### Counting what fits (07 R160, R161) -/

/-- The clusters of a die in an owner's partition. -/
def Owner.clustersOn (o : Owner) (die : Nat) : List Nat := ((List.range 16).map (16 * die + ·)).filter fun u => o.clusters / 2 ^ u % 2 == 1

/-- Tenant cores of a cluster. -/
def clusterCores (u : Nat) : List Nat := ((List.range 8).map (8 * u + ·)).filter fun c => !isReserved c

/-- The dies a kernel may use. -/
def Kernel.dies (k : Kernel) : List Nat := bitsSet 4 k.dieMask

/-- How many groups of a kernel an empty die of the partition could take. With a scratchpad image every group has clusters to itself, of which cluster 15
has only 7 cores, and one of these serves a group whose size is no multiple of 8. -/
def Kernel.fitsOn (k : Kernel) (o : Owner) (die : Nat) : Nat :=
  let us := o.clustersOn die
  if k.spadLen = 0 then (us.map fun u => (clusterCores u).length).sum / k.gcores
  else if k.gcores % 8 = 0 then (us.filter fun u => u % 16 != 15).length / (k.gcores / 8)
  else us.length / ((k.gcores + 7) / 8)

/-- The fewest cores a kernel could hold. -/
def Kernel.leastHeld (k : Kernel) (o : Owner) : Nat :=
  if k.spadLen = 0 then k.gcores * k.ngroups
  else
    let sevens := if k.gcores % 8 = 0 then 0 else (k.dies.filter fun d => (o.clustersOn d).contains (16 * d + 15)).length
    k.ngroups * (8 * ((k.gcores + 7) / 8)) - min k.ngroups sevens

/-! ### Choosing cores (07 R166) -/

/-- Cores of a die that a group may take, of those that are free; with a scratchpad image those of wholly free clusters. -/
def Kernel.eligible (k : Kernel) (o : Owner) (isFree : Nat → Bool) (taken : List Nat) (die : Nat) : List Nat :=
  let free := fun (c : Nat) => isFree c && !taken.contains c
  o.cores.filter fun c => dieOf c == die && free c && (k.spadLen == 0 || (clusterCores (clusterOf c)).all free)

/-- Put a core into a list by key, lower core ids first among equals. -/
def insertByKey (x : Nat × Nat) : List (Nat × Nat) → List (Nat × Nat)
  | [] => [x]
  | y :: rest => if x.1 < y.1 ∨ (x.1 = y.1 ∧ x.2 < y.2) then x :: y :: rest else y :: insertByKey x rest

/-- The cores of group j, in group-core-index order. -/
def Kernel.placeGroup (k : Kernel) (o : Owner) (isFree : Nat → Bool) (seed : Word) (taken : List Nat) (j : Nat) : Option (List Nat) :=
  let cand := k.dies.filter fun d => decide (k.gcores ≤ (k.eligible o isFree taken d).length)
  (pick cand (draw seed o.id classL2Slice (k.knum * 2 ^ 8 ^^^ j))).map fun d =>
    ((((k.eligible o isFree taken d).map fun c => (draw seed o.id classL2Slice (j * 2 ^ 9 ||| c), c)).foldl (fun l x => insertByKey x l) []).map (·.2)).take k.gcores

/-- What a group holds: its cores, or every tenant core of its clusters (07 R160). -/
def Kernel.holds (k : Kernel) (cores : List Nat) : List Nat :=
  if k.spadLen = 0 then cores else ((cores.map clusterOf).eraseDups.map clusterCores).flatten

/-- Place so many groups, the earlier ones first: the groups, and every core taken. -/
def Kernel.placeGroups (k : Kernel) (o : Owner) (isFree : Nat → Bool) (seed : Word) : (n : Nat) → Option (List Group × List Nat)
  | 0 => some ([], [])
  | n + 1 =>
    (k.placeGroups o isFree seed n).bind fun (gs, taken) =>
      (k.placeGroup o isFree seed taken n).map fun cores =>
        (gs ++ [{ index := n, state := .running, cores := cores, retired := [], lost := none }], taken ++ k.holds cores)

/-- The seed a kernel latches (07 R165). -/
def Kernel.latch (k : Kernel) (o : Owner) : Word :=
  match k.seed with
  | some v => BitVec.ofNat 64 v
  | none => o.seed

/-! ### What could ever fit (07 R160, R161) -/

/-- Does some subset of a list, with what has been chosen, meet a condition? The whole list is tried first. -/
def anySubset (p : List Nat → Bool) : (chosen : List Nat) → List Nat → Bool
  | chosen, [] => p chosen
  | chosen, x :: xs => anySubset p (x :: chosen) xs || anySubset p chosen xs

/-- Would a kernel with a scratchpad image and a seed of its own be placed, within every budget, were just these clusters free? Which cores its groups take is
then settled by the seed and its number. -/
def Kernel.fitsIn (k : Kernel) (o : Owner) (seed : Word) (clusters : List Nat) : Bool :=
  match k.placeGroups o (fun c => clusters.contains (clusterOf c)) seed k.ngroups with
  | some (_, held) => k.chain.all fun n => decide (held.length ≤ n.cores)
  | none => false

/-- Is a launch one that could never be placed (07 R161)? The launched node's own CORES counts with its ancestors', since R160 holds the kernel to it too:
DEDUCED, log 122. -/
def Kernel.neverFits (k : Kernel) (o : Owner) : Bool :=
  k.chain.any (fun n => decide (n.cores < k.leastHeld o)) || decide ((k.dies.map (k.fitsOn o)).sum < k.ngroups)
    || (k.spadLen != 0 && match k.seed with
      | some v => !anySubset (k.fitsIn o (BitVec.ofNat 64 v)) [] (k.dies.map o.clustersOn).flatten
      | none => false)

/-- LAUNCH: a free TAG and a chain in order make a QUEUED kernel with the owner's next number (07 R158, R161, R164, R168). -/
def execLaunch (r : Request) (s : State) : Host.Outcome State Fault Refusal :=
  .next (s.serveReading r (· == 1) (fun o => s.chainReads o.domain 8 r.rcb) fun o s =>
    if (s.tagged r.owner r.tag).isSome then s.ack r stBusy
    else match s.readChain o.domain 8 r.rcb [] with
      | none => s.ack r stBadRcb
      | some chain =>
        let k := kernelOf o r chain
        if k.refused chain then s.ack r stBadRcb
        else if k.neverFits o then s.ack r stNoFit
        else ((s.putOwner { o with knumNext := (o.knumNext + 1) % 2 ^ 32 }).putKernel k).ackKernel r 0x81 stOk k)

/-- Where a kernel would go now. -/
def State.placement (s : State) (k : Kernel) (o : Owner) : Option (List Group × List Nat) := k.placeGroups o s.coreFree (k.latch o) k.ngroups

/-! ### Seam domains (23 R396) -/

/-- The node that bounds a kernel's domain. -/
def Kernel.boundNode (k : Kernel) : Nat := ((k.chain.find? (·.seamDom)).map (·.addr)).getD 0

/-- The live domain a kernel joins: the one whose root kernel was launched from its bounding node. A kernel that bounds a domain makes its own. -/
def State.joins (s : State) (k : Kernel) : Option SeamDomain :=
  match k.chain with
  | [] => none
  | n :: _ =>
    if n.seamDom then none
    else s.domains.find? fun d => d.owner == k.owner && ((s.kernel? d.owner d.root).map (·.node)) == some k.boundNode

/-- Is a kernel in a seam domain at all: is SEAMDOM 1 at a node of its chain (23 R396)? -/
def Kernel.inDomain (k : Kernel) : Bool := k.chain.any (·.seamDom)

/-- The lowest id that no live domain has. -/
def State.freeDomainId (s : State) : Option Nat := ((List.range 4095).map (· + 1)).find? fun i => (s.domain? i).isNone

/-- Bytes of the second tier that lysa gives an undo log, and the entries they hold at most. -/
def undoBytes : Nat := 2 ^ 21
def undoEntries : Nat := undoBytes / 128

/-- A domain as its root kernel enters PLACING. -/
def newDomain (id owner root logBase now : Nat) : SeamDomain :=
  { id := id, owner := owner, root := root, seq := 0, state := .opened, lastTag := 0, nextTag := 0, interval := 1000000, logFull := 192
    began := now, undo := [], logBase := logBase, capacity := min Config.undoCapacity undoEntries
    checkpoint := { kernels := [], requests := [], swm := [], written := [], ctxs := [], cores := [], clusters := [] }
    inputs := [], triggered := false, pending := none, peers := [], ready := [] }

/-- Does a queued kernel wait for a domain's id only? -/
def State.waitsForId (s : State) (j : Kernel) : Bool :=
  j.state == .queued && j.idWait && match s.owner? j.owner with
    | some o => match s.placement j o with
      | some (_, held) => s.withinBudget j held.length
      | none => false
    | none => false

/-- Is a free id this kernel's: of those that wait for one it has the lowest number (of equal numbers the lower owner's), or none waits (23 R396)? -/
def State.idTurn (s : State) (k : Kernel) : Bool :=
  (s.allKernels.filter fun j => s.waitsForId j && !(j.owner == k.owner && j.knum == k.knum)).all fun j =>
    k.idWait && (decide (k.knum < j.knum) || (k.knum == j.knum && decide (k.owner < j.owner)))

/-- The domain a kernel enters, 0 where it is in none; made, with its undo log, if it is its root. None while there is no id for it. -/
def State.enterDomain (s : State) (k : Kernel) : Option (Nat × State) :=
  match s.joins k with
  | some d => some (d.id, s)
  | none =>
    if !k.inDomain then some (0, s)
    else if !s.idTurn k then none
    else s.freeDomainId.bind fun id => (s.reserveLysa undoBytes).map fun (base, s) =>
      (id, { s with domains := s.domains ++ [newDomain id k.owner k.knum base s.gct] })

/-! ### Placing (07 R165) -/

/-- Bytes of an image, or the cause and address of the fault that reading it meets. -/
def State.readImage (s : State) (domain size va : Nat) : Except (Nat × Nat) (List Byte) :=
  match s.ownerRead domain size va with
  | .ok bs => .ok bs
  | .error a =>
    let protect := inWindowRegion a || (match s.walk a with | some l => l.p && l.cls != clsPoisoned | none => false)
    .error (if protect then causeProtect else causePageFault, a)

/-- A domain that has written an image of a kernel in its open interval (23 R406). -/
def State.imageOpen (s : State) (k : Kernel) (o : Owner) : Option Nat :=
  [(k.tcmImg, k.tcmLen), (k.spadImg, k.spadLen)].findSome? fun (va, n) => if n = 0 then none else s.openAt o.domain va n

/-- The K-scope registers a kernel starts with (06 R137). -/
def Kernel.regs (k : Kernel) (o : Owner) (seed : Word) : KRegs :=
  let w := BitVec.ofNat 64
  [(0x004, w k.tvec), (0x020, o.seed), (0x021, seed), (0x032, w k.backoff), (0x033, w k.hlo), (0x034, w k.hhi), (0x038, w k.waitTmo), (0x039, w k.btmo)
   , (0x03A, w k.xtmo), (0x048, w k.chunkCtl), (0x071, w o.flogBase), (0x075, w k.tdeleg)].foldl (fun r (i, v) => r.put i v) KRegs.reset

/-- A core as a kernel takes it: its carve-out is CGRAN, its queue is EMPTY, nothing of an earlier kernel is left. -/
def Core.take (c : Core) (k : Kernel) (o : Owner) (seed : Word) (group : Nat) : Core :=
  { Core.reset with
    k := k.regs o seed, plbEn := c.plbEn, rangeBase := c.rangeBase, seamCtl := c.seamCtl, spared := c.spared, plb := c.plb
    carveCur := k.cgran, carveReq := 0, owner := o.id, domain := o.domain, knum := k.knum, group := group, queueMode := .active }

/-- The group of a core; one that a scratchpad image adds belongs to the group that brought its cluster. -/
def groupOf (gs : List Group) (core : Nat) : Nat :=
  match gs.find? (fun g => g.cores.contains core) with
  | some g => g.index
  | none => ((gs.find? fun g => (g.cores.map clusterOf).contains (clusterOf core)).map (·.index)).getD 0

/-- A cluster that no other kernel used is zeroed, and its matrix unit reset (17 R330); commands of remote requesters stay. -/
def State.openCluster (s : State) (u : Nat) : State :=
  (s.zeroBytes (spadLoc u 0) (2 ^ 22)).mapCluster u fun x => { Cluster.reset with queue := x.queue, remoteDone := x.remoteDone, contexts := x.contexts }

/-- Take the cores: clusters that were free first, then each core with its contexts and TCM zeroed and its format context reset (07 R165 step 2, 17 R335). -/
def State.takeCores (s : State) (k : Kernel) (o : Owner) (seed : Word) (gs : List Group) (held : List Nat) : State :=
  let fresh := (held.map clusterOf).eraseDups.filter fun u => (clusterCores u).all s.coreFree
  let s := fresh.foldl State.openCluster (s.flushCores held)
  let s : State := { s with ctxs := s.ctxs.filter (fun p => !held.contains (p.1 / 64)), ctx := if held.contains s.cur.1 then Context.free else s.ctx }
  held.foldl (fun s c =>
    ((s.zeroBytes (tcmLoc c 0) (2 ^ 20)).mapCore c fun x => x.take k o seed (groupOf gs c)).mapCluster (clusterOf c) fun u =>
      { u with contexts := u.contexts.setIfInBounds (c % 8) FormatContext.reset }) s

/-- The images go to every core and every cluster held (07 R165 step 3). -/
def State.loadImages (s : State) (held : List Nat) (tcm spad : List Byte) : State :=
  let s := held.foldl (fun s c => s.setBytes (tcmLoc c 0) tcm) s
  (held.map clusterOf).eraseDups.foldl (fun s u => s.setBytes (spadLoc u 0) spad) s

/-- A thread at its start (06 R133). -/
def Kernel.thread (k : Kernel) (o : Owner) (kr : KRegs) (group rank : Nat) : Context :=
  let regs : List Nat := [0, rank, k.threads, group] ++ k.args ++ [k.node, tcmWindow + tcmBytes k.cgran, 0, 0]
  let a := { Arch.zero with regs := Vector.ofFn fun i => BitVec.ofNat 64 (regs.getD i.val 0), pc := BitVec.ofNat 64 k.entry }
  { Context.free with
    life := .ready, arch := a, chunk := freshChunk kr a, owner := o.id, domain := o.domain, knum := k.knum, group := group, rank := rank }

/-- Rank r of a group starts on group core r mod GCORES (07 R166), in that core's next slot. -/
def State.startThreads (s : State) (k : Kernel) (o : Owner) (kr : KRegs) (g : Group) : State :=
  (List.range k.threads).foldl (fun s r =>
    s.setCtxAt (g.cores.getD (r % k.gcores) 0) (r / k.gcores) (k.thread o kr g.index r)) s

/-- A placement whose image cannot be read is undone: the kernel ends ABORTED with an entry of ETYPE 5 (07 R165). -/
def State.imageFault (s : State) (k : Kernel) (cause va : Nat) : State :=
  let s := s.recordEvent k.owner k.knum
    { cause := cause, etype := 5, eflags := 0, core := 0, group := 0, rank := 0xFFFFFFFF, port := 0, pc := 0, value := va }
  match s.kernel? k.owner k.knum with
  | some k => s.finishKernel { k with aborting := true, status := stAborted }
  | none => s

/-- PLACING, to its end (07 R165). -/
def State.placeKernel (s : State) (k : Kernel) (o : Owner) (gs : List Group) (held : List Nat) (dom : Nat) : State :=
  let seed := k.latch o
  match s.readImage o.domain k.tcmLen k.tcmImg, s.readImage o.domain k.spadLen k.spadImg with
  | .error (cause, va), _ => s.imageFault k cause va
  | .ok _, .error (cause, va) => s.imageFault k cause va
  | .ok tcm, .ok spad =>
    let s := (s.takeCores k o seed gs held).loadImages held tcm spad
    let s := s.putKernel { k with state := .running, kseed := seed, held := held, groups := gs, seamDomain := dom, idWait := false }
    gs.foldl (fun s g => s.startThreads k o (k.regs o seed) g) s

/-! ### The order of placement (07 R162) -/

/-- Does a queued kernel come before another of its owner? -/
def Kernel.ahead (j k : Kernel) : Bool := j.owner == k.owner && j.state == .queued && (decide (k.prio < j.prio) || (j.prio == k.prio && decide (j.knum < k.knum)))

/-- Does a kernel wait for its subtree's budget or a domain's id only, and so not for cores? -/
def State.heldBack (s : State) (k : Kernel) (o : Owner) : Bool :=
  match s.placement k o with
  | some (_, held) => !s.withinBudget k held.length || k.idWait
  | none => false

/-- Is it a queued kernel's turn? No kernel before it waits for cores. -/
def State.turn (s : State) (k : Kernel) (o : Owner) : Bool := (s.allKernels.filter fun j => j.ahead k).all fun j => s.heldBack j o

/-- KERNEL_PLACEMENT: a queued kernel whose turn it is, and whose cores, budget and domain id are there, is placed, and its threads start. The domain it founds has
its first checkpoint then. One that only wants an id waits for it. -/
def execKernelPlacement (owner knum : Nat) (s : State) : Host.Outcome State Fault Refusal :=
  match s.kernel? owner knum, s.owner? owner with
  | some k, some o =>
    if k.state ≠ .queued ∨ o.state ≠ .active ∨ !s.turn k o then .next s
    else match s.placement k o with
      | none => .next s
      | some (gs, held) =>
        if !s.withinBudget k held.length then .next s
        else if (s.imageOpen k o).isSome then .next (s.trigger ((s.imageOpen k o).getD 0) 0)
        else match s.enterDomain k with
          | none => .next (s.putKernel { k with idWait := true })
          | some (dom, t) =>
            let founded := dom ≠ 0 ∧ (s.domain? dom).isNone
            let t := t.placeKernel k o gs held dom
            if ((t.kernel? owner knum).map (·.state)) ≠ some .running then .next (if founded then { t with domains := s.domains, frames := s.frames } else t)
            else .next (if founded then t.mapDomain dom fun d => { d with checkpoint := t.checkpoint dom } else t)
  | _, _ => .next s

/-! ### Pre-emption for priority (07 R162) -/

/-- Put a victim into the order of pre-emption: lowest priority first, the latest number first within one. -/
def insertVictim (x : Kernel) : List Kernel → List Kernel
  | [] => [x]
  | y :: rest => if x.prio < y.prio ∨ (x.prio = y.prio ∧ y.knum < x.knum) then x :: y :: rest else y :: insertVictim x rest

/-- The state with the cores of some kernels free, as placement would see it. -/
def State.without (s : State) (ks : List Kernel) : State :=
  ks.foldl (fun s k => (k.held.foldl (fun s c => s.mapCore c fun x => { x with knum := 0 }) s).putKernel { k with held := [] }) s

/-- Could a kernel be placed if these were pre-empted? -/
def State.placeable (s : State) (k : Kernel) (o : Owner) (victims : List Kernel) : Bool :=
  match (s.without victims).placement k o with
  | some (_, held) => (s.without victims).withinBudget k held.length
  | none => false

/-- The victims of a queued kernel: the shortest run of them, in the order of pre-emption, that makes room. -/
def State.victims (s : State) (k : Kernel) (o : Owner) : Option (List Kernel) :=
  let all := (s.allKernels.filter fun j => j.owner == k.owner && j.state == .running && decide (j.prio < k.prio)).foldl (fun l x => insertVictim x l) []
  ((List.range (all.length + 1)).find? fun n => s.placeable k o (all.take n)).map fun n => all.take n

/-- The kernels of an owner that were pre-empted for priority and still drain. -/
def State.drainingFor (s : State) (owner : Nat) : List Kernel := s.allKernels.filter fun j => j.owner == owner && j.state == .preempted && j.forPriority && j.held != []

/-- Are a spilled kernel's cores released to a queued kernel of higher priority, which the cores free now and those about to be would serve (07 R162)? -/
def State.claimed (s : State) (k : Kernel) : Bool :=
  match s.owner? k.owner with
  | some o => s.allKernels.any fun j => j.owner == k.owner && j.state == .queued && decide (k.prio < j.prio) && s.turn j o && s.placeable j o (s.drainingFor k.owner)
  | none => false

/-- KERNEL_RESUME: a kernel pre-empted for priority takes its own cores again once they are free and its ancestors' budgets allow it (07 R168). One
whose cores have not been released yet runs on. While its cores would serve the queued kernel they are released to (07 R162), it waits. -/
def execKernelResume (owner knum : Nat) (s : State) : Host.Outcome State Fault Refusal :=
  match s.kernel? owner knum with
  | some k =>
    if k.state ≠ .preempted ∨ !k.forPriority ∨ k.held ≠ [] ∨ !s.canFill k ∨ !s.firstSpilled k ∨ s.claimed k then .next s
    else
      let s := s.fillKernel k
      .next (((s.kernel? owner knum).map s.resumeKernel).getD s).endKernels
  | none => .next s

/-- Does a RUNNING kernel of an owner have a FAULTED context that lysa has yet to act on (06 R146)? -/
def State.faultPends (s : State) (owner : Nat) : Bool :=
  s.allCtxs.any fun (_, _, c) => c.owner == owner && c.life == .faulted && ((s.kernel? owner c.knum).map fun k => k.state == .running).getD false

/-- PRIORITY_PREEMPTION: lysa pre-empts RUNNING kernels of lower priority for a queued kernel whose turn it is, if they alone make room; none while earlier victims still
drain, a RESEED's pass is under way (11 R261), a collective completes (14 R277), a FAULTED context waits for lysa, or a seam of a victim's domain is
COMMITTING (23 R398). -/
def execPriorityPreemption (owner knum : Nat) (s : State) : Host.Outcome State Fault Refusal :=
  match s.kernel? owner knum, s.owner? owner with
  | some k, some o =>
    if k.state ≠ .queued ∨ o.state ≠ .active ∨ s.drainingFor owner ≠ [] ∨ s.lockStands ∨ s.stopWaits owner ∨ s.faultPends owner ∨ !s.turn k o then .next s
    else match s.victims k o with
      | none => .next s
      | some vs => .next (if vs.any s.seamBars then s else (vs.foldl (fun s v => s.preemptKernel v true) s).endKernels)
  | _, _ => .next s

end Sys2Proof.Machine
end

