-- ==== Sys2Proof/Machine/Signature.lean ====
section
/-!
DEFINITION. Sys2Proof/Machine/Signature.lean: the check of an image's signature (24 R425): RSASSA-PSS with RSA-4096, SHA-512, MGF1 with SHA-512 and a
salt of 64 bytes. The steps of the scheme are those of its standard (PKCS #1, RFC 8017), which the spec names and does not print: PRESUMED, log 223.
-/

namespace Sys2Proof.Machine

/-- b to the power e modulo n; `fuel` bounds the bits of e. -/
def powMod (n : Nat) : (fuel b e : Nat) → Nat
  | 0, _, _ => 1 % n
  | k + 1, b, e =>
    let h := powMod n k (b * b % n) (e / 2)
    if e % 2 = 1 then b * h % n else h

/-- MGF1 with SHA-512: n bytes of mask. -/
def mgf1 (seed : List Byte) (n : Nat) : List Byte := (((List.range ((n + 63) / 64)).map fun i => sha512 (seed ++ beBytes 4 i)).flatten).take n

/-- EMSA-PSS for 4,095 bits: does an encoded message of 512 bytes hold this message? -/
def pssHolds (message em : List Byte) : Bool :=
  let masked := em.take 447
  let h := (em.drop 447).take 64
  let db := (masked.zip (mgf1 h 447)).map fun (x, y) => x ^^^ y
  let db := match db with
    | [] => []
    | b :: rest => (b &&& 0x7F) :: rest
  decide (em.length = 512) && em.getLast? == some 0xBC && masked.head?.all (fun b => b.toNat < 128)
    && db.take 382 == List.replicate 382 0 && db[382]? == some 1
    && sha512 (List.replicate 8 0 ++ sha512 message ++ db.drop 383) == h

/-- RSASSA-PSS: does a signature of 512 bytes verify under a public key? -/
def pssVerifies (modulus exponent : Nat) (message signature : List Byte) : Bool :=
  let v := ofBeBytes signature
  decide (signature.length = 512) && decide (2 ^ 4095 ≤ modulus) && decide (modulus < 2 ^ 4096) && decide (v < modulus)
    && pssHolds message (beBytes 512 (powMod modulus 4096 v exponent))

/-- An image is taken as its bytes with the key and the signature that come with it: the key's digest is the fused one, and the signature verifies. Where in an image
the key and the signature stand, and how a key is written, is open: free values, log 223. -/
def signatureValid (image : List Byte) : Bool :=
  let key := Config.imageKey image
  let (modulus, exponent) := Config.keyNumbers key
  sha512 key == Config.rootDigest && pssVerifies modulus exponent (Config.signedPart image) (Config.imageSignature image)

/-- Does an image pass the checks of boot and update: key, signature, and a 32-bit security version not below the fused counter? -/
def imagePasses (image : List Byte) (version fused : Nat) : Bool := signatureValid image && decide (fused ≤ version) && decide (version < 2 ^ 32)

end Sys2Proof.Machine
end

