-- ==== Sys2Proof/Machine/Service.lean ====
section
/-!
DEFINITION. Sys2Proof/Machine/Service.lean: the memory requests of an owner (11 R247, R248) and RDMA into its windows (24 R419).
-/

namespace Sys2Proof.Machine

/-! ### Descriptors -/

/-- A field of a descriptor. -/
def descField (d : List Byte) (offset n : Nat) : Nat := ofLeBytes ((d.drop offset).take n)

/-- Is a byte of a descriptor from this offset on nonzero? -/
def descTail (d : List Byte) (offset : Nat) : Bool := (d.drop offset).any (· != 0)

def descBase (d : List Byte) : Nat := descField d 0 8
def descSize (d : List Byte) : Nat := descField d 8 8

/-- Do BASE and SIZE name an extent that a request takes (11 R247)? -/
def descExtent (d : List Byte) : Bool := extentOk (descBase d) (descSize d) && decide (descBase d + descSize d ≤ tcmWindow)

/-- A host's MAP, POPULATE or FAULTANS makes its source the owner's host driver (11 R248). -/
def State.noteDriver (s : State) (o : Owner) (r : Request) : State :=
  match r.source with
  | .host ep => if r.op = 20 ∨ r.op = 22 ∨ r.op = 25 then s.putOwner { o with driver := some ep } else s
  | .device .. => s

/-- Serve a memory request: lysa reads the 64-byte descriptor, and `f` gives the status and the state where the request takes effect. -/
def State.serveMemory (s : State) (r : Request) (op : Nat) (f : Owner → List Byte → State → Nat × State) : State :=
  s.serveReading r (· == op) (fun _ => [(r.rcb, 64)]) fun o s =>
    let s := s.noteDriver o r
    let o := (s.owner? o.id).getD o
    match (if r.rcb % 64 = 0 then s.ownerRead o.domain 64 r.rcb else .error 0) with
    | .error _ => s.ack r stBadRcb
    | .ok d => let (status, t) := f o d s; (if status = stOk then t else s).ack r status

/-! ### MAP (11 R247) -/

/-- Rights as a descriptor gives them, [0] read, [1] write, [2] execute, in the order of a leaf. -/
def leafRights (r : Nat) : Nat := r % 2 * 4 + r / 2 % 2 * 2 + r / 4 % 2

/-- The pages that cover an extent, the largest that BASE and what is left allow first. -/
def pageSplit : (fuel : Nat) → (va left largest : Nat) → List (Nat × Nat)
  | 0, _, _, _ => []
  | n + 1, va, left, largest =>
    if left < 2 ^ 16 then []
    else
      let size := if 2 ^ 30 ≤ largest ∧ va % 2 ^ 30 = 0 ∧ 2 ^ 30 ≤ left then 2 ^ 30 else if va % 2 ^ 21 = 0 ∧ 2 ^ 21 ≤ left then 2 ^ 21 else 2 ^ 16
      (va, size) :: pageSplit n (va + size) (left - size) largest

def pagesOver (base size largest : Nat) : List (Nat × Nat) := pageSplit (size / 65536) base size largest

/-- Is a MAP descriptor malformed? -/
def mapBad (d : List Byte) : Bool :=
  let f := descField d
  !descExtent d || inZeroPage (descBase d) || decide (7 < f 16 1) || decide (31 < f 17 1) || decide (2 < f 19 1) || decide (4095 < f 20 2) || decide (7 < f 22 1) || descTail d 23
    || (f 17 1 / 8 % 2 == 1 && decide (3 < f 18 1))

/-- Map one page as a descriptor says. -/
def State.mapPage (s : State) (o : Owner) (d : List Byte) (va size : Nat) : Option State :=
  let f := descField d
  let flags := f 17 1
  let home := if flags / 8 % 2 = 1 then f 18 1 else o.drawHome va
  let leaf : Leaf :=
    { va := va, size := size, entry := 0, cls := f 19 1, pcore := 0, gdom := f 20 2, grights := leafRights (f 22 1), domain := o.domain
      rights := leafRights (f 16 1), home := home, frame := 0, h := flags / 2 % 2 == 1, p := flags % 2 == 0 }
  if flags % 2 = 1 then s.putLeaf leaf
  else (s.allocFrame o (flags / 4 % 2 == 1) home size (flags / 16 % 2 == 0)).bind fun (frame, s) => s.putLeaf { leaf with frame := frame }

/-- MAP. -/
def execMap (r : Request) (s : State) : Host.Outcome State Fault Refusal :=
  .next (s.serveMemory r 20 fun o d s =>
    if mapBad d then (stBadRcb, s)
    else if !(s.leaves (descBase d) (descSize d)).isEmpty then (stBusy, s)
    else match (pagesOver (descBase d) (descSize d) (2 ^ 30)).foldlM (fun s (va, size) => s.mapPage o d va size) s with
      | none => (stNoFit, s)
      | some t => (stOk, t))

/-! ### UNMAP and POPULATE (11 R247) -/

/-- Clear V of a leaf. -/
def State.clearLeaf (s : State) (l : Leaf) : State := s.setNat l.entry 16 0

/-- A leaf that lies only partly inside an extent becomes smaller ones over the rest of it, which keep its frames, home, class and rights. -/
def State.splitLeaf (s : State) (l : Leaf) (base size : Nat) : Option State :=
  let hi := base + size
  let below := if l.va < base then pagesOver l.va (base - l.va) (2 ^ 21) else []
  let above := if hi < l.va + l.size then pagesOver hi (l.va + l.size - hi) (2 ^ 21) else []
  let owner := ((s.frames.find? fun (_, b, n) => b == l.frame && n == l.size).map (·.1)).getD 0
  (below ++ above).foldlM (fun s (va, n) =>
    (s.putLeaf { l with va := va, size := n, frame := if l.p then l.frame + (va - l.va) else 0 }).map fun s =>
      if l.p then { s with frames := (owner, l.frame + (va - l.va), n) :: s.frames } else s)
    { s.clearLeaf l with frames := s.frames.filter fun (_, b, n) => !(l.p && b == l.frame && n == l.size) }

/-- Unmap the leaves of an extent: copies in flight complete, V is cleared, the extent is shot down and flushed, and its frames are free (22 R389). -/
def State.unmapLeaves (s : State) (ls : List Leaf) (base size : Nat) : Option State :=
  (ls.foldlM (fun s l =>
    if base ≤ l.va ∧ l.va + l.size ≤ base + size then some ((s.clearLeaf l).freeFrames (if l.p then l.frame else 0) (if l.p then l.size else 0))
    else s.splitLeaf l base size) (s.drainCopies base size)).map fun s => s.shoot base size true

/-- The owner's own leaves in an extent. -/
def State.ownLeaves (s : State) (o : Owner) (base size : Nat) : List Leaf := (s.leaves base size).filter fun l => l.domain == o.domain

/-- Does an UNMAP wait for copies in flight to or from its extent (22 R389)? -/
def State.unmapWaits (s : State) (r : Request) : Bool :=
  let (r, s) := s.hear r (· == 21)
  match (if s.takes r (· == 21) ∧ r.rcb % 64 = 0 then s.credited r else none) with
  | some o =>
    match s.ownerRead o.domain 64 r.rcb with
    | .ok d => descExtent d && !descTail d 16 && !(s.ownLeaves o (descBase d) (descSize d)).isEmpty && s.copiesHold (descBase d) (descSize d)
    | .error _ => false
  | none => false

/-- UNMAP: it waits until what is in flight to or from its extent has ended. -/
def execUnmap (r : Request) (s : State) : Host.Outcome State Fault Refusal :=
  .next <| if s.unmapWaits r then (s.hear r (· == 21)).2 else (s.serveMemory r 21 fun o d s =>
    let ls := s.ownLeaves o (descBase d) (descSize d)
    if !descExtent d ∨ descTail d 16 then (stBadRcb, s)
    else if ls.isEmpty then (stNoKernel, s)
    else match s.unmapLeaves ls (descBase d) (descSize d) with
      | none => (stNoFit, s)
      | some t => (stOk, t))

/-- POPULATE. -/
def execPopulate (r : Request) (s : State) : Host.Outcome State Fault Refusal :=
  .next (s.serveMemory r 22 fun o d s =>
    let flags := descField d 16 1
    let ls := s.ownLeaves o (descBase d) (descSize d)
    if !descExtent d ∨ descTail d 17 ∨ flags % 4 ≠ 0 ∨ flags / 8 % 2 ≠ 0 ∨ 31 < flags then (stBadRcb, s)
    else if ls.isEmpty then (stNoKernel, s)
    else match ls.foldlM (fun s l => s.present l (flags / 4 % 2 == 1) (flags / 16 % 2 == 0)) s with
      | none => (stNoFit, s)
      | some t => (stOk, t))

/-! ### WINDOW, RANGES, FAULTANS (11 R247) -/

/-- WINDOW. -/
def execWindow (r : Request) (s : State) : Host.Outcome State Fault Refusal :=
  .next (s.serveMemory r 23 fun o d s =>
    let index := descField d 16 1
    let rights := descField d 17 1
    let base := descBase d
    let size := descSize d
    let others := o.windows.filter (·.1 != index)
    if !descExtent d ∨ descTail d 18 ∨ 15 < index ∨ rights / 4 % 32 ≠ 0 then (stBadRcb, s)
    else if rights / 128 = 1 then (stOk, s.putOwner { o with windows := others })
    else if others.any fun (_, b, n, _) => decide (b < base + size) && decide (base < b + n) then (stBusy, s)
    else (stOk, s.putOwner { o with windows := others ++ [(index, base, size, rights % 4)] }))

/-- The core whose CR_RANGEBASE lysa uses. -/
def rangeCore : Nat := 0x07F

/-- The entries of the range table in use. -/
def State.rangeEntries (s : State) : List RangeEntry := (List.range 256).filterMap (s.rangeEntry rangeCore)

/-- Can an owner reach a mapped page of an extent (10 R230)? -/
def State.reachesPage (s : State) (o : Owner) (base size : Nat) : Bool :=
  (s.leaves base size).any fun l => l.domain == o.domain || (l.gdom == o.domain && l.grights != 0)

/-- Write a new entry of the range table, its word 2 last (10 R230). -/
def State.putRange (s : State) (i base size owner slot : Nat) : State :=
  let a := (s.core rangeCore).rangeBase.toNat + 32 * i
  let w := fun (s : State) (k v : Nat) => s.foreignWrite 0 0 (a + 8 * k) (a / 128) (leBytes 8 v)
  w (w (w (w s 0 base) 1 size) 3 0) 2 (2 ^ 63 + owner * 2 ^ 32 + (if s.kindOf slot = kindSwm then 2 ^ 8 else 0) + slot)

/-- The slot a PROTO asks for: the first loaded one of its kind. -/
def State.slotOf (s : State) (proto : Nat) : Option Nat := (List.range 16).find? fun n => ((getT none s.slots n).map (·.kind)) == some proto

/-- Apply one .ranges entry: a status, and the state where it is OK. -/
def State.applyRange (s : State) (o : Owner) (e : List Byte) : Nat × State :=
  let base := descBase e
  let size := descSize e
  let mine := s.rangeEntries.filter fun x => x.owner == o.id
  if !descExtent e ∨ 6 < descField e 16 1 ∨ descTail e 17 then (stBadRcb, s)
  else if s.reachesPage o base size || mine.any (fun x => decide (x.base < base + size) && decide (base < x.base + x.size)) then (stBusy, s)
  else match (List.range 256).find? fun i => (s.rangeEntry rangeCore i).isNone, s.slotOf (descField e 16 1) with
    | some i, some slot => if 64 ≤ mine.length then (stNoFit, s) else (stOk, s.putRange i base size o.id slot)
    | _, _ => (stNoFit, s)

/-- Apply entries in order; the first that is refused refuses them all. -/
def State.applyRanges (s : State) (o : Owner) (bytes : List Byte) : (n : Nat) → Nat × State
  | 0 => (stOk, s)
  | n + 1 =>
    match s.applyRanges o bytes n with
    | (0, s) => s.applyRange o ((bytes.drop (32 * n)).take 32)
    | refused => refused

/-- RANGES. An entry that breaks the rules refuses the request before one that only meets another. -/
def execRanges (r : Request) (s : State) : Host.Outcome State Fault Refusal :=
  .next (s.serveMemory r 24 fun o d s =>
    let count := descField d 8 8
    if count = 0 ∨ 64 < count ∨ descTail d 16 then (stBadRcb, s)
    else match s.ownerRead o.domain (32 * count) (descField d 0 8) with
      | .error _ => (stBadRcb, s)
      | .ok bytes =>
        let bad := (List.range count).any fun i =>
          let e := (bytes.drop (32 * i)).take 32
          !descExtent e || decide (6 < descField e 16 1) || descTail e 17
        if bad then (stBadRcb, s) else s.applyRanges o bytes count)

/-- FAULTANS: the host driver has served a batch, or gives it up (11 R247, R248, 22 R388). -/
def execFaultans (r : Request) (s : State) : Host.Outcome State Fault Refusal :=
  .next (s.serveMemory r 25 fun o d s =>
    if descTail d 5 ∨ 1 < descField d 4 1 then (stBadRcb, s)
    else match s.replayBatch o.id (descField d 0 4) (descField d 4 1 == 1) with
      | none => (stNoKernel, s)
      | some (_, t) => (stOk, t))

/-! ### RDMA (24 R419) -/

/-- The endpoint that stands for the transport of an owner's host. -/
def rdmaEndpoint (owner : Nat) : Nat := 2 ^ 16 + owner

/-- Does one window of an owner hold a packet with this right: 0 read, 1 write? -/
def Owner.inWindow (o : Owner) (va n right : Nat) : Bool :=
  o.windows.any fun (_, b, size, rights) => decide (b ≤ va) && decide (va + n ≤ b + size) && rights / 2 ^ right % 2 == 1

/-- What becomes of a packet at a page: it passes, it fails, or it waits at a block. -/
inductive PageCheck where
  | pass | fail | wait
  deriving DecidableEq, Repr

/-- The checks on one page. -/
def State.rdmaPage (s : State) (o : Owner) (va needs : Nat) : PageCheck :=
  match s.walk va with
  | none => .fail
  | some l =>
    if l.cls = clsMigrating ∨ s.switchingAt va then .wait
    else if l.p ∧ l.cls ≠ clsPoisoned ∧ l.frame < 2 ^ 51 ∧ l.rightsOf o.domain &&& needs = needs then .pass
    else .fail

/-- The completion of an RDMA operation: 0 done or 1 access error, and what was read. -/
def State.rdmaDone (s : State) (owner status : Nat) (data : List Byte) : State :=
  { s with outputs := s.outputs ++ [{ endpoint := rdmaEndpoint owner, bytes := leBytes 1 status ++ data, domain := 0, held := false }] }

/-- What is known of the operation of a packet. -/
def State.rdmaOp (s : State) (p : RdmaPacket) : RdmaOp :=
  (s.rdma.find? fun x => x.owner == p.owner && x.op == p.op).getD { owner := p.owner, op := p.op, failed := false, data := [] }

/-- A packet has come over an Ultra Ethernet port and been dealt with; with the last of its operation the operation completes, with the access error if any packet of
it failed. -/
def State.rdmaStep (s : State) (p : RdmaPacket) (failed : Bool) (data : List Byte) : State :=
  let s := s.askUe p.owner
  let x := s.rdmaOp p
  let x := { x with failed := x.failed || failed, data := x.data ++ data }
  let s : State := { s with rdma := (s.rdma.filter fun y => !(y.owner == p.owner && y.op == p.op)) ++ if p.last then [] else [x] }
  if p.last then s.rdmaDone p.owner (if x.failed then 1 else 0) (if x.failed then [] else x.data) else s

/-- The packet of an owner passes its window and pages, fails, or waits. -/
def State.rdmaCheck (s : State) (o : Owner) (va n right : Nat) : PageCheck :=
  let pages := (packetParts va n).map fun (a, _) => s.rdmaPage o a (if right = 1 then 2 else 4)
  if !o.inWindow va n right ∨ pages.contains .fail then .fail else if pages.contains .wait then .wait else .pass

/-- The owner whose packet a host's transport brings. -/
def State.rdmaOwner (s : State) (owner : Nat) : Option Owner := if s.platform.stage = 6 ∧ s.hostReachable then s.owner? owner else none

/-- RDMA_WRITE: a packet is performed at device scope, and is an input of the owner's seam domains (23 R406). -/
def execRdmaWrite (packet : RdmaPacket) (va : Nat) (bytes : List Byte) (s : State) : Host.Outcome State Fault Refusal :=
  match s.rdmaOwner packet.owner with
  | none => .next s
  | some o =>
    match s.rdmaCheck o va bytes.length 1 with
    | .wait => .next s
    | .fail => .next (s.rdmaStep packet true [])
    | .pass => .next ((s.takeInput 0 o.id va bytes).rdmaStep packet false []).wakeRetries

/-- RDMA_READ: a packet is read at device scope. One that meets a line a domain wrote in its open interval waits for that domain's seam (23 R406). -/
def execRdmaRead (packet : RdmaPacket) (va n : Nat) (s : State) : Host.Outcome State Fault Refusal :=
  match s.rdmaOwner packet.owner with
  | none => .next s
  | some o =>
    match s.rdmaCheck o va n 0 with
    | .wait => .next s
    | .fail => .next (s.rdmaStep packet true [])
    | .pass =>
      match s.openAt o.domain va n with
      | some d => .next (s.trigger d 0)
      | none => .next (s.rdmaStep packet false ((List.range n).map fun i => s.byteAt (s.rdmaLoc (va + i))))

end Sys2Proof.Machine
end

