-- ==== Sys2Proof/Machine/Tenant.lean ====
section
/-!
DEFINITION. Sys2Proof/Machine/Tenant.lean: the administration requests: owners (11 R244 to R246), SEAMJOIN (23 R407) and attestation (24 R426).
-/

namespace Sys2Proof.Machine

/-! ### Owner records (11 R244) -/

/-- The owner a 192-byte record describes. -/
def ownerOf (b : List Byte) : Owner :=
  let f := descField b
  { id := f 0 2, domain := f 2 2 % 2 ^ 12, state := .created, seed := BitVec.ofNat 64 (f 8 8), placementSeed := BitVec.ofNat 64 (f 8 8)
    clusters := f 16 8, slices := (List.range 4).map fun d => f (24 + 8 * d) 8, sfWays := f 56 2, dirWays := f 58 2
    pch := (List.range 8).map fun m => f (64 + 8 * m) 8, kmax := (List.range 8).map fun i => f (128 + i) 1, cred := f 136 32
    flogBase := 0, knumNext := 1, windows := [], driver := none, retire := none }

/-- Does a record break R244? -/
def recordBad (b : List Byte) : Bool :=
  let o := ownerOf b
  b.length != 192 || o.id == 0 || descField b 2 2 / 2 ^ 12 != 0 || descField b 4 4 != 0 || descField b 60 4 != 0 || descTail b 168
    || o.kmax.contains 0 || (List.range 4).any fun d => o.clusters / 2 ^ (16 * d) % 2 ^ 16 != 0 && o.slices.getD d 0 == 0

/-- The owners there are. -/
def State.allOwners (s : State) : List Owner := s.owners.filterMap (·.2)

/-- Do two lists of masks share a bit? -/
def masksMeet (a b : List Nat) : Bool := (a.zip b).any fun (x, y) => x &&& y != 0

/-- Do the partitions of two owners overlap? -/
def Owner.overlaps (a b : Owner) : Bool :=
  masksMeet [a.clusters, a.sfWays, a.dirWays] [b.clusters, b.sfWays, b.dirWays] || masksMeet a.slices b.slices || masksMeet a.pch b.pch

/-- The owners that share structure `st` on a die, or on the module (11 R246, R257). -/
def sharersOf (os : List Owner) (st die : Nat) : List Owner := os.filter fun o => o.holdsOn st die

/-- Would some structure have more owners than one of them allows? -/
def oversharing (os : List Owner) : Bool :=
  (List.range 8).any fun st => (List.range (if st ≤ 3 then 4 else 1)).any fun die =>
    let sh := sharersOf os st die
    sh.any fun o => decide (o.kmax.getD st 1 < sh.length)

/-- Does a partition name a pseudo-channel that has been taken out of service (23 R408)? -/
def State.namesSpared (s : State) (o : Owner) : Bool := s.platform.sparedPcs.any fun g => o.pch.getD (g / 64) 0 / 2 ^ (g % 64) % 2 == 1

/-- Bytes of lysa's memory that a fault log may take: the header and up to 65,536 records. -/
def faultLogBytes : Nat := 2 ^ 22

/-- OWNER_CREATE. The owner gets its fault log, whose SIZE lysa writes (22 R387). -/
def execOwnerCreate (r : Request) (ownerRecord : List Byte) (s : State) : Host.Outcome State Fault Refusal :=
  .next (s.administer r (· == 16) fun s =>
    let o := ownerOf ownerRecord
    if recordBad ownerRecord ∨ r.rcb ≠ 0 then s.ack r stBadRcb
    else if s.allOwners.any fun x => x.id == o.id || x.domain == o.domain then s.ack r stBusy
    else if s.allOwners.any o.overlaps ∨ s.namesSpared o ∨ oversharing (s.allOwners ++ [o]) then s.ack r stNoFit
    else match s.allocLysa faultLogBytes with
      | none => s.ack r stNoFit
      | some (log, s) =>
        let s := s.setNat log 4 (64 * 2 ^ (Config.faultLogScale o.id).val)
        let s : State := { s with batchIds := setT 0 s.batchIds o.id 0 }
        ((s.restartStreams o.id).putOwner { o with flogBase := log }).ack r stOk)

/-- Zero the local memories of a cluster and mark its matrix unit unloaded. -/
def State.zeroCluster (s : State) (u : Nat) : State :=
  let s := (clusterCores u).foldl (fun s c => s.zeroBytes (tcmLoc c 0) (2 ^ 20)) s
  ((s.zeroBytes (spadLoc u 0) (2 ^ 22)).zeroBytes (bstoreLoc u 0) (2 ^ 24)).zeroBytes (accLoc u 0) (2 ^ 22)

/-- Zero what a pseudo-channel holds outside the frames given out since. -/
def State.zeroChannel (s : State) (g : Nat) : State :=
  let lo := g * channelBytes
  { s with mem := s.mem.filter fun p => !(decide (lo ≤ p.1) && decide (p.1 < lo + channelBytes)) || s.frames.any fun (_, b, n) => decide (b ≤ p.1) && decide (p.1 < b + n) }

/-- The pseudo-channels of an owner, as GiB numbers 64m + j. -/
def Owner.channels (o : Owner) : List Nat := (List.range 512).filter fun g => o.pch.getD (g / 64) 0 / 2 ^ (g % 64) % 2 == 1

/-- PARTITION_READY: the partition has been zeroed and flushed of earlier contents, and the owner is ACTIVE (11 R245). -/
def execPartitionReady (owner : Nat) (s : State) : Host.Outcome State Fault Refusal :=
  match s.owner? owner with
  | some o =>
    if o.state ≠ .created then .next s
    else
      let s := ((List.range 64).filter fun u => o.clusters / 2 ^ u % 2 == 1).foldl State.zeroCluster s
      let s := o.channels.foldl State.zeroChannel s
      .next (s.putOwner { o with state := .active })
  | none => .next s

/-! ### Retiring an owner (11 R245, R246) -/

/-- Kernels of an owner that have not ended. -/
def State.liveKernels (s : State) (owner : Nat) : List Kernel :=
  s.allKernels.filter fun k => k.owner == owner && k.state != .done && k.state != .aborted

/-- The leaves of a domain. -/
def State.domainLeaves (s : State) (domain : Nat) : List Leaf := (s.leavesBelow 4 0 s.ptRoot 0).filter fun l => l.domain == domain

/-- Does the unmapping of a domain wait for copies in flight to or from its pages (22 R389)? -/
def State.domainHolds (s : State) (domain : Nat) : Bool := (s.domainLeaves domain).any fun l => s.copiesHold l.va l.size

/-- Every leaf of a domain is unmapped, its lines written back and invalidated. -/
def State.unmapDomain (s : State) (domain : Nat) : State :=
  (s.domainLeaves domain).foldl (fun s l =>
    ((s.drainCopies l.va l.size).clearLeaf l).shoot l.va l.size true) s

/-- The valid entries of an owner leave the range table, VALID first (10 R230). -/
def State.dropRanges (s : State) (owner : Nat) : State :=
  (s.rangeEntries.filter fun e => e.owner == owner).foldl (fun s e =>
    let a := (s.core rangeCore).rangeBase.toNat + 32 * e.index + 16
    s.foreignWrite 0 0 a (a / 128) (leBytes 8 0)) s

/-- The owner is RETIRED: what it had is given back, and its id is free. -/
def State.retireOwner (s : State) (o : Owner) : State :=
  let s := ((s.unmapDomain o.domain).dropRanges o.id).restartStreams o.id
  { s with
    owners := setT none s.owners o.id none
    kernels := s.kernels.filter fun p => p.1 / 2 ^ 32 != o.id
    frames := s.frames.filter fun (x, b, _) => x != o.id && b != o.flogBase
    locked := s.locked.filter (·.owner != o.id)
    batches := s.batches.filter (·.owner != o.id)
    requests := s.requests.filter fun r => match r.source with | .device _ x _ => x != o.id | .host _ => true }

/-- OWNER_RETIRE: the owner's kernels are aborted first; when the last of them has ended, the same step retires the owner and answers. None begins while a chunk runs locked (09 R440). -/
def execOwnerRetire (r : Request) (s : State) : Host.Outcome State Fault Refusal :=
  match (if s.heard r (· == 17) ∧ r.cred = Config.adminCred then s.owner? r.owner else none) with
  | none => .next (s.administer r (· == 17) fun s => s.ack r stNoKernel)
  | some o =>
    if (o.retire.isSome ∧ o.retire ≠ some r) ∨ s.lockStands then .next s
    else
      let s := if o.retire.isSome then s else
        ((s.liveKernels o.id).foldl (fun s k => s.orderAbort k) (s.putOwner { o with retire := some r })).endKernels
      .next (if (s.liveKernels o.id).isEmpty ∧ !s.domainHolds o.domain then ((s.retireOwner o).ack r stOk).wakeRetries else s)

/-! ### SEAMJOIN (23 R407) -/

/-- SEAMJOIN: one more peer module joins the domain that a root kernel founded; a joined domain spans at most 8 modules. The sequence number they share from then on
is the greater of the two, the peer's being a free value: DESIGN CHOICE, log 159. -/
def execSeamjoin (r : Request) (s : State) : Host.Outcome State Fault Refusal :=
  .next (s.administer r (· == 18) fun s =>
    match s.tagged r.owner r.tag with
    | none => s.ack r stNoKernel
    | some k =>
      match s.domains.find? fun d => d.owner == k.owner && d.root == k.knum with
      | none => s.ackKernel r 0x81 stBadState k
      | some d =>
        let peer := r.rcb % 2 ^ 16
        if d.peers.contains peer then s.ackKernel r 0x81 stOk k
        else if 7 ≤ d.peers.length then s.ackKernel r 0x81 stNoFit k
        else
          let seq := Config.peerSeq s.fresh
          (({ s with fresh := s.fresh + 1 } : State).mapDomain d.id fun d => { d with
            peers := d.peers ++ [peer], seq := if d.seq.toNat < seq.toNat then seq else d.seq }).ackKernel r 0x81 stOk k)

/-! ### Attestation (24 R425, R426) -/

/-- The images of protocol slots 0 to 15, an empty slot being zeros. -/
def State.slotImages (s : State) : List Byte :=
  ((List.range 16).map fun n => match getT none s.slots n with
    | some t => imageOfTable t
    | none => List.replicate 2176 0).flatten

/-- Bytes 0 to 575 of a report. -/
def State.report (s : State) (nonce : List Byte) : List Byte :=
  leBytes 8 0x84 ++ nonce ++ leBytes 8 (s.links.moduleId % 2 ^ 16) ++ sha512 Config.firmwareImage ++ sha512 s.platform.lysaImage ++ sha512 s.slotImages
    ++ List.replicate 352 0

/-- ATTESTATION_REQUEST: the signed report, and the certificate of the identity key. CRED is ignored. -/
def execAttestationRequest (r : Request) (s : State) : Host.Outcome State Fault Refusal :=
  match r.source with
  | .device .. => .next s
  | .host ep =>
    if !s.heard r (· == 19) then .next s
    else
      let report := s.report (leBytes 8 r.rcb ++ leBytes 8 r.tag)
      let send := fun (s : State) (b : List Byte) => let s := s.askUe r.owner; ({ s with outputs := s.outputs ++ [{ endpoint := ep, bytes := b, domain := 0, held := false }] } : State)
      .next (send (send s (report ++ (Config.identitySignature report).toList)) Config.certificate)

end Sys2Proof.Machine
end

