-- ==== Sys2Proof/Machine/Repair.lean ====
section
/-!
DEFINITION. Sys2Proof/Machine/Repair.lean: repair in service and the update of lysa (23 R408, R409), scrubbing and refresh (10 R226).
-/

namespace Sys2Proof.Machine

/-! ### Seams before a repair (23 R408) -/

/-- Can every domain that uses a part take a seam now? One that rolls back is restored first, and one that spans modules needs them all to be ready. -/
def State.canSeam (s : State) (uses : SeamDomain → Bool) : Bool := (s.domains.filter uses).all fun d => s.seamReady d && d.allReady

/-- Every domain that uses the part takes a seam. -/
def State.seamAll (s : State) (uses : SeamDomain → Bool) : State := (s.domains.filter uses).foldl (fun s d => s.takeSeam d.id) s

/-- Lysa's request for the seams before a repair, which waits for them (23 R398, R408). -/
def State.askSeams (s : State) (uses : SeamDomain → Bool) : State := (s.domains.filter uses).foldl (fun s d => s.trigger d.id 0) s

/-- A repair in service: it is made once every domain that uses the part has taken a seam; until then seams are asked for. -/
def State.repair (s : State) (uses : SeamDomain → Bool) (f : State → State) : State :=
  if s.canSeam uses then (f (s.seamAll uses)).endKernels else s.askSeams uses

/-- Does a domain use a part that its owner holds, or frames of which a page it reaches has: its own or, through GDOM, another's (22 R379)? -/
def State.reachesPart (s : State) (d : SeamDomain) (part : Leaf → Bool) : Bool :=
  let dom := s.domainOf d.owner
  (s.leavesBelow 4 0 s.ptRoot 0).any fun l => (l.domain == dom || (l.gdom == dom && l.grights != 0)) && part l

/-- CORE_SPARING: the cluster's one spare core takes a core's id and state. Its caches and lookaside buffer are empty. -/
def execCoreSparing (core : Nat) (s : State) : Host.Outcome State Fault Refusal :=
  .next (if 512 ≤ core ∨ (List.range 8).any (fun i => (s.core (8 * clusterOf core + i)).spared) then s
    else s.repair (fun d => s.seamAt core == d.id) fun s => (s.flushCores [core]).mapCore core fun c => { c with spared := true, plb := [] })

/-- SLICE_SPARING: one of a die's two spare slices (01 R8) takes a logical slice number, once the slice's lines are written back. Placement is unchanged;
the spare holds the pinned lines and no others (DESIGN CHOICE, log 161). -/
def execSliceSparing (die slice : Nat) (s : State) : Host.Outcome State Fault Refusal :=
  let holds := fun (o : Owner) => o.slices.getD die 0 / 2 ^ slice % 2 == 1
  let holder := s.allOwners.find? holds
  let uses := fun (d : SeamDomain) => ((s.owner? d.owner).map holds).getD false
    || s.reachesPart d fun l => l.home == die && (holder.map fun o => o.domain == l.domain).getD false
  .next (if 4 ≤ die ∨ 64 ≤ slice ∨ s.platform.sparedSlices.contains (die, slice) ∨ 2 ≤ (s.platform.sparedSlices.filter (·.1 == die)).length then s
    else s.repair uses fun s =>
      let s := s.clearMarks fun _ m => ((s.l2Place m.vline).map fun (_, k) => k / 1024 == die * 64 + slice).getD false
      let s := s.mapCoh fun c => c.emptySlice (die * 64 + slice)
      { s with platform := { s.platform with sparedSlices := (die, slice) :: s.platform.sparedSlices } })

/-- The mapped pages whose frames lie in a pseudo-channel. -/
def State.leavesIn (s : State) (g : Nat) : List Leaf :=
  (s.leavesBelow 4 0 s.ptRoot 0).filter fun l => l.p && decide (g * channelBytes ≤ l.frame) && decide (l.frame < (g + 1) * channelBytes)

/-- A pseudo-channel of the same stack that no partition holds and that is in service. -/
def State.unheldChannel (s : State) (g : Nat) : Option Nat :=
  ((List.range 64).map (g / 64 * 64 + ·)).find? fun h => h != g && !s.platform.sparedPcs.contains h
    && !s.allOwners.any (fun o => o.channels.contains h) && s.freeFrame (h * channelBytes) channelBytes

/-- The bits of an owner's PCH with one channel given up, and perhaps another taken. -/
def Owner.swapChannel (o : Owner) (g : Nat) (h : Option Nat) : Owner :=
  let cs := (o.channels.filter (· != g)) ++ h.toList
  { o with pch := (List.range 8).map fun m => ((cs.filter fun c => c / 64 == m).map fun c => 2 ^ (c % 64)).sum }

/-- Move one page to other memory of its owner: the rest of its channels on the same die, then any of them, then the second tier. -/
def State.moveAway (s : State) (o : Owner) (l : Leaf) : State :=
  let places := [o.regions false l.home] ++ ((List.range 4).map fun d => o.regions false d) ++ [o.regions true 0]
  match places.findSome? fun rs => s.pickFrame rs l.size with
  | some f => { s with fresh := s.fresh + 1 }.migrate l f (if f < hbmBytes then hbmDie f else l.home)
  | none => s

/-- PSEUDO_CHANNEL_SPARING: the frames of a failed pseudo-channel move by MIGRATE to one of its stack that no partition holds, or else to other memory of
the owner. -/
def execPseudoChannelSparing (pc : Nat) (s : State) : Host.Outcome State Fault Refusal :=
  let holder := s.allOwners.find? fun o => o.channels.contains pc
  let uses := fun (d : SeamDomain) => (holder.map fun o => o.id == d.owner).getD false
    || s.reachesPart d fun l => l.p && decide (pc * channelBytes ≤ l.frame) && decide (l.frame < (pc + 1) * channelBytes)
  .next (if 512 ≤ pc ∨ s.platform.sparedPcs.contains pc then s
    else s.repair uses fun s =>
      let ls := s.leavesIn pc
      let target := s.unheldChannel pc
      let s := match holder with
        | none => s
        | some o =>
          let o := o.swapChannel pc target
          let s := s.putOwner o
          ls.foldl (fun s l => match target with
            | some h => s.migrate l (l.frame - pc * channelBytes + h * channelBytes) l.home
            | none => s.moveAway o l) s
      { s with platform := { s.platform with sparedPcs := pc :: s.platform.sparedPcs } })

/-! ### JSL ports (24 R412, R413) -/

/-- An unused spare port that a logical port can be bound to: one of the two of its I/O die (01 R8), cabled to an unused spare of its peer, which is
unused as long as this one is (24 R413). DEDUCED, log 165. -/
def State.freeSpare (s : State) (p : Nat) : Option Nat :=
  (List.range 4).find? fun j => j / 2 == ioDie p && (s.port p).peer.any (fun q => s.links.spareCables.contains (j, q))
    && !jslPorts.any fun q => (s.port q).spares.contains j

/-- Lysa binds a RETRAINING port to a spare, which begins to train (24 R413). -/
def State.bindSpare (s : State) (p j : Nat) : State := (s.mapPort p fun x => { x with spares := j :: x.spares }).train p .retraining

/-- Does a domain use a port: has it writes on it? -/
def State.usesPort (s : State) (p : Nat) (d : SeamDomain) : Bool := s.links.writes.any fun w => w.port == p && w.domain == d.id

/-- A port whose physical port has failed is bound to a spare, if there is one, once every domain with writes on it has taken a seam; until then it stays
RETRAINING. Where there is no spare, `other` becomes of it. -/
def State.bindOr (s : State) (p : Nat) (other : State) : State :=
  match s.freeSpare p with
  | none => other
  | some j =>
    let t := s.repair (s.usesPort p) fun s => s.bindSpare p j
    if s.canSeam (s.usesPort p) ∨ (s.port p).state = .retraining then t else t.train p .retraining

/-- LINK_FAULT: a replay or lane fault, or lysa's request, sends an UP or DEGRADED port to RETRAINING; where the physical port has failed, the
spare is bound (24 R412, R413). An Ultra Ethernet port goes DOWN. -/
def execLinkFault (port : Nat) (physical : Bool) (s : State) : Host.Outcome State Fault Refusal :=
  let x := s.port port
  if isUe port then .next (if x.state = .up then s.mapPort port fun x => { x with state := .down } else s)
  else if x.state = .up ∨ x.state = .degraded then
    .next (if physical then s.bindOr port (s.train port .retraining) else s.train port .retraining)
  else if x.state = .retraining ∧ physical then .next (s.bindOr port s)
  else .next s

/-- RTLIMIT_EXPIRY: no lane trained in time. TRAINING ends DOWN; RETRAINING binds a spare, or ends FAILED (24 R412, R413). -/
def execRtlimitExpiry (port : Nat) (s : State) : Host.Outcome State Fault Refusal :=
  let x := s.port port
  if s.gct < x.deadline then .next s
  else if x.state = .training then .next (s.mapPort port fun x => { x with state := .down }).wakeRetries
  else if x.state = .retraining then .next (s.bindOr port (s.failPort port))
  else .next s

/-- Lysa sets RTLIMIT (24 R414). -/
def setRtlimit (ticks : BitVec 32) (s : State) : Host.Outcome State Fault Refusal :=
  .next (if s.platform.stage = 6 then { s with links := { s.links with rtlimit := ticks.toNat } } else s)

/-! ### Lysa's image, scrubbing and refresh -/

/-- LYSA_UPDATE: a new image whose signature and version hold takes over from a handoff record, with all that lysa keeps; one that fails changes
nothing (23 R409, 24 R425). -/
def execLysaUpdate (image : List Byte) (version : Nat) (s : State) : Host.Outcome State Fault Refusal :=
  .next (if s.platform.stage = 6 ∧ imagePasses image version s.platform.fusedVersion then
    { s with platform := { s.platform with lysaImage := image } } else s)

/-- PATROL_SCRUB: the scrubber reads a line and writes back corrected data. Whether it found a correctable error is a free value; one is counted and changes
nothing else (10 R226). -/
def execPatrolScrub (loc : Nat) (s : State) : Host.Outcome State Fault Refusal :=
  let found := if Config.scrubFinds s.fresh then 1 else 0
  .next { s.setByte loc (s.byteAt loc) with fresh := s.fresh + 1, platform := { s.platform with corrected := s.platform.corrected + found } }

/-- REFRESH_MANAGEMENT: a bank's activate counter has reached its threshold, and the command is issued (10 R226). -/
def execRefreshManagement (stack bank : Nat) (s : State) : Host.Outcome State Fault Refusal :=
  .next (if stack < 8 then { s with platform := { s.platform with refreshes := modT 0 s.platform.refreshes (stack * 2 ^ 16 + bank) (· + 1) } } else s)

end Sys2Proof.Machine
end

