-- ==== Sys2Proof/Machine/Platform.lean ====
section
/-!
DEFINITION. Sys2Proof/Machine/Platform.lean: rails, reset and bring-up, power and temperature, the watchdogs, board management and boundary scan
(26 R429 to R436).
-/

namespace Sys2Proof.Machine

/-! ### Reset (26 R429, R434, R435) -/

/-- The module goes into reset: kernels are gone without a COMPLETE, every port is DOWN, held outputs are lost, and memory will be cleared. Outputs already sent,
and what the board management controller reads of the stop, stay; so do the parts that have failed, a core, a slice, a pseudo-channel or a JSL port, with the
spares that took over from them: the spec is silent, DESIGN CHOICE, log 165. -/
def State.intoReset (s : State) (rails : Nat) (trip wdog : Bool) : State :=
  { State.reset with
    outputs := s.outputs.filter fun o => !o.held
    agenda := s.agenda, fresh := s.fresh
    cores := (s.cores.filter (·.2.spared)).map fun p => (p.1, { Core.reset with spared := true })
    links := { State.reset.links with ports := (s.links.ports.filter fun p => p.2.spares != []).map fun p => (p.1, { Port.reset with spares := p.2.spares }) }
    platform := { State.reset.platform with
      rails := rails, bad := s.platform.bad, trip := trip, wdog := wdog, temp := s.platform.temp, power := s.platform.power
      cells := s.platform.cells, jtag := s.platform.jtag, fusedVersion := s.platform.fusedVersion
      sparedSlices := s.platform.sparedSlices, sparedPcs := s.platform.sparedPcs } }

/-- RAIL_FAULT: a rail leaves regulation, or does not reach it, and holds the module in reset or puts it there; neither it nor a rail after it is up (26 R429). -/
def execRailFault (rail : Nat) (s : State) : Host.Outcome State Fault Refusal :=
  .next (if 1 ≤ rail ∧ rail ≤ 5 then
    let s : State := { s with platform := { s.platform with bad := insertN rail s.platform.bad } }
    if rail ≤ s.platform.rails then s.intoReset (rail - 1) false false else s
  else s)

/-- A rail is in regulation again. -/
def railGood (rail : Nat) (s : State) : Host.Outcome State Fault Refusal :=
  .next { s with platform := { s.platform with bad := s.platform.bad.filter (· != rail) } }

/-- The rails that come up before one that does not report good. -/
def Platform.railsUp (p : Platform) : Nat := ((List.range 5).find? fun i => p.bad.contains (i + 1)).getD 5

/-! ### Bring-up (26 R433) -/

/-- Steps 1 to 3: the rails are up, the watchdogs armed, the GCTs at 0, memory clear, slots 0 to 6 loaded. -/
def State.bootMemory (s : State) : State :=
  { s with slots := (bootTables.zipIdx).map fun (t, i) => (i, some t) }

/-- Bytes of lysa's page-table root and of the range table behind it. -/
def rootBytes : Nat := 2 ^ 21
def rangeTableBytes : Nat := 2 ^ 13

/-- Step 4: lysa's page table, with translation on, the range table, and RTLIMIT (22 R378, 24 R414, 10 R230). -/
def State.bootTranslation (s : State) : State :=
  let s := (List.range 512).foldl (fun s c => s.mapCore c fun x => { x with plbEn := true, rangeBase := BitVec.ofNat 64 (lysaBase + rootBytes) }) s
  { s with
    ptRoot := lysaBase, frames := [(0, lysaBase, rootBytes), (0, lysaBase + rootBytes, rangeTableBytes)]
    links := { s.links with rtlimit := Config.bootRtlimit.toNat } }

/-- Step 6: the ports wait for partners, with the peers the platform configuration expects and the cables of the spares (24 R412, R413, R417). -/
def State.bootPorts (s : State) : State :=
  let s := jslPorts.foldl (fun s p => s.mapPort p fun x => { x with expected := Config.expectedPeer p }) s
  { s with links := { s.links with
      moduleId := Config.moduleId.toNat
      spareCables := (List.range 4).filterMap fun j => (Config.spareCabled j).map fun q => (j, q) } }

def State.atStage (s : State) (stage : Nat) (fail : Bool) : State := { s with platform := { s.platform with stage := stage, bootFail := fail } }

/-- Boot ROM arms the watchdog of every die (26 R434). -/
def State.armWatchdogs (s : State) : State := (List.range 4).foldl (fun s d => s.mapDie d fun x => { x with wdogPeriod := 10000, wdogKick := 0 }) s

/-- A context in which lysa runs: at supervisor level, where its image is entered. What the image's instructions do lysa's own events model, so that it waits for
ever: DESIGN CHOICE, log 224. -/
def lysaContext : Context :=
  { Context.free with life := .waiting, arch := { Arch.zero with pc := Config.lysaEntry, status := 1 }, wait := { kind := .wfi } }

/-- Step 5: lysa starts at supervisor level on the four reserved cores (01 R10). -/
def State.startLysa (s : State) : State :=
  let s : State := { s with platform := { s.platform with lysaImage := Config.bootImage } }
  (List.range 4).foldl (fun s d => s.setCtxAt (128 * d + 127) 0 lysaContext) s

/-- POWER_ON: bring-up from the rails to lysa; a rail that is out of regulation holds it (R429), and a failing check leaves the module in step 2 or step 5, every port
DOWN (26 R433). -/
def execPowerOn (s : State) : Host.Outcome State Fault Refusal :=
  if s.platform.stage ≠ 0 then .next s
  else if s.platform.railsUp < 5 then .next (s.intoReset s.platform.railsUp s.platform.trip s.platform.wdog)
  else
    let s := s.intoReset 5 s.platform.trip s.platform.wdog
    let s := (s.armWatchdogs.atStage 1 false)
    let s := { s with platform := { s.platform with fusedVersion := Config.fusedVersion } }
    if !imagePasses Config.firmwareImage Config.firmwareVersion Config.fusedVersion then .next (s.atStage 1 true)
    else
      let s := s.bootMemory.bootTranslation
      if !imagePasses Config.bootImage Config.bootVersion Config.fusedVersion then .next (s.atStage 4 true)
      else
        .next (s.startLysa.bootPorts.atStage 6 false)

/-! ### Power and temperature (26 R430, R432) -/

/-- The core clock of every compute die goes down or up by 100 MHz, between 1.2 GHz and 2.1 GHz. GCT does not change. -/
def State.stepClocks (s : State) (up : Bool) : State :=
  (List.range 4).foldl (fun s d => s.mapDie d fun x => { x with clock := if up then min 2100 (x.clock + 100) else max 1200 (x.clock - 100) }) s

/-- Is the module running? -/
def State.powered (s : State) : Bool := s.platform.stage != 0

/-- POWER_LIMIT: the 10 ms average has reached 2,000 W. -/
def execPowerLimit (s : State) : Host.Outcome State Fault Refusal :=
  .next (if s.powered then ({ s with platform := { s.platform with power := 2000, limited := true } } : State).stepClocks false else s)

/-- POWER_RECOVERY: the average has fallen below 1,900 W; the clock rises unless a die is hot. -/
def execPowerRecovery (s : State) : Host.Outcome State Fault Refusal :=
  .next (if s.powered then
    let s : State := { s with platform := { s.platform with power := 1899, limited := false } }
    if s.platform.hot then s else s.stepClocks true
  else s)

/-- THERMAL_THROTTLE: the hottest die is above 95 °C. -/
def execThermalThrottle (temp : Nat) (s : State) : Host.Outcome State Fault Refusal :=
  .next (if s.powered ∧ 95 < temp ∧ temp ≤ 105 then ({ s with platform := { s.platform with temp := temp, hot := true } } : State).stepClocks false else s)

/-- THERMAL_RECOVERY: the hottest die is below 92 °C; the clock rises unless the power is at its limit. -/
def execThermalRecovery (temp : Nat) (s : State) : Host.Outcome State Fault Refusal :=
  .next (if s.powered ∧ temp < 92 then
    let s : State := { s with platform := { s.platform with temp := temp, hot := false } }
    if s.platform.limited then s else s.stepClocks true
  else s)

/-- A measurement on which nothing is done: the temperature of the hottest die and the average power, below the limits, or, where one was above its own and has
not recovered, between the two (26 R430, R432, R435). -/
def measured (temp power : Nat) (s : State) : Host.Outcome State Fault Refusal :=
  let p := s.platform
  let mild := if p.hot then 92 ≤ temp ∧ temp ≤ 105 else temp ≤ 95
  let modest := if p.limited then 1900 ≤ power ∧ power ≤ 2000 else power < 2000
  .next (if 1 ≤ p.rails ∧ mild ∧ modest then { s with platform := { p with temp := temp, power := power } } else s)

/-- THERMAL_TRIP: above 105 °C every rail but VAUX goes off at once, of a module in reset too. No seam is taken and held outputs are lost. -/
def execThermalTrip (temp : Nat) (s : State) : Host.Outcome State Fault Refusal :=
  .next (if 2 ≤ s.platform.rails ∧ 105 < temp then
    ({ s with platform := { s.platform with temp := temp } } : State).intoReset 1 true false
  else s)

/-! ### Watchdogs and control registers (26 R434, 22 R378) -/

/-- GCT ticks of a watchdog's PERIOD: 1 GHz, counted in milliseconds. -/
def Die.wdogTicks (d : Die) : Nat := d.wdogPeriod.toNat * 1000000

/-- WATCHDOG_EXPIRY: a die's count has reached PERIOD; the module stops and bring-up starts again. -/
def execWatchdogExpiry (die : Nat) (s : State) : Host.Outcome State Fault Refusal :=
  let d := s.die die
  .next (if die < 4 ∧ s.powered ∧ d.wdogPeriod ≠ 0 ∧ d.wdogKick + d.wdogTicks ≤ d.gct then s.intoReset s.platform.rails false true else s)

/-- WDOG_KICK: a write of CR_WDOG on a core, whose KICK restarts the count of the core's die; PERIOD is kept. -/
def execWdogKick (core value : Nat) (s : State) : Host.Outcome State Fault Refusal :=
  .next (if core < 512 ∧ value / 2 ^ 32 % 2 = 1 then s.kick (dieOf core) else s)

/-- PLB_FLUSH: a write of CR_PLBCTL.FLUSH drops every entry of the core's PLB. -/
def execPlbFlush (core : Nat) (s : State) : Host.Outcome State Fault Refusal := .next (if core < 512 then s.flushPlb core else s)

/-! ### Board management (26 R435) -/

/-- BM_STATUS. -/
def State.bmStatus (s : State) : Nat :=
  let p := s.platform
  let bit := fun (b : Bool) (k : Nat) => if b then 2 ^ k else 0
  p.temp % 2 ^ 8 * 2 ^ 24 + p.power % 2 ^ 12 * 2 ^ 12 + bit p.wdog 8 + p.stage % 8 * 2 ^ 5 + bit p.bootFail 4 + bit p.trip 3
    + bit ((List.range 4).any fun d => decide ((s.die d).clock < 2100)) 2 + bit (p.stage == 6) 0

/-- What the board management controller reads at an index. -/
def State.bmRead (s : State) (index : Nat) : Nat :=
  match index with
  | 0x00 => s.bmStatus
  | 0x04 => s.links.moduleId % 2 ^ 16
  | 0x08 => Config.fusedVersion
  | 0x0C => (s.die 0).wdogPeriod.toNat
  | _ => 0

/-- BM_RESET: a write of BM_STATUS.RESET; kernels end without a COMPLETE and bring-up starts again. -/
def execBmReset (s : State) : Host.Outcome State Fault Refusal := .next (s.intoReset s.platform.rails false false)

/-! ### Boundary scan (26 R436) -/

/-- Use of the IEEE 1149.1 port: while the module runs it puts the module into reset, a stop that is neither a trip nor a watchdog's. -/
def State.boundaryScan (s : State) (jtag : Nat) : State :=
  let s := if s.powered then s.intoReset s.platform.rails false false else s
  { s with platform := { s.platform with jtag := jtag } }

def State.setCells (s : State) (cells : List Bool) : State := { s with platform := { s.platform with cells := cells } }

/-- BYPASS selects the one-bit bypass register, which captures 0. -/
def execBypass (s : State) : Host.Outcome State Fault Refusal := .next (s.boundaryScan 0)

/-- IDCODE selects the identification register. -/
def execIdcode (s : State) : Host.Outcome State Fault Refusal := .next (s.boundaryScan 0x1A512D3F)

/-- SAMPLE/PRELOAD takes the boundary cells and loads them. -/
def execSamplePreload (cells : List Bool) (s : State) : Host.Outcome State Fault Refusal := .next ((s.boundaryScan 0).setCells cells)

/-- EXTEST drives the boundary cells. -/
def execExtest (cells : List Bool) (s : State) : Host.Outcome State Fault Refusal := .next ((s.boundaryScan 0).setCells cells)

end Sys2Proof.Machine
end

