-- ==== Sys2Proof/Machine/Dispatch.lean ====
section
/-!
DEFINITION. Sys2Proof/Machine/Dispatch.lean: which meaning each instruction has.
-/

namespace Sys2Proof.Machine

/-- The meaning of an instruction or event. -/
def exec (i : Instr) (s : State) : Host.Outcome State Fault Refusal :=
  match i with
  | .lb rd rs1 imm la acq => Sys2Proof.Machine.execLb rd rs1 imm la acq s
  | .lh rd rs1 imm la acq => Sys2Proof.Machine.execLh rd rs1 imm la acq s
  | .lw rd rs1 imm la acq => Sys2Proof.Machine.execLw rd rs1 imm la acq s
  | .ld rd rs1 imm la acq => Sys2Proof.Machine.execLd rd rs1 imm la acq s
  | .lbu rd rs1 imm la acq => Sys2Proof.Machine.execLbu rd rs1 imm la acq s
  | .lhu rd rs1 imm la acq => Sys2Proof.Machine.execLhu rd rs1 imm la acq s
  | .lwu rd rs1 imm la acq => Sys2Proof.Machine.execLwu rd rs1 imm la acq s
  | .sb rs1 rs2 imm => Sys2Proof.Machine.execSb rs1 rs2 imm s
  | .sh rs1 rs2 imm => Sys2Proof.Machine.execSh rs1 rs2 imm s
  | .sw rs1 rs2 imm => Sys2Proof.Machine.execSw rs1 rs2 imm s
  | .sd rs1 rs2 imm => Sys2Proof.Machine.execSd rs1 rs2 imm s
  | .swRel rs1 rs2 imm => Sys2Proof.Machine.execSwRel rs1 rs2 imm s
  | .sdRel rs1 rs2 imm => Sys2Proof.Machine.execSdRel rs1 rs2 imm s
  | .sdFwd rs1 rs2 imm => Sys2Proof.Machine.execSdFwd rs1 rs2 imm s
  | .addi rd rs1 imm => Sys2Proof.Machine.execAddi rd rs1 imm s
  | .slli rd rs1 shamt => Sys2Proof.Machine.execSlli rd rs1 shamt s
  | .slti rd rs1 imm => Sys2Proof.Machine.execSlti rd rs1 imm s
  | .sltiu rd rs1 imm => Sys2Proof.Machine.execSltiu rd rs1 imm s
  | .xori rd rs1 imm => Sys2Proof.Machine.execXori rd rs1 imm s
  | .srli rd rs1 shamt => Sys2Proof.Machine.execSrli rd rs1 shamt s
  | .srai rd rs1 shamt => Sys2Proof.Machine.execSrai rd rs1 shamt s
  | .ori rd rs1 imm => Sys2Proof.Machine.execOri rd rs1 imm s
  | .andi rd rs1 imm => Sys2Proof.Machine.execAndi rd rs1 imm s
  | .add rd rs1 rs2 => Sys2Proof.Machine.execAdd rd rs1 rs2 s
  | .sub rd rs1 rs2 => Sys2Proof.Machine.execSub rd rs1 rs2 s
  | .sll rd rs1 rs2 => Sys2Proof.Machine.execSll rd rs1 rs2 s
  | .slt rd rs1 rs2 => Sys2Proof.Machine.execSlt rd rs1 rs2 s
  | .sltu rd rs1 rs2 => Sys2Proof.Machine.execSltu rd rs1 rs2 s
  | .xor rd rs1 rs2 => Sys2Proof.Machine.execXor rd rs1 rs2 s
  | .srl rd rs1 rs2 => Sys2Proof.Machine.execSrl rd rs1 rs2 s
  | .sra rd rs1 rs2 => Sys2Proof.Machine.execSra rd rs1 rs2 s
  | .or rd rs1 rs2 => Sys2Proof.Machine.execOr rd rs1 rs2 s
  | .and rd rs1 rs2 => Sys2Proof.Machine.execAnd rd rs1 rs2 s
  | .min rd rs1 rs2 => Sys2Proof.Machine.execMin rd rs1 rs2 s
  | .max rd rs1 rs2 => Sys2Proof.Machine.execMax rd rs1 rs2 s
  | .minu rd rs1 rs2 => Sys2Proof.Machine.execMinu rd rs1 rs2 s
  | .maxu rd rs1 rs2 => Sys2Proof.Machine.execMaxu rd rs1 rs2 s
  | .mul rd rs1 rs2 => Sys2Proof.Machine.execMul rd rs1 rs2 s
  | .mulh rd rs1 rs2 => Sys2Proof.Machine.execMulh rd rs1 rs2 s
  | .mulhu rd rs1 rs2 => Sys2Proof.Machine.execMulhu rd rs1 rs2 s
  | .clz rd rs1 => Sys2Proof.Machine.execClz rd rs1 s
  | .ctz rd rs1 => Sys2Proof.Machine.execCtz rd rs1 s
  | .popc rd rs1 => Sys2Proof.Machine.execPopc rd rs1 s
  | .brev rd rs1 => Sys2Proof.Machine.execBrev rd rs1 s
  | .seq rd rs1 rs2 => Sys2Proof.Machine.execSeq rd rs1 rs2 s
  | .sne rd rs1 rs2 => Sys2Proof.Machine.execSne rd rs1 rs2 s
  | .addw rd rs1 rs2 => Sys2Proof.Machine.execAddw rd rs1 rs2 s
  | .subw rd rs1 rs2 => Sys2Proof.Machine.execSubw rd rs1 rs2 s
  | .lui rd imm => Sys2Proof.Machine.execLui rd imm s
  | .auipc rd imm => Sys2Proof.Machine.execAuipc rd imm s
  | .beq rs1 rs2 imm => Sys2Proof.Machine.execBeq rs1 rs2 imm s
  | .bne rs1 rs2 imm => Sys2Proof.Machine.execBne rs1 rs2 imm s
  | .blt rs1 rs2 imm => Sys2Proof.Machine.execBlt rs1 rs2 imm s
  | .bge rs1 rs2 imm => Sys2Proof.Machine.execBge rs1 rs2 imm s
  | .bltu rs1 rs2 imm => Sys2Proof.Machine.execBltu rs1 rs2 imm s
  | .bgeu rs1 rs2 imm => Sys2Proof.Machine.execBgeu rs1 rs2 imm s
  | .jal rd imm => Sys2Proof.Machine.execJal rd imm s
  | .jalr rd rs1 imm => Sys2Proof.Machine.execJalr rd rs1 imm s
  | .div rd rs1 rs2 w32 la => Sys2Proof.Machine.execDiv rd rs1 rs2 w32 la s
  | .divu rd rs1 rs2 w32 la => Sys2Proof.Machine.execDivu rd rs1 rs2 w32 la s
  | .rem rd rs1 rs2 w32 la => Sys2Proof.Machine.execRem rd rs1 rs2 w32 la s
  | .remu rd rs1 rs2 w32 la => Sys2Proof.Machine.execRemu rd rs1 rs2 w32 la s
  | .fadd rd rs1 rs2 rm fmt => Sys2Proof.Machine.execFadd rd rs1 rs2 rm fmt s
  | .fsub rd rs1 rs2 rm fmt => Sys2Proof.Machine.execFsub rd rs1 rs2 rm fmt s
  | .fmul rd rs1 rs2 rm fmt => Sys2Proof.Machine.execFmul rd rs1 rs2 rm fmt s
  | .fmin rd rs1 rs2 fmt => Sys2Proof.Machine.execFmin rd rs1 rs2 fmt s
  | .fmax rd rs1 rs2 fmt => Sys2Proof.Machine.execFmax rd rs1 rs2 fmt s
  | .fsgnj rd rs1 rs2 j fmt => Sys2Proof.Machine.execFsgnj rd rs1 rs2 j fmt s
  | .feq rd rs1 rs2 fmt => Sys2Proof.Machine.execFeq rd rs1 rs2 fmt s
  | .flt rd rs1 rs2 fmt => Sys2Proof.Machine.execFlt rd rs1 rs2 fmt s
  | .fle rd rs1 rs2 fmt => Sys2Proof.Machine.execFle rd rs1 rs2 fmt s
  | .fclass rd rs1 fmt => Sys2Proof.Machine.execFclass rd rs1 fmt s
  | .fcvtFI rd rs1 w32 uns rm fmt => Sys2Proof.Machine.execFcvtFI rd rs1 w32 uns rm fmt s
  | .fcvtIF rd rs1 w32 uns rm fmt => Sys2Proof.Machine.execFcvtIF rd rs1 w32 uns rm fmt s
  | .fcvtFF rd rs1 rm fmt => Sys2Proof.Machine.execFcvtFF rd rs1 rm fmt s
  | .fmac rd rs1 rs2 rm fmt => Sys2Proof.Machine.execFmac rd rs1 rs2 rm fmt s
  | .fdiv rd rs1 rs2 rm dbl la => Sys2Proof.Machine.execFdiv rd rs1 rs2 rm dbl la s
  | .fsqrt rd rs1 rm dbl la => Sys2Proof.Machine.execFsqrt rd rs1 rm dbl la s
  | .amoAdd rd rs1 rs2 ord dbl la => Sys2Proof.Machine.execAmoAdd rd rs1 rs2 ord dbl la s
  | .amoAnd rd rs1 rs2 ord dbl la => Sys2Proof.Machine.execAmoAnd rd rs1 rs2 ord dbl la s
  | .amoOr rd rs1 rs2 ord dbl la => Sys2Proof.Machine.execAmoOr rd rs1 rs2 ord dbl la s
  | .amoXor rd rs1 rs2 ord dbl la => Sys2Proof.Machine.execAmoXor rd rs1 rs2 ord dbl la s
  | .amoMin rd rs1 rs2 ord dbl la => Sys2Proof.Machine.execAmoMin rd rs1 rs2 ord dbl la s
  | .amoMax rd rs1 rs2 ord dbl la => Sys2Proof.Machine.execAmoMax rd rs1 rs2 ord dbl la s
  | .amoMinu rd rs1 rs2 ord dbl la => Sys2Proof.Machine.execAmoMinu rd rs1 rs2 ord dbl la s
  | .amoMaxu rd rs1 rs2 ord dbl la => Sys2Proof.Machine.execAmoMaxu rd rs1 rs2 ord dbl la s
  | .amoSwap rd rs1 rs2 ord dbl la => Sys2Proof.Machine.execAmoSwap rd rs1 rs2 ord dbl la s
  | .amoCas rd rs1 rs2 ord dbl la => Sys2Proof.Machine.execAmoCas rd rs1 rs2 ord dbl la s
  | .amoFadd rd rs1 rs2 ord la => Sys2Proof.Machine.execAmoFadd rd rs1 rs2 ord la s
  | .fence kind scope => Sys2Proof.Machine.execFence kind scope s
  | .fenceX link later earlier => Sys2Proof.Machine.execFenceX link later earlier s
  | .chunk => Sys2Proof.Machine.execChunk s
  | .seam rs1 => Sys2Proof.Machine.execSeam rs1 s
  | .watch rd rs1 => Sys2Proof.Machine.execWatch rd rs1 s
  | .sleep rd rs1 => Sys2Proof.Machine.execSleep rd rs1 s
  | .unwatch rs1 => Sys2Proof.Machine.execUnwatch rs1 s
  | .hld hd rs1 imm => Sys2Proof.Machine.execHld hd rs1 imm s
  | .hst hd rs1 imm => Sys2Proof.Machine.execHst hd rs1 imm s
  | .hset hd rs2 fld => Sys2Proof.Machine.execHset hd rs2 fld s
  | .hget hd rs2 fld => Sys2Proof.Machine.execHget hd rs2 fld s
  | .hmov hd hk => Sys2Proof.Machine.execHmov hd hk s
  | .hadv hd rs1 rs2 => Sys2Proof.Machine.execHadv hd rs1 rs2 s
  | .hzero hd => Sys2Proof.Machine.execHzero hd s
  | .rep rs1 len hstride sstride span => Sys2Proof.Machine.execRep rs1 len hstride sstride span s
  | .vadd hd ha hb rm la => Sys2Proof.Machine.execVadd hd ha hb rm la s
  | .vsub hd ha hb rm la => Sys2Proof.Machine.execVsub hd ha hb rm la s
  | .vmul hd ha hb rm la => Sys2Proof.Machine.execVmul hd ha hb rm la s
  | .vfma hd ha hb hc rm la => Sys2Proof.Machine.execVfma hd ha hb hc rm la s
  | .vmin hd ha hb rm la => Sys2Proof.Machine.execVmin hd ha hb rm la s
  | .vmax hd ha hb rm la => Sys2Proof.Machine.execVmax hd ha hb rm la s
  | .vabs hd ha rm la => Sys2Proof.Machine.execVabs hd ha rm la s
  | .vneg hd ha rm la => Sys2Proof.Machine.execVneg hd ha rm la s
  | .vand hd ha hb la => Sys2Proof.Machine.execVand hd ha hb la s
  | .vor hd ha hb la => Sys2Proof.Machine.execVor hd ha hb la s
  | .vxor hd ha hb la => Sys2Proof.Machine.execVxor hd ha hb la s
  | .vshl hd ha hb la => Sys2Proof.Machine.execVshl hd ha hb la s
  | .vshr hd ha hb la => Sys2Proof.Machine.execVshr hd ha hb la s
  | .vsra hd ha hb la => Sys2Proof.Machine.execVsra hd ha hb la s
  | .vsel hd ha hb hc la => Sys2Proof.Machine.execVsel hd ha hb hc la s
  | .vcmpeq hd ha hb la => Sys2Proof.Machine.execVcmpeq hd ha hb la s
  | .vcmplt hd ha hb la => Sys2Proof.Machine.execVcmplt hd ha hb la s
  | .vcmple hd ha hb la => Sys2Proof.Machine.execVcmple hd ha hb la s
  | .vset hd ha rm la => Sys2Proof.Machine.execVset hd ha rm la s
  | .vcopy hd ha la => Sys2Proof.Machine.execVcopy hd ha la s
  | .vrcp hd ha rm la => Sys2Proof.Machine.execVrcp hd ha rm la s
  | .vrsq hd ha rm la => Sys2Proof.Machine.execVrsq hd ha rm la s
  | .vsqrt hd ha rm la => Sys2Proof.Machine.execVsqrt hd ha rm la s
  | .vdiv hd ha hb rm la => Sys2Proof.Machine.execVdiv hd ha hb rm la s
  | .vexp2 hd ha rm la => Sys2Proof.Machine.execVexp2 hd ha rm la s
  | .vlog2 hd ha rm la => Sys2Proof.Machine.execVlog2 hd ha rm la s
  | .vtanh hd ha rm la => Sys2Proof.Machine.execVtanh hd ha rm la s
  | .vsigm hd ha rm la => Sys2Proof.Machine.execVsigm hd ha rm la s
  | .vsinpi hd ha rm la => Sys2Proof.Machine.execVsinpi hd ha rm la s
  | .vcospi hd ha rm la => Sys2Proof.Machine.execVcospi hd ha rm la s
  | .vcvt hd ha rm la => Sys2Proof.Machine.execVcvt hd ha rm la s
  | .vqsplit hd ha hb hc rm => Sys2Proof.Machine.execVqsplit hd ha hb hc rm s
  | .vscale hd ha hb rm la => Sys2Proof.Machine.execVscale hd ha hb rm la s
  | .viota hd ha hb rm la => Sys2Proof.Machine.execViota hd ha hb rm la s
  | .vredRowAdd hd ha rm la => Sys2Proof.Machine.execVredRowAdd hd ha rm la s
  | .vredRowMax hd ha la => Sys2Proof.Machine.execVredRowMax hd ha la s
  | .vredRowMin hd ha la => Sys2Proof.Machine.execVredRowMin hd ha la s
  | .vredColAdd hd ha rm la => Sys2Proof.Machine.execVredColAdd hd ha rm la s
  | .vredColMax hd ha la => Sys2Proof.Machine.execVredColMax hd ha la s
  | .vredColMin hd ha la => Sys2Proof.Machine.execVredColMin hd ha la s
  | .vscanRowAdd hd ha rm excl la => Sys2Proof.Machine.execVscanRowAdd hd ha rm excl la s
  | .vscanRowAff hd ha hb hc rm excl => Sys2Proof.Machine.execVscanRowAff hd ha hb hc rm excl s
  | .vscanColAdd hd ha rm excl la => Sys2Proof.Machine.execVscanColAdd hd ha rm excl la s
  | .vscanColAff hd ha hb hc rm excl => Sys2Proof.Machine.execVscanColAff hd ha hb hc rm excl s
  | .vscanRowMax hd ha excl la => Sys2Proof.Machine.execVscanRowMax hd ha excl la s
  | .vgather hd ha hb la => Sys2Proof.Machine.execVgather hd ha hb la s
  | .vscatter hd ha hb la => Sys2Proof.Machine.execVscatter hd ha hb la s
  | .vtrn hd ha la => Sys2Proof.Machine.execVtrn hd ha la s
  | .vbcastRow hd ha la => Sys2Proof.Machine.execVbcastRow hd ha la s
  | .vbcastCol hd ha la => Sys2Proof.Machine.execVbcastCol hd ha la s
  | .vpack hd ha hb la => Sys2Proof.Machine.execVpack hd ha hb la s
  | .vunpack hd ha hb la => Sys2Proof.Machine.execVunpack hd ha hb la s
  | .mctx ha hb rm => Sys2Proof.Machine.execMctx ha hb rm s
  | .mbld hd ha la => Sys2Proof.Machine.execMbld hd ha la s
  | .mmul hd ha hb hc last first la => Sys2Proof.Machine.execMmul hd ha hb hc last first la s
  | .mdrain hd ha rel la => Sys2Proof.Machine.execMdrain hd ha rel la s
  | .mzero hd la => Sys2Proof.Machine.execMzero hd la s
  | .mwait => Sys2Proof.Machine.execMwait s
  | .mrem hd ha hb hc kind => Sys2Proof.Machine.execMrem hd ha hb hc kind s
  | .gscanAdd hd ha rm excl la => Sys2Proof.Machine.execGscanAdd hd ha rm excl la s
  | .gscanAff hd ha hb rm excl la => Sys2Proof.Machine.execGscanAff hd ha hb rm excl la s
  | .gscanMax hd ha excl la => Sys2Proof.Machine.execGscanMax hd ha excl la s
  | .gredAdd hd ha rm la => Sys2Proof.Machine.execGredAdd hd ha rm la s
  | .gredMax hd ha la => Sys2Proof.Machine.execGredMax hd ha la s
  | .gbcast hd ha hb la => Sys2Proof.Machine.execGbcast hd ha hb la s
  | .gsync => Sys2Proof.Machine.execGsync s
  | .xset rs1 fld la => Sys2Proof.Machine.execXset rs1 fld la s
  | .xgo rd la => Sys2Proof.Machine.execXgo rd la s
  | .xwait rd rs1 rs2 word la => Sys2Proof.Machine.execXwait rd rs1 rs2 word la s
  | .xtest rd rs1 la => Sys2Proof.Machine.execXtest rd rs1 la s
  | .xcancel rd rs1 la => Sys2Proof.Machine.execXcancel rd rs1 la s
  | .xstat rd rs1 sel la => Sys2Proof.Machine.execXstat rd rs1 sel la s
  | .binit rd rs1 rs2 la => Sys2Proof.Machine.execBinit rd rs1 rs2 la s
  | .barrive rd rs1 rs2 la => Sys2Proof.Machine.execBarrive rd rs1 rs2 la s
  | .bexpect rd rs1 rs2 la => Sys2Proof.Machine.execBexpect rd rs1 rs2 la s
  | .bwait rd rs1 rs2 la => Sys2Proof.Machine.execBwait rd rs1 rs2 la s
  | .btry rd rs1 rs2 la => Sys2Proof.Machine.execBtry rd rs1 rs2 la s
  | .barriveExp rd rs1 rs2 la => Sys2Proof.Machine.execBarriveExp rd rs1 rs2 la s
  | .send rd rs1 rs2 la => Sys2Proof.Machine.execSend rd rs1 rs2 la s
  | .sendm rd rs1 rs2 la => Sys2Proof.Machine.execSendm rd rs1 rs2 la s
  | .spawn rd rs1 rs2 la => Sys2Proof.Machine.execSpawn rd rs1 rs2 la s
  | .done => Sys2Proof.Machine.execDone s
  | .qstat rd sel la => Sys2Proof.Machine.execQstat rd sel la s
  | .carry rd rs1 rs2 la => Sys2Proof.Machine.execCarry rd rs1 rs2 la s
  | .carryw rd rs1 rs2 la => Sys2Proof.Machine.execCarryw rd rs1 rs2 la s
  | .yield rd => Sys2Proof.Machine.execYield rd s
  | .reseed rd rs1 rs2 ownerForm remap la => Sys2Proof.Machine.execReseed rd rs1 rs2 ownerForm remap la s
  | .draw rd rs1 la => Sys2Proof.Machine.execDraw rd rs1 la s
  | .exq rd rs1 align cur la => Sys2Proof.Machine.execExq rd rs1 align cur la s
  | .excurve rd rs1 rs2 align cur la => Sys2Proof.Machine.execExcurve rd rs1 rs2 align cur la s
  | .plq rd rs1 sel la => Sys2Proof.Machine.execPlq rd rs1 sel la s
  | .xlpin rd rs1 rs2 pinData la => Sys2Proof.Machine.execXlpin rd rs1 rs2 pinData la s
  | .xlunpin rd rs1 la => Sys2Proof.Machine.execXlunpin rd rs1 la s
  | .pclass rd rs1 sel la => Sys2Proof.Machine.execPclass rd rs1 sel la s
  | .rangeq rd rs1 la => Sys2Proof.Machine.execRangeq rd rs1 la s
  | .regsw rd rs1 rs2 la => Sys2Proof.Machine.execRegsw rd rs1 rs2 la s
  | .pload rd rs1 rs2 la => Sys2Proof.Machine.execPload rd rs1 rs2 la s
  | .replay rd rs1 rs2 la => Sys2Proof.Machine.execReplay rd rs1 rs2 la s
  | .migrate rd rs1 rs2 la => Sys2Proof.Machine.execMigrate rd rs1 rs2 la s
  | .shoot rd rs1 rs2 doFlush la => Sys2Proof.Machine.execShoot rd rs1 rs2 doFlush la s
  | .compose rd n => Sys2Proof.Machine.execCompose rd n s
  | .release rd => Sys2Proof.Machine.execRelease rd s
  | .cstat rd la => Sys2Proof.Machine.execCstat rd la s
  | .crr rd cr => Sys2Proof.Machine.execCrr rd cr s
  | .crw rd rs1 cr => Sys2Proof.Machine.execCrw rd rs1 cr s
  | .crs rd rs1 cr => Sys2Proof.Machine.execCrs rd rs1 cr s
  | .crc rd rs1 cr => Sys2Proof.Machine.execCrc rd rs1 cr s
  | .trap rs1 => Sys2Proof.Machine.execTrap rs1 s
  | .eret => Sys2Proof.Machine.execEret s
  | .brk code => Sys2Proof.Machine.execBrk code s
  | .nop => Sys2Proof.Machine.execNop s
  | .synci rs1 rs2 => Sys2Proof.Machine.execSynci rs1 rs2 s
  | .carve rd rs1 => Sys2Proof.Machine.execCarve rd rs1 s
  | .capmint rd rs1 => Sys2Proof.Machine.execCapmint rd rs1 s
  | .wfi rd => Sys2Proof.Machine.execWfi rd s
  | .cLw rd rs1 n => Sys2Proof.Machine.execCLw rd rs1 n s
  | .cLd rd rs1 n => Sys2Proof.Machine.execCLd rd rs1 n s
  | .cSw rs1 rs2 n => Sys2Proof.Machine.execCSw rs1 rs2 n s
  | .cSd rs1 rs2 n => Sys2Proof.Machine.execCSd rs1 rs2 n s
  | .cBeqz rs1 imm => Sys2Proof.Machine.execCBeqz rs1 imm s
  | .cBnez rs1 imm => Sys2Proof.Machine.execCBnez rs1 imm s
  | .cJ imm => Sys2Proof.Machine.execCJ imm s
  | .cJr rs1 => Sys2Proof.Machine.execCJr rs1 s
  | .cMv rd rs1 => Sys2Proof.Machine.execCMv rd rs1 s
  | .cAdd rd rs1 => Sys2Proof.Machine.execCAdd rd rs1 s
  | .cSub rd rs1 => Sys2Proof.Machine.execCSub rd rs1 s
  | .cAnd rd rs1 => Sys2Proof.Machine.execCAnd rd rs1 s
  | .cOr rd rs1 => Sys2Proof.Machine.execCOr rd rs1 s
  | .cXor rd rs1 => Sys2Proof.Machine.execCXor rd rs1 s
  | .cAddi rd imm => Sys2Proof.Machine.execCAddi rd imm s
  | .cLi rd imm => Sys2Proof.Machine.execCLi rd imm s
  | .cSlli rd shamt => Sys2Proof.Machine.execCSlli rd shamt s
  | .cSrli rd shamt => Sys2Proof.Machine.execCSrli rd shamt s
  | .cSrai rd shamt => Sys2Proof.Machine.execCSrai rd shamt s
  | .cNop => Sys2Proof.Machine.execCNop s
  | .cDone => Sys2Proof.Machine.execCDone s
  | .reservedEncoding bits short => Sys2Proof.Machine.execReservedEncoding bits short s
  | .fetchFromAddressZero => Sys2Proof.Machine.execFetchFromAddressZero s
  | .instructionFetchFault cause va => Sys2Proof.Machine.execInstructionFetchFault cause va s
  | .slotSelection core slot => Sys2Proof.Machine.execSlotSelection core slot s
  | .chunkCommit core slot => Sys2Proof.Machine.execChunkCommit core slot s
  | .faultBatchWrite owner batch => Sys2Proof.Machine.execFaultBatchWrite owner batch s
  | .faultBatchService owner batch => Sys2Proof.Machine.execFaultBatchService owner batch s
  | .syscallService core slot => Sys2Proof.Machine.execSyscallService core slot s
  | .logFull domain => Sys2Proof.Machine.execLogFull domain s
  | .messageArrival src dst => Sys2Proof.Machine.execMessageArrival src dst s
  | .messageResend core entry => Sys2Proof.Machine.execMessageResend core entry s
  | .messageDispatch core => Sys2Proof.Machine.execMessageDispatch core s
  | .launch r => Sys2Proof.Machine.execLaunch r s
  | .abort r => Sys2Proof.Machine.execAbort r s
  | .preempt r => Sys2Proof.Machine.execPreempt r s
  | .preemptResume r => Sys2Proof.Machine.execPreemptResume r s
  | .query r => Sys2Proof.Machine.execQuery r s
  | .badopRequest r admin => Sys2Proof.Machine.execBadopRequest r admin s
  | .map r => Sys2Proof.Machine.execMap r s
  | .unmap r => Sys2Proof.Machine.execUnmap r s
  | .populate r => Sys2Proof.Machine.execPopulate r s
  | .window r => Sys2Proof.Machine.execWindow r s
  | .ranges r => Sys2Proof.Machine.execRanges r s
  | .faultans r => Sys2Proof.Machine.execFaultans r s
  | .ownerCreate r ownerRecord => Sys2Proof.Machine.execOwnerCreate r ownerRecord s
  | .ownerRetire r => Sys2Proof.Machine.execOwnerRetire r s
  | .partitionReady owner => Sys2Proof.Machine.execPartitionReady owner s
  | .seamjoin r => Sys2Proof.Machine.execSeamjoin r s
  | .attestationRequest r => Sys2Proof.Machine.execAttestationRequest r s
  | .rdmaWrite packet va bytes => Sys2Proof.Machine.execRdmaWrite packet va bytes s
  | .rdmaRead packet va n => Sys2Proof.Machine.execRdmaRead packet va n s
  | .kernelPlacement owner knum => Sys2Proof.Machine.execKernelPlacement owner knum s
  | .priorityPreemption owner knum => Sys2Proof.Machine.execPriorityPreemption owner knum s
  | .gangPreemption owner knum => Sys2Proof.Machine.execGangPreemption owner knum s
  | .kernelResume owner knum => Sys2Proof.Machine.execKernelResume owner knum s
  | .transferStart core tid => Sys2Proof.Machine.execTransferStart core tid s
  | .transferChunkLanding core tid chunk => Sys2Proof.Machine.execTransferChunkLanding core tid chunk s
  | .transferCancellation core tid => Sys2Proof.Machine.execTransferCancellation core tid s
  | .mzeroExecute unit core => Sys2Proof.Machine.execMzeroExecute unit core s
  | .mbldExecute unit core => Sys2Proof.Machine.execMbldExecute unit core s
  | .mmulExecute unit core => Sys2Proof.Machine.execMmulExecute unit core s
  | .mdrainExecute unit core => Sys2Proof.Machine.execMdrainExecute unit core s
  | .remoteMatrixCommand unit core => Sys2Proof.Machine.execRemoteMatrixCommand unit core s
  | .collectiveComplete owner knum group => Sys2Proof.Machine.execCollectiveComplete owner knum group s
  | .collectiveTimeout core slot => Sys2Proof.Machine.execCollectiveTimeout core slot s
  | .bwaitTimeout core slot => Sys2Proof.Machine.execBwaitTimeout core slot s
  | .sleepTimeout core slot => Sys2Proof.Machine.execSleepTimeout core slot s
  | .wfiTimeout core slot => Sys2Proof.Machine.execWfiTimeout core slot s
  | .xwaitTimeout core slot => Sys2Proof.Machine.execXwaitTimeout core slot s
  | .carrywTimeout core slot => Sys2Proof.Machine.execCarrywTimeout core slot s
  | .leaseExpiry core line => Sys2Proof.Machine.execLeaseExpiry core line s
  | .remotePackedStore core => Sys2Proof.Machine.execRemotePackedStore core s
  | .arbitrationRound cls arbiter => Sys2Proof.Machine.execArbitrationRound cls arbiter s
  | .gets core line => Sys2Proof.Machine.execGets core line s
  | .getm core line => Sys2Proof.Machine.execGetm core line s
  | .upgrade core line => Sys2Proof.Machine.execUpgrade core line s
  | .puts core line => Sys2Proof.Machine.execPuts core line s
  | .putm core line => Sys2Proof.Machine.execPutm core line s
  | .atomic core line => Sys2Proof.Machine.execAtomic core line s
  | .write core line => Sys2Proof.Machine.execWrite core line s
  | .dirEvict line => Sys2Proof.Machine.execDirEvict line s
  | .recallLine line => Sys2Proof.Machine.execRecall line s
  | .flush line => Sys2Proof.Machine.execFlush line s
  | .reclassify access => Sys2Proof.Machine.execReclassify access s
  | .fwdtagConsume core line => Sys2Proof.Machine.execFwdtagConsume core line s
  | .inv die line => Sys2Proof.Machine.execInv die line s
  | .fwdS die line => Sys2Proof.Machine.execFwdS die line s
  | .fwdM die line => Sys2Proof.Machine.execFwdM die line s
  | .update die line => Sys2Proof.Machine.execUpdate die line s
  | .dieRecall die line => Sys2Proof.Machine.execDieRecall die line s
  | .ack die line => Sys2Proof.Machine.execAck die line s
  | .data die line => Sys2Proof.Machine.execData die line s
  | .seamIntervalExpiry domain => Sys2Proof.Machine.execSeamIntervalExpiry domain s
  | .seamCommit part => Sys2Proof.Machine.execSeamCommit part s
  | .uncorrectableError what => Sys2Proof.Machine.execUncorrectableError what s
  | .rollback domain => Sys2Proof.Machine.execRollback domain s
  | .directoryEntryError line recallError => Sys2Proof.Machine.execDirectoryEntryError line recallError s
  | .patrolScrub loc => Sys2Proof.Machine.execPatrolScrub loc s
  | .refreshManagement stack bank => Sys2Proof.Machine.execRefreshManagement stack bank s
  | .coreSparing core => Sys2Proof.Machine.execCoreSparing core s
  | .sliceSparing die slice => Sys2Proof.Machine.execSliceSparing die slice s
  | .pseudoChannelSparing pc => Sys2Proof.Machine.execPseudoChannelSparing pc s
  | .lysaUpdate image version => Sys2Proof.Machine.execLysaUpdate image version s
  | .partnerDetected port => Sys2Proof.Machine.execPartnerDetected port s
  | .linkTrained port lanes => Sys2Proof.Machine.execLinkTrained port lanes s
  | .linkFault port physical => Sys2Proof.Machine.execLinkFault port physical s
  | .rtlimitExpiry port => Sys2Proof.Machine.execRtlimitExpiry port s
  | .linkRepair port => Sys2Proof.Machine.execLinkRepair port s
  | .uePortFault port => Sys2Proof.Machine.execUePortFault port s
  | .dataFlit port flit => Sys2Proof.Machine.execDataFlit port flit s
  | .ackFlit port flit => Sys2Proof.Machine.execAckFlit port flit s
  | .nakFlit port flit => Sys2Proof.Machine.execNakFlit port flit s
  | .trainingFlit port flit => Sys2Proof.Machine.execTrainingFlit port flit s
  | .flitResendLimit port => Sys2Proof.Machine.execFlitResendLimit port s
  | .carryArrival packet => Sys2Proof.Machine.execCarryArrival packet s
  | .carryResend core entry => Sys2Proof.Machine.execCarryResend core entry s
  | .carryAcknowledgement core entry reply => Sys2Proof.Machine.execCarryAcknowledgement core entry reply s
  | .powerOn => Sys2Proof.Machine.execPowerOn s
  | .railFault rail => Sys2Proof.Machine.execRailFault rail s
  | .powerLimit => Sys2Proof.Machine.execPowerLimit s
  | .powerRecovery => Sys2Proof.Machine.execPowerRecovery s
  | .thermalThrottle temp => Sys2Proof.Machine.execThermalThrottle temp s
  | .thermalRecovery temp => Sys2Proof.Machine.execThermalRecovery temp s
  | .thermalTrip temp => Sys2Proof.Machine.execThermalTrip temp s
  | .watchdogExpiry die => Sys2Proof.Machine.execWatchdogExpiry die s
  | .wdogKick core value => Sys2Proof.Machine.execWdogKick core value s
  | .plbFlush core => Sys2Proof.Machine.execPlbFlush core s
  | .bmReset => Sys2Proof.Machine.execBmReset s
  | .bypass => Sys2Proof.Machine.execBypass s
  | .idcode => Sys2Proof.Machine.execIdcode s
  | .samplePreload cells => Sys2Proof.Machine.execSamplePreload cells s
  | .extest cells => Sys2Proof.Machine.execExtest cells s
  | .partnerLost port => Sys2Proof.Machine.execPartnerLost port s
  | .idleFlit port flit => Sys2Proof.Machine.execIdleFlit port flit s

end Sys2Proof.Machine
end

