-- ==== Sys2Proof/Machine/Issue.lean ====
section
/-!
DEFINITION. Sys2Proof/Machine/Issue.lean: how a context's next instruction is found and issued (02 R24, R28, R43 to R47, 05 R127,
R128, 06 R132 to R134, 09 R199), and which of the machine's own events comes next when no context can issue.
-/

namespace Sys2Proof.Machine

/-! ### The lookahead contract (02 R43 to R47) -/

/-- An address of the core path in the numbering of window footprints: the location of a byte of a local window, else the virtual
address. -/
def State.unifiedVa (s : State) (va : Nat) : Nat :=
  if inWindowRegion va then (s.windowLoc s.coreId va).getD va else va

/-- The bytes an instruction accesses through addresses in its registers and shadow fields, as ranges of virtual addresses. -/
def Arch.accesses (a : Arch) : Instr → List (Nat × Nat)
  | .lb _ rs1 imm _ _ | .lbu _ rs1 imm _ _ => [(ea9 a.regs[rs1] imm 1, 1)]
  | .lh _ rs1 imm _ _ | .lhu _ rs1 imm _ _ => [(ea9 a.regs[rs1] imm 2, 2)]
  | .lw _ rs1 imm _ _ | .lwu _ rs1 imm _ _ => [(ea9 a.regs[rs1] imm 4, 4)]
  | .ld _ rs1 imm _ _ => [(ea9 a.regs[rs1] imm 8, 8)]
  | .sb rs1 _ imm => [(ea14 a.regs[rs1] imm, 1)]
  | .sh rs1 _ imm => [(ea14 a.regs[rs1] imm, 2)]
  | .sw rs1 _ imm | .swRel rs1 _ imm => [(ea14 a.regs[rs1] imm, 4)]
  | .sd rs1 _ imm | .sdRel rs1 _ imm | .sdFwd rs1 _ imm => [(ea14 a.regs[rs1] imm, 8)]
  | .cLw _ rs1 n | .cSw rs1 _ n => [(eaC a.regs[rs1] n 4, 4)]
  | .cLd _ rs1 n | .cSd rs1 _ n => [(eaC a.regs[rs1] n 8, 8)]
  | .hld _ rs1 imm | .hst _ rs1 imm => [(eaH a.regs[rs1] imm, 32)]
  | .amoAdd _ rs1 _ _ dbl _ | .amoAnd _ rs1 _ _ dbl _ | .amoOr _ rs1 _ _ dbl _ | .amoXor _ rs1 _ _ dbl _ | .amoMin _ rs1 _ _ dbl _
  | .amoMax _ rs1 _ _ dbl _ | .amoMinu _ rs1 _ _ dbl _ | .amoMaxu _ rs1 _ _ dbl _ | .amoSwap _ rs1 _ _ dbl _ | .amoCas _ rs1 _ _ dbl _ =>
    [(a.regs[rs1].toNat, amoBytes dbl)]
  | .amoFadd _ rs1 _ _ _ => [(a.regs[rs1].toNat, 4)]
  | .binit _ rs1 _ _ | .barrive _ rs1 _ _ | .bexpect _ rs1 _ _ | .bwait _ rs1 _ _ | .btry _ rs1 _ _ | .barriveExp _ rs1 _ _ =>
    [(a.regs[rs1].toNat, 16)]
  | .send _ rs1 rs2 _ | .spawn _ rs1 rs2 _ => [(a.regs[rs2].toNat, descLen a.regs[rs1])]
  | .sendm _ rs1 rs2 _ => [(a.regs[rs2].toNat, descLen a.regs[rs1]), (a.mcast.toNat, 64)]
  | .carry _ rs1 rs2 _ => [(a.regs[rs2].toNat, carryLen a.regs[rs1])]
  | .excurve _ _ rs2 _ _ _ => [(a.regs[rs2].toNat, 256)]
  | .xgo _ _ =>
    let p := CopyPlan.ofShadow a.shadow
    if p.landing = 0 then [] else [(p.landing, 8 * (p.recordImage 0).length)]
  | _ => []

/-- The virtual addresses that depend on more than registers: the words an XWAIT reads of its record (18 R363), the buffer of a carry that a
CARRYW takes (24 R420), the image a PLOAD reads (10 R243). -/
def State.furtherAccesses (s : State) (i : Instr) : List (Nat × Nat) :=
  let a := s.ctx.arch
  match i with
  | .xwait _ rs1 rs2 word _ =>
    let v := a.regs[rs1]
    match xwaitTid v s with
    | .ok (tid, _) =>
      if bitsOf v 63 1 = 1 then []
      else (v.toNat, 4) :: (if a.regs[rs2] ≠ 0 ∧ ((s.transfer? s.coreId tid).map Transfer.live).getD false then
        [(wrap64 (v.toNat + 16 + 8 * word.toNat : Nat), 8)] else [])
    | .error _ => []
  | .carryw _ rs1 rs2 _ =>
    match (s.myCore.carry a.regs[rs1].toNat).full with
    | some c => [(a.regs[rs2].toNat, c.bytes.length)]
    | none => []
  | .pload _ rs1 rs2 _ => if (s.ploadRefused (bitsOf a.regs[rs2] 0 4)).isSome then [] else [(a.regs[rs1].toNat, 2176)]
  | _ => []

/-- The bytes a matrix command of a requester reads or writes through an operand: a B slot, an accumulation slot, rows in the canonical layout with
four scale bytes each (17 R331), or a window (17 R338). -/
def Tile.matFootprint (t : Tile) (r : MatReq) (canonical : Bool) : List (Nat × Nat) :=
  let at' := fun (x : Int × Nat) => (r.loc t.space (wrap64 x.1), x.2)
  if t.isEmpty then []
  else if t.space = spBstore then [(bstoreLoc r.cluster t.base, 512)]
  else if t.space = spAcc then [(accLoc r.cluster (t.base % 4 * 2 ^ 20), 2 ^ 20)]
  else if !t.isLocal then []
  else if canonical then
    at' ((t.base : Int), t.er * rowLength t.fmt) :: (if t.form.isMx then [at' ((t.sbase : Int), 4 * t.er)] else [])
  else t.spans.map at'

/-- The bytes of a matrix instruction's operands; with an empty destination it reads and writes nothing (02 R22). -/
def State.matAccesses (s : State) (r : MatReq) (hd : HReg) (canon plain : List HReg) : List (Nat × Nat) :=
  let t := fun (h : HReg) => Tile.of h s.ctx.arch.handles[h]
  if (t hd).isEmpty then []
  else canon.flatMap (fun h => (t h).matFootprint r true) ++ (hd :: plain).flatMap fun h => (t h).matFootprint r false

/-- The executing context as the requester of a remote command, at the unit its capability names. -/
def State.remoteReq (s : State) (cap : HReg) : MatReq :=
  let unit := bitsOf s.ctx.arch.handles[cap] 33 6
  { s.matReq with cluster := unit, tcm := 8 * unit + (Config.remoteTcm unit s.coreId).val, remote := true }

/-- The bytes of elements of a window that are reached one by one. -/
def Tile.cells (t : Tile) (s : State) (es : List (Nat × Nat)) : List (Nat × Nat) :=
  if t.isImm ∨ t.isEmpty then [] else es.map fun (i, j) => let x := t.span i j 1; (t.unified s x.1, x.2)

/-- The elements of an n-column table that the indices of hb name, as they stand (16 R324). -/
def State.named (s : State) (b : Tile) (rows cols : Nat) : List (Nat × Nat) :=
  (mkGrid b.er b.ec fun i j => match b.read i j s with | .ok (v, _) => indexOf b v (rows * cols) | .error _ => none).flatten.filterMap fun k =>
    k.map fun k => (k / cols, k % cols)

/-- The columns o + j k of the strided side of a VPACK or VUNPACK (16 R326). -/
def strided (b : Tile) (rows n : Nat) : List (Nat × Nat) :=
  (mkGrid rows n fun i j => (i, b.base / 2 ^ 16 % 2 ^ 16 + j * (b.base % 2 ^ 16))).flatten

/-- Is a source of a vector instruction one that may be absent (16 R303)? -/
def optionalSource : Instr → List HReg
  | .vqsplit _ _ _ hc _ | .vscanRowAff _ _ _ hc _ _ | .vscanColAff _ _ _ hc _ _ => [hc]
  | _ => []

/-- The bytes that a vector instruction reads and writes through its handles: none with an empty destination or a null required source (16 R303), of
a strided or indexed window the elements it reaches. -/
def State.vectorAccesses (s : State) (i : Instr) : List (Nat × Nat) :=
  let h := fun (r : HReg) => s.ctx.arch.handles[r]
  let t := fun (r : HReg) => Tile.of r (h r)
  let all := fun (r : HReg) => (t r).footprint s
  match instrHandles i with
  | [] => []
  | hd :: srcs =>
    if (t hd).isEmpty ∨ ((srcs.filter fun r => !(optionalSource i).contains r).any fun r => h r == 0) then []
    else match i with
      | .vgather hd ha hb _ => all hd ++ all hb ++ (t ha).cells s (s.named (t hb) (t ha).er (t ha).ec)
      | .vscatter hd ha hb _ => all ha ++ all hb ++ (t hd).cells s (s.named (t hb) (t hd).er (t hd).ec)
      | .vpack hd ha hb _ => all ha ++ (t hd).cells s (strided (t hb) (t hd).er (t ha).ec)
      | .vunpack hd ha hb _ => all hd ++ (t ha).cells s (strided (t hb) (t hd).er (t hd).ec)
      | _ => all hd ++ srcs.flatMap all

/-- The bytes that an instruction reads and writes through its handles. A HANDLE-major instruction works on the register alone (05 R124), and MCTX
reads two formats of it. -/
def State.handleAccesses (s : State) (i : Instr) : List (Nat × Nat) :=
  match i with
  | .hld _ _ _ | .hst _ _ _ | .hset _ _ _ | .hget _ _ _ | .hmov _ _ | .hadv _ _ _ | .hzero _ | .mctx _ _ _ => []
  | .mbld hd ha _ => s.matAccesses s.matReq hd [ha] []
  | .mmul hd ha hb hc _ _ _ => s.matAccesses s.matReq hd [ha] [hb, hc]
  | .mdrain hd ha _ _ => s.matAccesses s.matReq hd [] [ha]
  | .mzero hd _ => s.matAccesses s.matReq hd [] []
  | .mrem hd ha hb hc kind =>
    s.matAccesses (s.remoteReq hc) hd (if kind.toNat < 4 then [ha] else []) (if kind.toNat < 4 then [hb] else if kind = 4 then [] else [ha])
  | _ =>
    match groupIns i with
    | some g =>
      let t := fun (r : HReg) => Tile.of r s.ctx.arch.handles[r]
      if g.op = 6 ∨ (t g.hd).isEmpty then [] else (g.hd :: g.reads s.ctx.arch s.ctx.rank).flatMap fun r => (t r).footprint s
    | none => s.vectorAccesses i

/-- Every range of bytes an instruction reads or writes, in one numbering. -/
def State.touches (s : State) (i : Instr) : List (Nat × Nat) :=
  (s.ctx.arch.accesses i ++ s.furtherAccesses i).map (fun (va, n) => (s.unifiedVa va, n)) ++ s.handleAccesses i

/-- Do two ranges of bytes share a byte? -/
def rangesMeet (x y : Nat × Nat) : Bool := decide (max x.1 y.1 < min (x.1 + x.2) (y.1 + y.2))

/-- Does an instruction inside an open window violate the contract (02 R45)? -/
def State.violates (s : State) (i : Instr) (w : Window) : Bool :=
  match w.dest with
  | .reg r => (instrSources i).contains r || (instrDests i).contains r
  | .window h _ bytes =>
    (instrHandles i).contains h || (s.touches i).any fun x => bytes.any fun y => rangesMeet x y

/-- Does an instruction raise ILLEGAL or PRIV here? Those come before LOOKAHEAD (02 R28), and LOOKAHEAD before every other trap of the
instruction: the outcome of executing it with no window open says so. Cause 0 and an odd CR_EPC are never written by a trap. -/
def State.trapsEarly (s : State) (i : Instr) : Bool :=
  let s := s.mapArch fun a => { a with windows := [], cause := 0, epc := 1 }
  let s := s.mapKernel s.ctx.owner s.ctx.knum fun k => { k with state := .draining }
  match exec i s with
  | .next t =>
    let a := t.ctx.arch
    (a.cause == BitVec.ofNat 64 causeIllegal || a.cause == BitVec.ofNat 64 causePriv) && a.epc != 1
  | _ => false

/-- Execute the instruction the context has come to, after the lookahead check. -/
def State.checked (s : State) (i : Instr) : Host.Outcome State Fault Refusal :=
  match s.ctx.arch.windows.find? (s.violates i) with
  | none => exec i s
  | some w =>
    if s.trapsEarly i then exec i s
    else .next (if s.ahead then s.endRunahead else s.trap i causeLookahead (BitVec.ofNat 64 w.addr) false 0 [])

/-! ### Issuing an instruction -/

/-- The body instruction at the pc of a context inside a repetition (05 R127). -/
def Arch.bodyAt (a : Arch) : Option BodyIns :=
  if a.inRep && a.repAct then a.body.find? (·.addr == a.pc.toNat) else none

/-- The instruction register holds the bits of the instruction being executed (02 R29). -/
def State.withIr (s : State) (bits : Nat) : State := { s with ir := BitVec.ofNat 64 bits }

/-- Execute a body instruction on the current pass; what a body may not hold raises ILLEGAL when it is reached (05 R128). -/
def State.issueBody (s : State) (b : BodyIns) : Host.Outcome State Fault Refusal :=
  let s := s.withIr b.bits
  if repForbidden b.ins then execReservedEncoding (BitVec.ofNat 32 b.bits) (b.len == 2) s
  else s.checked (s.ctx.arch.rename b.ins)

/-- Execute an instruction that has been fetched. -/
def State.issueFetched (s : State) (b : BodyIns) : Host.Outcome State Fault Refusal := (s.withIr b.bits).checked b.ins

/-- Fetch at the pc and execute (02 R24, 06 R134). -/
def State.fetchAndIssue (s : State) : Host.Outcome State Fault Refusal :=
  if s.ctx.arch.pc = 0 then execFetchFromAddressZero s
  else match fetchIns s.ctx.arch.pc.toNat s with
    | .ok (b, t) => t.issueFetched b
    | .error (.trap cause tval _) => execInstructionFetchFault cause tval.toNat s
    | .error (.wait w) => .next (s.block w)
    | .error .invalid => .next s.endRunahead

/-- A chunk attempted for the fifth time takes every grant before its first instruction (09 R199). -/
def State.mustLock (s : State) : Bool :=
  let c := s.ctx.chunk
  decide (4 ≤ c.attempts) && !c.locked && c.ins == c.startIns && c.readLines.isEmpty && c.writes.isEmpty && !s.ahead

/-- Conditions of FENCE.X that hold no more are forgotten. -/
def State.pruneConditions (s : State) : State :=
  if s.ctx.conditions.isEmpty then s
  else { s with ctx := { s.ctx with conditions := s.ctx.conditions.filter fun c => !s.conditionMet s.coreId c } }

/-- An instruction that a condition holds waits; where only lost link writes hold it, it raises LINK_LOST, and the condition keeps them no more (09 R217). -/
def State.waitHeld (s : State) : State :=
  match s.lostSince (·.core) with
  | none => s.block { kind := .fence }
  | some (p, n) =>
    if s.ahead then s.endRunahead
    else
      let t : State := { s with ctx := { s.ctx with conditions := s.ctx.conditions.map s.dropLost } }
      (t.recordLinkWrites t.ctx.arch.pc.toNat).trap .nop causeLinkLost (BitVec.ofNat 64 (linkLostValue p n)) false 0 []

/-- One step of the executing context: a chunk that has ended commits, a condition that holds the thread's later instructions makes it
wait, and otherwise its next instruction executes. -/
def State.runCur (s : State) : Host.Outcome State Fault Refusal :=
  let s := s.pruneConditions
  if s.ctx.chunk.full then .next (if s.canCommit then s.endFull else s.block { kind := .commit })
  else if s.held (·.core) then .next (s.waitHeld)
  else if s.mustLock && (s.foreignLock || s.lockWaits) || s.laterLocked then .next (s.block { kind := .commit })
  else
    let s := if s.mustLock then s.mapChunk fun c => { c with locked := true } else s
    match s.ctx.arch.bodyAt with
    | some b => s.issueBody b
    | none => s.fetchAndIssue

/-- Does this context hold an issuing slot? -/
def Context.issues (c : Context) : Bool := c.life == .running || c.life == .runahead

/-- Can this context issue? None does in a domain whose seam is being taken or undone (23 R399, R402). -/
def State.canIssue (s : State) (c : Context) : Bool := c.issues && !s.seamHolds c

/-- READY contexts of a core enter its free issuing slots as its arbiter chooses, until this one has entered or none is free (06 R132). -/
def State.fillSlots (s : State) (core slot : Nat) : (fuel : Nat) → State
  | 0 => s
  | n + 1 =>
    if (s.ctxAt core slot).issues then s
    else ((s.readyOn core).foldl (fun t (k, m) => if t = s then nextOf t (execSlotSelection k m t) else t) s).fillSlots core slot n

/-- The turn of an access that a home has held: its context issues it now, if it can (10 R239, 22 R390). -/
def State.takeTurn (s : State) (core slot : Nat) : Host.Outcome State Fault Refusal :=
  let s := (s.mapCtxAt core slot fun c => if c.wait.kind = .homeBlock then c.wake else c).fillSlots core slot 8
  let t := s.switchTo core slot
  if t.canIssue t.ctx then t.runCur else .next s

/-! ### The machine's own events, where no context can issue -/

/-- Serve a request a device thread has made (07 R167, 11 R247). -/
def serveRequest (r : Request) (s : State) : Host.Outcome State Fault Refusal :=
  match r.op with
  | 1 => execLaunch r s
  | 2 => execAbort r s
  | 3 => if r.mflags % 2 = 1 then execPreemptResume r s else execPreempt r s
  | 4 => execQuery r s
  | 20 => execMap r s
  | 21 => execUnmap r s
  | 22 => execPopulate r s
  | 23 => execWindow r s
  | 24 => execRanges r s
  | 25 => execFaultans r s
  | _ => execBadopRequest r false s

/-- The step of a die that a protocol message in flight asks for. -/
def takeMessage (m : ProtoMsg) (s : State) : Host.Outcome State Fault Refusal :=
  if m.kind = msgInv then execInv m.die m.line s
  else if m.kind = msgFwdS then execFwdS m.die m.line s
  else if m.kind = msgFwdM then execFwdM m.die m.line s
  else if m.kind = msgUpdate then execUpdate m.die m.line s
  else if m.kind = msgRecall then execDieRecall m.die m.line s
  else if m.kind = msgData then execData m.die m.line s
  else execAck m.die m.line s

/-- The unit's next command of each kind. -/
def matrixEvents (unit : Nat) (q : MatCmd) (s : State) : Host.Outcome State Fault Refusal :=
  match q.op with
  | .mzero => execMzeroExecute unit q.core s
  | .mbld => execMbldExecute unit q.core s
  | .mmul => execMmulExecute unit q.core s
  | .mdrain => execMdrainExecute unit q.core s
  | .mctx => settleUnit unit s

abbrev Event := State → Host.Outcome State Fault Refusal

/-- Events about contexts: the next commit, the answer to a SYSCALL, and the ends of waits. -/
def State.contextEvents (s : State) : List Event :=
  s.allCtxs.flatMap fun (core, slot, c) =>
    (if c.wait.kind = .remoteCommand then (List.range 64).map fun unit => execRemoteMatrixCommand unit core else [])
    ++ [execChunkCommit core slot, execSyscallService core slot, execCollectiveTimeout core slot, execBwaitTimeout core slot
     , execSleepTimeout core slot, execWfiTimeout core slot, execXwaitTimeout core slot, execCarrywTimeout core slot]

/-- Events about cores: their queues, copy engines and replay windows. -/
def State.coreEvents (s : State) : List Event :=
  s.cores.flatMap fun (core, c) =>
    [execMessageDispatch core]
    ++ (c.transfers.filter (·.live)).flatMap (fun t =>
      [execTransferCancellation core t.tid, execTransferStart core t.tid] ++ (List.range (t.plan.chunks + 1)).map (execTransferChunkLanding core t.tid))
    ++ c.window.map (fun e => execMessageArrival core e.dst) ++ (List.range c.window.length).map (execMessageResend core)

/-- Lysa acts on a kernel with a FAULTED context (07 R163). -/
def stopFaulted (owner knum : Nat) (s : State) : Host.Outcome State Fault Refusal :=
  .next (if s.lockStands ∨ s.stopWaits owner ∨ ((s.kernel? owner knum).map s.seamBars).getD false then s
    else ((s.serveFaulted owner knum).wakeRetries).endKernels)

/-- Ends of the range switches, the blocks of extents and owners' RESEEDs under way. -/
def State.switchEvents (s : State) : List Event :=
  s.coh.switches.map (fun w => rangeSwitched w.core w.index) ++ s.blocks.map (fun b => pageUnblocked b.core b.slot)
    ++ ((s.owners.filterMap (·.2)).filter fun o => o.state == .reseeding).map fun o => ownerReseeded o.id

/-- Events about kernels and owners: what lysa does by itself. -/
def State.lysaEvents (s : State) : List Event :=
  s.requests.map serveRequest
  ++ (s.owners.filterMap (·.2)).flatMap (fun o =>
    [execPartitionReady o.id] ++ (match o.retire with | some r => [execOwnerRetire r] | none => []))
  ++ s.batches.flatMap (fun b => [execFaultBatchWrite b.owner b.id, execFaultBatchService b.owner b.id])
  ++ s.allKernels.flatMap (fun k =>
    [stopFaulted k.owner k.knum, execGangPreemption k.owner k.knum, execKernelResume k.owner k.knum, execKernelPlacement k.owner k.knum, execPriorityPreemption k.owner k.knum]
    ++ k.groups.map fun g => execCollectiveComplete k.owner k.knum g.index)
  ++ s.replies.map (fun e => execMessageArrival lysaCore e.dst) ++ (List.range s.replies.length).map (execMessageResend lysaCore)

/-- Events of the matrix units. -/
def State.unitEvents (s : State) : List Event :=
  s.clusters.flatMap fun (unit, u) => u.queue.map (matrixEvents unit)

/-- Half a second of GCT ticks, the longest lysa lets a watchdog run. -/
def kickTicks : Nat := 500000000

/-- Lysa kicks the watchdog of its die (26 R434). -/
def kickDie (d : Nat) (s : State) : Host.Outcome State Fault Refusal :=
  if s.platform.stage = 6 ∧ (s.die d).wdogKick + kickTicks ≤ (s.die d).gct then execWdogKick (128 * d + 127) (2 ^ 32) s else .next s

/-- Events of seam domains, links, coherence, arbiters and the platform. -/
def State.moduleEvents (s : State) : List Event :=
  s.domains.flatMap (fun d => [execLogFull d.id, execSeamIntervalExpiry d.id, execSeamCommit { domain := d.id }, execRollback d.id])
  ++ s.links.writes.map (fun w => execCarryResend w.core w.id)
  ++ s.links.ports.flatMap (fun (p, _) => [execRtlimitExpiry p, execFlitResendLimit p])
  ++ s.coh.msgs.map takeMessage
  ++ s.coh.leases.map (fun (k, _) => execLeaseExpiry (k / 2 ^ 64) (k % 2 ^ 64))
  ++ s.arbRequests.map (fun r => execArbitrationRound r.cls r.arbiter)
  ++ (List.range 4).map execWatchdogExpiry ++ (List.range 4).map kickDie

/-- The first of some events that changes the state. -/
def firstChange (s : State) : List Event → Option State
  | [] => none
  | e :: es =>
    match e s with
    | .next t => if t = s then firstChange s es else some t
    | _ => firstChange s es

/-- Every tick at which something is due on a die. -/
def State.dueTicks (s : State) : List Nat :=
  (s.allCtxs.filterMap fun (_, _, c) => if c.life = .waiting then c.wait.deadline else none)
  ++ s.cores.flatMap (fun (_, c) => c.window.filterMap (·.due)) ++ s.replies.filterMap (·.due)
  ++ (s.links.writes.filter (·.state == .busy)).map (·.due)
  ++ (s.links.ports.filter fun (_, p) => p.state == .training || p.state == .retraining).map (fun (_, p) => p.deadline)
  ++ s.coh.leases.filterMap (·.2)
  ++ (s.domains.filter (·.interval != 0)).map (fun d => d.began + d.interval)
  ++ (if s.platform.stage = 6 then (List.range 4).map fun d => (s.die d).wdogKick + kickTicks else [])
  ++ (if s.powered then ((List.range 4).filter fun d => (s.die d).wdogPeriod != 0).map fun d => (s.die d).wdogKick + (s.die d).wdogTicks else [])

/-- Time passes on every die, and contexts that wait to execute an instruction again try it; so do those that a home held, where nothing is under way that
would release them. -/
def State.tick (s : State) (n : Nat) : State :=
  let s := ((List.range 4).foldl (fun s d => s.mapDie d fun x => { x with gct := x.gct + n }) s).wakeRetries
  if s.coh.switches.isEmpty ∧ s.blocks.isEmpty ∧ !s.owners.any (fun p => p.2.any fun o => o.state == .reseeding) then
    s.mapCtxs fun _ _ c => if c.wait.kind = .homeBlock then c.wake else c
  else s

/-- Time passes to the next tick at which something is due, or by one. -/
def State.idle (s : State) : State :=
  let now := (s.die 0).gct
  match (s.dueTicks.filter (now < ·)).foldl (fun m t => match m with | none => some t | some u => some (min t u)) (none : Option Nat) with
  | some t => s.tick (t - now)
  | none => s.tick 1

/-- What comes next where the executing context cannot issue: another context that can; a READY context enters a free issuing slot; an event of the machine's
own; or time passes. -/
def State.schedule (s : State) : Host.Outcome State Fault Refusal :=
  if (s.platform.trip ∨ s.platform.bad ≠ []) ∧ s.platform.stage = 0 then .fault .poweredOff
  else if s.platform.stage = 0 ∧ !s.allCtxs.any (fun (_, _, c) => c.life != .free) then execPowerOn s
  else match s.allCtxs.find? fun (_, _, c) => s.canIssue c with
    | some (core, slot, _) => (s.switchTo core slot).runCur
    | none =>
      match firstChange s ((s.allCtxs.filter fun (_, _, c) => c.life == .ready).map fun (core, slot, _) => execSlotSelection core slot) with
      | some t => .next t
      | none =>
        match firstChange s (s.contextEvents ++ s.switchEvents ++ s.coreEvents ++ s.unitEvents ++ s.lysaEvents ++ s.moduleEvents) with
        | some t => .next t
        | none => .next s.idle

/-! ### Moves -/

/-- One move of the agenda. -/
def State.move (s : State) : Move → Host.Outcome State Fault Refusal
  | .event (.remotePackedStore core) => execRemotePackedStore core s
  | .event e => exec e s.drainPacked
  | .run core slot =>
    let s := s.drainPacked.switchTo core slot
    if s.canIssue s.ctx then s.runCur else .next s
  | .tick n => .next (s.drainPacked.tick n)
  | .faulted owner knum => stopFaulted owner knum s.drainPacked
  | .switched core index => rangeSwitched core index s.drainPacked
  | .reseeded owner => ownerReseeded owner s.drainPacked
  | .unblocked core slot => pageUnblocked core slot s.drainPacked
  | .release core slot => s.drainPacked.takeTurn core slot
  | .rtlimit ticks => setRtlimit ticks s.drainPacked
  | .railGood rail => railGood rail s
  | .measured temp power => measured temp power s

/-- What happens next: the head of the agenda, or the executing context's next instruction, or what the scheduler finds. -/
def State.advance (s : State) : Host.Outcome State Fault Refusal :=
  match s.agenda with
  | m :: rest => ({ s with agenda := rest } : State).move m
  | [] =>
    let s := s.drainPacked
    if s.canIssue s.ctx then s.runCur else s.schedule

/-! ### Placing an instruction where it will be fetched -/

/-- The machine-level context that a load from outside starts where none can fetch (26 R433): translation off, so that an address is a
location. -/
def State.loaderSlot : Nat × Nat := (0x07F, 0)
def State.loaderPc : Word := 0x10000

def State.startLoader (s : State) : State :=
  let s := (s.switchTo State.loaderSlot.1 State.loaderSlot.2).mapCore State.loaderSlot.1 fun c => { c with plbEn := false }
  let a := { Arch.zero with pc := State.loaderPc, status := 3 }
  { s with ctx := { Context.free with life := .running, arch := a, chunk := freshChunk s.myCore.k a } }

/-- Where a halfword would be fetched. -/
def State.fetchLoc (s : State) (va : Nat) : Option Nat :=
  match placeOf va 2 .fetch s with
  | .ok (p, _) => some p.loc
  | .error _ => none

/-- Would the executing context fetch an instruction at its pc next? -/
def State.fetchesNext (s : State) : Bool :=
  let c := s.ctx
  c.life == .running && !s.seamHolds c && !c.chunk.full && c.conditions.isEmpty && c.arch.bodyAt.isNone && c.arch.windows.isEmpty && c.arch.pc != 0
    && decide (c.chunk.attempts < 4) && (s.fetchLoc c.arch.pc.toNat).isSome && (s.fetchLoc (c.arch.pc.toNat + 2)).isSome

/-- Store a value of n bytes, least significant first, in halfwords where the executing context fetches them. -/
def State.storeFetched (s : State) (va v : Nat) : Nat → State
  | 0 => s
  | n + 1 =>
    let s := match s.fetchLoc va with
      | some loc => (s.setNat loc 2 (v % 65536)).mapCore s.coreId fun c => c.dropL1i va 2
      | none => s
    s.storeFetched (va + 2) (v / 65536) n

end Sys2Proof.Machine
end

