-- ==== Sys2Proof/Machine/Step.lean ====
section
/-!
DEFINITION. Sys2Proof/Machine/Step.lean: one step of the machine, and an instruction placed where the next step fetches it.
-/

namespace Sys2Proof.Machine

/-- One step: the next move of the agenda, else the executing context's next instruction, else what the scheduler finds. -/
def step (s : State) : Host.Outcome State Fault Refusal := s.advance

/-- The machine with an instruction of bits w stored where its next step fetches. Where no context would fetch, the load starts a machine-level
context to run it. The longest instruction has 32 bits; the bits from `nbits` up are zero. -/
def State.withFetchWord (s : State) (nbits w : Nat) : State :=
  let s := { s with agenda := [] }
  let s := if s.fetchesNext then s else s.startLoader
  s.storeFetched s.ctx.arch.pc.toNat (w % 2 ^ nbits) 2

end Sys2Proof.Machine
end

