-- ==== Sys2Proof/Safety.lean ====
section
/-!
DEFINITION. Sys2Proof/Safety.lean: what counts as a safe step, and the words the statements are written in: an executing thread that
runs outside a page-fault run ahead, its registers, and what a step leaves alone.
-/

namespace Sys2Proof.Machine

/-- A safe step answers a next state: it neither faults nor refuses. -/
def safeStep (s : State) : Prop := ∃ t, step s = .next t

/-- The executing thread runs, and not past a page fault (06 R130, 22 R386). -/
def State.plain (s : State) : Prop := s.ctx.life = .running ∧ s.ctx.runahead = none

/-- A scalar register of the executing thread (02 R18). -/
def State.x (s : State) (r : Reg) : Word := s.ctx.arch.regs[r]

/-- A handle register of the executing thread (02 R19). -/
def State.hreg (s : State) (h : HReg) : HWord := s.ctx.arch.handles[h]

/-- Two states differ in nothing but the executing context: no byte of memory, no other context, no core, matrix unit, owner, kernel, link or
platform register, and none of the model's own fields. -/
def sameOutside (s t : State) : Prop := { t with ctx := s.ctx } = s

/-- Two threads agree but for the pc, the scalar register `rd`, and what counts instructions: lookahead windows, the repetition in
progress, and the block of a cloak. -/
def sameButReg (rd : Option Reg) (a b : Arch) : Prop :=
  (∀ r : Reg, some r ≠ rd → b.regs[r] = a.regs[r])
    ∧ b = { a with
        regs := b.regs, pc := b.pc, windows := b.windows, status := b.status, repCnt := b.repCnt, inRep := b.inRep, body := b.body
        cloakBlocks := b.cloakBlocks, cloakIns := b.cloakIns }

/-- Outside a repetition and a cloak an instruction of `len` bytes moves the pc past itself, and each lookahead window counts it. -/
def followedBy (len : Nat) (a b : Arch) : Prop :=
  b.pc = a.pc + BitVec.ofNat 64 len ∧ b.status = a.status ∧ b.repCnt = a.repCnt ∧ b.inRep = a.inRep ∧ b.body = a.body
    ∧ b.windows = a.tickWindows.windows

/-- A thread that runs with nothing before it: no move is waiting, no packed store is on its way, no seam holds it, its chunk has not ended, needs no lock and
waits for no other that runs locked, and no FENCE.X condition is left. -/
def State.undisturbed (s : State) : Prop :=
  s.agenda = [] ∧ s.packed = [] ∧ s.plain ∧ s.seamHolds s.ctx = false ∧ s.ctx.conditions = [] ∧ s.ctx.chunk.full = false ∧ s.mustLock = false
    ∧ s.laterLocked = false

/-- No table of the machine lists a key twice. -/
def State.keysRise (s : State) : Prop :=
  risesT s.cores = true ∧ risesT s.clusters = true ∧ risesT s.dies = true ∧ risesT s.slots = true ∧ risesT s.owners = true ∧ risesT s.kernels = true
    ∧ risesT s.streams = true ∧ risesT s.coh.dir = true ∧ risesT s.coh.holders = true ∧ risesT s.coh.leases = true ∧ risesT s.links.ports = true

/-- The chunk goes on after one more instruction (09 R196). -/
def State.chunkGoesOn (s : State) : Prop := s.ctx.chunk.ins + 1 < s.ctx.chunk.maxIns

end Sys2Proof.Machine
end

