-- ==== Sys2Proof/Certificates/Slice0/Obligations.lean ====
section
/-!
DEFINITION. Sys2Proof/Certificates/Slice0/Obligations.lean: the statements for the provers. A result is stated as the next state that
exec answers; what completing an instruction leaves alone is stated once (RetiringChangesTheThreadAlone and its like).
-/

open Sys2Proof Sys2Proof.Machine

/-! ### Integer instructions (05 R101 to R109) -/

/-- The word of the OP format (R105). -/
def opWord (f9 f4 rs2 rs1 rd : Nat) : Nat := f9 * 2 ^ 23 + f4 * 2 ^ 19 + rs2 * 2 ^ 15 + rs1 * 2 ^ 11 + rd * 2 ^ 7 + 3 * 2 ^ 2 + 3

/-- R105: each OP instruction has its word and writes its table's value to rd, from the old values of its sources, and the next instruction follows.

R105, the one-operand members: CLZ and CTZ count the zeros above and below the first one bit (64 if there is none), POPC counts the one
bits, and BREV moves bit k to bit 63 - k. -/
def Obligations.OpWritesItsResult : Prop :=
  (∀ (s : State) (rd a b : Reg), s.plain →
     exec (.add rd a b) s = .next ((s.setReg rd (s.x a + s.x b)).retired 4)
     ∧ exec (.sub rd a b) s = .next ((s.setReg rd (s.x a - s.x b)).retired 4)
     ∧ exec (.sll rd a b) s = .next ((s.setReg rd (s.x a <<< ((s.x b).toNat % 64))).retired 4)
     ∧ exec (.srl rd a b) s = .next ((s.setReg rd (s.x a >>> ((s.x b).toNat % 64))).retired 4)
     ∧ exec (.sra rd a b) s = .next ((s.setReg rd ((s.x a).sshiftRight ((s.x b).toNat % 64))).retired 4)
     ∧ exec (.slt rd a b) s = .next ((s.setReg rd (if (s.x a).toInt < (s.x b).toInt then 1 else 0)).retired 4)
     ∧ exec (.sltu rd a b) s = .next ((s.setReg rd (if (s.x a).toNat < (s.x b).toNat then 1 else 0)).retired 4)
     ∧ exec (.xor rd a b) s = .next ((s.setReg rd (s.x a ^^^ s.x b)).retired 4)
     ∧ exec (.or rd a b) s = .next ((s.setReg rd (s.x a ||| s.x b)).retired 4)
     ∧ exec (.and rd a b) s = .next ((s.setReg rd (s.x a &&& s.x b)).retired 4)
     ∧ exec (.min rd a b) s = .next ((s.setReg rd (if (s.x a).toInt ≤ (s.x b).toInt then s.x a else s.x b)).retired 4)
     ∧ exec (.max rd a b) s = .next ((s.setReg rd (if (s.x b).toInt ≤ (s.x a).toInt then s.x a else s.x b)).retired 4)
     ∧ exec (.minu rd a b) s = .next ((s.setReg rd (if (s.x a).toNat ≤ (s.x b).toNat then s.x a else s.x b)).retired 4)
     ∧ exec (.maxu rd a b) s = .next ((s.setReg rd (if (s.x b).toNat ≤ (s.x a).toNat then s.x a else s.x b)).retired 4)
     ∧ exec (.mul rd a b) s = .next ((s.setReg rd (BitVec.ofNat 64 ((s.x a).toNat * (s.x b).toNat))).retired 4)
     ∧ exec (.mulh rd a b) s = .next ((s.setReg rd (BitVec.ofInt 64 (((s.x a).toInt * (s.x b).toInt).fdiv (2 ^ 64)))).retired 4)
     ∧ exec (.mulhu rd a b) s = .next ((s.setReg rd (BitVec.ofNat 64 ((s.x a).toNat * (s.x b).toNat / 2 ^ 64))).retired 4)
     ∧ exec (.seq rd a b) s = .next ((s.setReg rd (if s.x a = s.x b then 1 else 0)).retired 4)
     ∧ exec (.sne rd a b) s = .next ((s.setReg rd (if s.x a = s.x b then 0 else 1)).retired 4)
     ∧ exec (.addw rd a b) s = .next ((s.setReg rd (((s.x a + s.x b).setWidth 32).signExtend 64)).retired 4)
     ∧ exec (.subw rd a b) s = .next ((s.setReg rd (((s.x a - s.x b).setWidth 32).signExtend 64)).retired 4)
     ∧ ∀ w ∈ [(Instr.add rd a b, 0, 0), (.sub rd a b, 0, 1), (.sll rd a b, 0, 2), (.slt rd a b, 0, 3), (.sltu rd a b, 0, 4),
           (.xor rd a b, 0, 5), (.srl rd a b, 0, 6), (.sra rd a b, 0, 7), (.or rd a b, 0, 8), (.and rd a b, 0, 9),
           (.min rd a b, 0, 10), (.max rd a b, 0, 11), (.minu rd a b, 0, 12), (.maxu rd a b, 0, 13), (.mul rd a b, 0, 14),
           (.mulh rd a b, 1, 14), (.mulhu rd a b, 2, 14), (.seq rd a b, 0, 15), (.sne rd a b, 1, 15), (.addw rd a b, 2, 15),
           (.subw rd a b, 3, 15)],
         encode w.1 = wordBytes 4 (opWord w.2.1 w.2.2 b.val a.val rd.val))
  ∧ (∀ (s : State) (rd a : Reg), s.plain →
       (∃ v : Word, exec (.clz rd a) s = .next ((s.setReg rd v).retired 4) ∧ v.toNat ≤ 64
         ∧ (v.toNat < 64 → (s.x a).getLsbD (63 - v.toNat) = true) ∧ ∀ k, k < v.toNat → (s.x a).getLsbD (63 - k) = false)
       ∧ (∃ v : Word, exec (.ctz rd a) s = .next ((s.setReg rd v).retired 4) ∧ v.toNat ≤ 64
         ∧ (v.toNat < 64 → (s.x a).getLsbD v.toNat = true) ∧ ∀ k, k < v.toNat → (s.x a).getLsbD k = false)
       ∧ (∃ v : Word, exec (.popc rd a) s = .next ((s.setReg rd v).retired 4)
         ∧ v.toNat = ((List.range 64).filter fun k => (s.x a).getLsbD k).length)
       ∧ (∃ v : Word, exec (.brev rd a) s = .next ((s.setReg rd v).retired 4)
         ∧ ∀ k, k < 64 → v.getLsbD (63 - k) = (s.x a).getLsbD k)
       ∧ ∀ w ∈ [(Instr.clz rd a, 3), (.ctz rd a, 4), (.popc rd a, 5), (.brev rd a, 6)], encode w.1 = wordBytes 4 (opWord w.2 14 0 a.val rd.val))

/-- R104, R106 and NOP: the immediate forms write their table's value to rd; NOP writes nothing.

R41, R42: each 16-bit register form has the effect of its expansion, with a length of two bytes. -/
def Obligations.ImmediatesAndShortFormsWriteTheirResult : Prop :=
  (∀ (s : State) (rd a : Reg) (i : BitVec 14) (n : BitVec 6) (u : BitVec 21), s.plain →
     exec (.addi rd a i) s = .next ((s.setReg rd (s.x a + i.signExtend 64)).retired 4)
     ∧ exec (.slli rd a n) s = .next ((s.setReg rd (s.x a <<< n.toNat)).retired 4)
     ∧ exec (.slti rd a i) s = .next ((s.setReg rd (if (s.x a).toInt < i.toInt then 1 else 0)).retired 4)
     ∧ exec (.sltiu rd a i) s = .next ((s.setReg rd (if (s.x a).toNat < (i.signExtend 64).toNat then 1 else 0)).retired 4)
     ∧ exec (.xori rd a i) s = .next ((s.setReg rd (s.x a ^^^ i.signExtend 64)).retired 4)
     ∧ exec (.srli rd a n) s = .next ((s.setReg rd (s.x a >>> n.toNat)).retired 4)
     ∧ exec (.srai rd a n) s = .next ((s.setReg rd ((s.x a).sshiftRight n.toNat)).retired 4)
     ∧ exec (.ori rd a i) s = .next ((s.setReg rd (s.x a ||| i.signExtend 64)).retired 4)
     ∧ exec (.andi rd a i) s = .next ((s.setReg rd (s.x a &&& i.signExtend 64)).retired 4)
     ∧ exec (.lui rd u) s = .next ((s.setReg rd (u.signExtend 64 <<< 13)).retired 4)
     ∧ exec (.auipc rd u) s = .next ((s.setReg rd (s.ctx.arch.pc + u.signExtend 64 <<< 13)).retired 4)
     ∧ exec .nop s = .next (s.retired 4))
  ∧ (∀ (s : State) (rd a : Reg) (i : BitVec 7) (n : BitVec 6), s.plain →
       exec (.cMv rd a) s = .next ((s.setReg rd (s.x a)).retired 2)
       ∧ exec (.cAdd rd a) s = .next ((s.setReg rd (s.x rd + s.x a)).retired 2)
       ∧ exec (.cSub rd a) s = .next ((s.setReg rd (s.x rd - s.x a)).retired 2)
       ∧ exec (.cAnd rd a) s = .next ((s.setReg rd (s.x rd &&& s.x a)).retired 2)
       ∧ exec (.cOr rd a) s = .next ((s.setReg rd (s.x rd ||| s.x a)).retired 2)
       ∧ exec (.cXor rd a) s = .next ((s.setReg rd (s.x rd ^^^ s.x a)).retired 2)
       ∧ exec (.cAddi rd i) s = .next ((s.setReg rd (s.x rd + i.signExtend 64)).retired 2)
       ∧ exec (.cLi rd i) s = .next ((s.setReg rd (s.x 0 + i.signExtend 64)).retired 2)
       ∧ exec (.cSlli rd n) s = .next ((s.setReg rd (s.x rd <<< n.toNat)).retired 2)
       ∧ exec (.cSrli rd n) s = .next ((s.setReg rd (s.x rd >>> n.toNat)).retired 2)
       ∧ exec (.cSrai rd n) s = .next ((s.setReg rd ((s.x rd).sshiftRight n.toNat)).retired 2)
       ∧ exec .cNop s = .next (s.retired 2))

/-- The quotient and remainder of R107 at a width: by zero all ones and the dividend; the most negative number by -1 itself and 0. -/
def divideBy (n : Nat) (a b : Int) : Int × Int :=
  if b = 0 then (-1, a) else if a = -2 ^ (n - 1) ∧ b = -1 then (a, 0) else (a.tdiv b, a - a.tdiv b * b)

/-- The word of the MULDIV format (R107). -/
def divWord (f6 : Nat) (w32 : Bool) (la : BitVec 4) (rs2 rs1 rd : Nat) : Nat :=
  f6 * 2 ^ 26 + (if w32 then 1 else 0) * 2 ^ 23 + la.toNat * 2 ^ 19 + rs2 * 2 ^ 15 + rs1 * 2 ^ 11 + rd * 2 ^ 7 + 9 * 2 ^ 2 + 3

/-- R107: each of the four has its word; quotients and remainders at 64 bits, and at 32 bits for `.W`, whose results are sign-extended; no case traps. -/
def Obligations.DivisionWritesItsResult : Prop :=
  ∀ (s : State) (rd a b : Reg) (la : BitVec 4), s.plain →
    let done := fun (v : Word) => Host.Outcome.next (φ := Fault) (ρ := Refusal) ((s.setReg rd v).retiredLong 4 la (.reg rd))
    let low := fun (r : Reg) => (s.x r).setWidth 32
    let wide := fun (v : Int) => (BitVec.ofInt 32 v).signExtend 64
    exec (.div rd a b false la) s = done (BitVec.ofInt 64 (divideBy 64 (s.x a).toInt (s.x b).toInt).1)
    ∧ exec (.rem rd a b false la) s = done (BitVec.ofInt 64 (divideBy 64 (s.x a).toInt (s.x b).toInt).2)
    ∧ exec (.divu rd a b false la) s = done (if s.x b = 0 then BitVec.allOnes 64 else s.x a / s.x b)
    ∧ exec (.remu rd a b false la) s = done (if s.x b = 0 then s.x a else s.x a % s.x b)
    ∧ exec (.div rd a b true la) s = done (wide (divideBy 32 (low a).toInt (low b).toInt).1)
    ∧ exec (.rem rd a b true la) s = done (wide (divideBy 32 (low a).toInt (low b).toInt).2)
    ∧ exec (.divu rd a b true la) s = done (if low b = 0 then BitVec.allOnes 64 else (low a / low b).signExtend 64)
    ∧ exec (.remu rd a b true la) s = done ((if low b = 0 then low a else low a % low b).signExtend 64)
    ∧ ∀ (w32 : Bool), ∀ w ∈ [(Instr.div rd a b w32 la, 0), (.divu rd a b w32 la, 1), (.rem rd a b w32 la, 2), (.remu rd a b w32 la, 3)],
        encode w.1 = wordBytes 4 (divWord w.2 w32 la b.val a.val rd.val)

/-- R108: a taken branch goes to PC + sext(off) × 2 where that lies in the 56-bit space, and one that is not taken goes on; C.BEQZ and C.BNEZ
compare with s0, and C.J is always taken (R41, R42). -/
def Obligations.BranchesGoWhereTheyCompare : Prop :=
  ∀ (s : State) (a b : Reg) (off : BitVec 14) (o7 : BitVec 7) (o11 : BitVec 11), s.plain →
    let goes := fun (i : Instr) (n : Nat) (k : Word) (taken : Bool) =>
      (taken = false → exec i s = .next (s.retired n))
      ∧ (taken = true → (s.ctx.arch.pc + k * 2).toNat < 2 ^ 56 → exec i s = .next (s.jumped (s.ctx.arch.pc + k * 2)))
    goes (.beq a b off) 4 (off.signExtend 64) (s.x a == s.x b)
    ∧ goes (.bne a b off) 4 (off.signExtend 64) (s.x a != s.x b)
    ∧ goes (.blt a b off) 4 (off.signExtend 64) (decide ((s.x a).toInt < (s.x b).toInt))
    ∧ goes (.bge a b off) 4 (off.signExtend 64) (decide ((s.x b).toInt ≤ (s.x a).toInt))
    ∧ goes (.bltu a b off) 4 (off.signExtend 64) (decide ((s.x a).toNat < (s.x b).toNat))
    ∧ goes (.bgeu a b off) 4 (off.signExtend 64) (decide ((s.x b).toNat ≤ (s.x a).toNat))
    ∧ goes (.cBeqz a o7) 2 (o7.signExtend 64) (s.x a == s.x 0)
    ∧ goes (.cBnez a o7) 2 (o7.signExtend 64) (s.x a != s.x 0)
    ∧ goes (.cJ o11) 2 (o11.signExtend 64) true

/-- R109, R33, R42: JAL, JALR and C.JR take their target first, write the address of the next instruction, and continue at the target; JALR
clears bit 0 of it.

R23: a branch or jump to a target with any of bits [63:56] set raises PAGEFAULT at itself, with the target in CR_TVAL; R109: rd is left
unchanged. -/
def Obligations.JumpsLinkAndGoOrTrap : Prop :=
  (∀ (s : State) (rd a : Reg) (off : BitVec 21) (i : BitVec 14), s.plain →
     let pc := s.ctx.arch.pc
     ((pc + off.signExtend 64 * 2).toNat < 2 ^ 56 →
       exec (.jal rd off) s = .next ((s.setReg rd (pc + 4)).jumped (pc + off.signExtend 64 * 2)))
     ∧ (∀ t : Word, t = (s.x a + i.signExtend 64) &&& ~~~1 → t.toNat < 2 ^ 56 → exec (.jalr rd a i) s = .next ((s.setReg rd (pc + 4)).jumped t))
     ∧ (∀ t : Word, t = s.x a &&& ~~~1 → t.toNat < 2 ^ 56 → exec (.cJr a) s = .next ((s.setReg a (pc + 2)).jumped t)))
  ∧ (∀ (s : State) (rd a b : Reg) (off : BitVec 14) (o7 : BitVec 7) (o11 : BitVec 11) (o21 : BitVec 21) (i : BitVec 14), s.plain →
       let far := fun (ins : Instr) (goes : Bool) (t : Word) => goes = true → 2 ^ 56 ≤ t.toNat → exec ins s = .next (s.trap ins 5 t false 0 [])
       let at' := fun (k : Word) => s.ctx.arch.pc + k * 2
       far (.beq a b off) (s.x a == s.x b) (at' (off.signExtend 64))
       ∧ far (.bne a b off) (s.x a != s.x b) (at' (off.signExtend 64))
       ∧ far (.blt a b off) (decide ((s.x a).toInt < (s.x b).toInt)) (at' (off.signExtend 64))
       ∧ far (.bge a b off) (decide ((s.x b).toInt ≤ (s.x a).toInt)) (at' (off.signExtend 64))
       ∧ far (.bltu a b off) (decide ((s.x a).toNat < (s.x b).toNat)) (at' (off.signExtend 64))
       ∧ far (.bgeu a b off) (decide ((s.x b).toNat ≤ (s.x a).toNat)) (at' (off.signExtend 64))
       ∧ far (.cBeqz a o7) (s.x a == s.x 0) (at' (o7.signExtend 64))
       ∧ far (.cBnez a o7) (s.x a != s.x 0) (at' (o7.signExtend 64))
       ∧ far (.cJ o11) true (at' (o11.signExtend 64))
       ∧ far (.jal rd o21) true (at' (o21.signExtend 64))
       ∧ far (.jalr rd a i) true ((s.x a + i.signExtend 64) &&& ~~~1)
       ∧ far (.cJr a) true (s.x a &&& ~~~1))

/-! ### What completing an instruction does -/

/-- An instruction that completes, its chunk going on, changes the executing thread alone; of that thread, the pc and what counts
instructions; outside a repetition and a cloak the pc moves past it.

A taken branch or jump, its chunk going on, changes the executing thread alone: its pc, its lookahead windows and the block of its cloak.
The model's own choices in it: log 20. -/
def Obligations.RetiringAndJumpingChangeTheThreadAlone : Prop :=
  (∀ (s : State) (n : Nat), s.chunkGoesOn →
     sameOutside s (s.retired n)
     ∧ (s.retired n).ctx = { s.ctx with arch := (s.retired n).ctx.arch, chunk := { s.ctx.chunk with ins := s.ctx.chunk.ins + 1 } }
     ∧ sameButReg none s.ctx.arch (s.retired n).ctx.arch
     ∧ (s.ctx.arch.inRep = false → s.ctx.cloak.state ≠ .bound → followedBy n s.ctx.arch (s.retired n).ctx.arch))
  ∧ (∀ (s : State) (t : Word), s.chunkGoesOn →
       sameOutside s (s.jumped t)
       ∧ (s.jumped t).ctx = { s.ctx with arch := (s.jumped t).ctx.arch, chunk := { s.ctx.chunk with ins := s.ctx.chunk.ins + 1 } }
       ∧ sameButReg none s.ctx.arch (s.jumped t).ctx.arch ∧ (s.jumped t).ctx.arch.pc = t)

/-! ### Scalar memory (05 R103, R110 to R114) -/

/-- R110, R111: a load whose address passes the checks of R103 extends the bytes it reads, little-endian, into rd. The acquire bit does not change the
value; in an SWM range the core's clean copies then go, so that no later access reads one.
The model's own choices in it: log 18, 26. -/
def Obligations.LoadsReadMemory : Prop :=
  ∀ (s : State) (rd a : Reg) (i : BitVec 9) (k : BitVec 3) (la : BitVec 4) (acq : Bool), s.plain →
    let loads := fun (ins : Instr) (len n : Nat) (ea : Word) (la : BitVec 4) (acq : Bool) (extend : Nat → Word) =>
      ∀ (p : Place) (u : State), placeOf ea.toNat n .load s = .ok (p, u) →
        exec ins s = .next ((((u.noteRead p).acquired acq ea.toNat).setReg rd (extend (ofLeBytes ((u.noteRead p).seenBytes p.kind p.loc n)))).retiredLong len la (.reg rd))
    let signExt := fun (n : Nat) (v : Nat) => (BitVec.ofNat n v).signExtend 64
    let zeroExt := fun (v : Nat) => BitVec.ofNat 64 v
    let ea := fun (n : Nat) => s.x a + i.signExtend 64 * BitVec.ofNat 64 n
    loads (.lb rd a i la acq) 4 1 (ea 1) la acq (signExt 8)
    ∧ loads (.lh rd a i la acq) 4 2 (ea 2) la acq (signExt 16)
    ∧ loads (.lw rd a i la acq) 4 4 (ea 4) la acq (signExt 32)
    ∧ loads (.ld rd a i la acq) 4 8 (ea 8) la acq zeroExt
    ∧ loads (.lbu rd a i la acq) 4 1 (ea 1) la acq zeroExt
    ∧ loads (.lhu rd a i la acq) 4 2 (ea 2) la acq zeroExt
    ∧ loads (.lwu rd a i la acq) 4 4 (ea 4) la acq zeroExt
    ∧ loads (.cLw rd a k) 2 4 (s.x a + BitVec.ofNat 64 (4 * k.toNat)) 0 false (signExt 32)
    ∧ loads (.cLd rd a k) 2 8 (s.x a + BitVec.ofNat 64 (8 * k.toNat)) 0 false zeroExt

/-- R112 to R114: a store whose address passes the checks puts the low bytes of rs2, little-endian, into the chunk at the place the address
lands; the chunk ends first where its lines would pass MAXLINES. A release marks its chunk, and the core's dirty SWM lines go back as that chunk becomes
visible.
The model's own choices in it: log 18, 26, 206. -/
def Obligations.StoresWriteMemory : Prop :=
  ∀ (s : State) (a b : Reg) (i : BitVec 14) (k : BitVec 3), s.plain →
    let stores := fun (ins : Instr) (len n : Nat) (ea : Word) (rel : Bool) =>
      ∀ (r : State) (p : Place) (u : State), reserveLines [s.lineKey s.coreId ea.toNat] s = .ok ((), r) →
        placeOf ea.toNat n .store r = .ok (p, u) → ¬ (p.kind = kindWo ∧ p.lineKey ∈ u.coh.written) →
        exec ins s = .next (((u.noteWrite p (leBytes n (s.x b).toNat) 512).mapChunk fun c => { c with releases := c.releases || rel }).retired len)
    let ea := s.x a + i.signExtend 64
    stores (.sb a b i) 4 1 ea false
    ∧ stores (.sh a b i) 4 2 ea false
    ∧ stores (.sw a b i) 4 4 ea false
    ∧ stores (.sd a b i) 4 8 ea false
    ∧ stores (.swRel a b i) 4 4 ea true
    ∧ stores (.sdRel a b i) 4 8 ea true
    ∧ stores (.cSw a b k) 2 4 (s.x a + BitVec.ofNat 64 (4 * k.toNat)) false
    ∧ stores (.cSd a b k) 2 8 (s.x a + BitVec.ofNat 64 (8 * k.toNat)) false
    ∧ (∀ (t : State) (c : Chunk), (c.releases = true → t.landRelease c = t.swmWriteBack t.coreId) ∧ (c.releases = false → t.landRelease c = t))
    ∧ (∀ (r : State) (p : Place) (u : State), reserveLines [s.lineKey s.coreId ea.toNat] s = .ok ((), r) →
        placeOf ea.toNat 8 .store r = .ok (p, u) → ¬ (p.kind = kindWo ∧ p.lineKey ∈ u.coh.written) →
        exec (.sdFwd a b i) s = .next ((u.noteWrite p (leBytes 8 (s.x b).toNat)
          (if r.ctx.arch.fwdTag.getLsbD 9 then r.ctx.arch.fwdTag.toNat % 512 else 512)).retired 4))

/-- R198 and the frame of a store: after a write to a place every byte of it reads, on the same core, as written, and every byte outside it
as before, at every location; no SWM copies are held here, and the chunk's table of packed parts is in its canonical form, which it keeps and
which a new chunk has. The registers of the thread and committed memory are as before.

Reading leaves memory and the thread's registers as they were: every byte reads, on the same core, as before; no SWM copies are
held here.
The model's own choices in it: log 26. -/
def Obligations.BytesReadBackAndNoOthersChange : Prop :=
  (∀ (s : State) (p : Place) (bytes : List Byte) (tag k : Nat), s.coh.swm = [] → wfT 0 s.ctx.chunk.parts = true →
     let t := s.noteWrite p bytes tag
     (∀ i, i < bytes.length → t.seenByte k (p.loc + i) = bytes.getD i 0)
     ∧ (∀ loc, (loc < p.loc ∨ p.loc + bytes.length ≤ loc) → t.seenByte k loc = s.seenByte k loc)
     ∧ t.ctx.arch = s.ctx.arch ∧ t.mem = s.mem ∧ wfT 0 t.ctx.chunk.parts = true ∧ (Chunk.fresh s.ctx.arch).parts = [])
  ∧ (∀ (s : State) (p : Place) (k loc : Nat), s.coh.swm = [] →
       (s.noteRead p).seenByte k loc = s.seenByte k loc ∧ (s.noteRead p).ctx.arch = s.ctx.arch ∧ (s.noteRead p).mem = s.mem)

/-- R103: the checks on an address come in this order, and the trap value is the address: MISALIGN, then PAGEFAULT for bits [63:56], then the
local windows, whose uncovered addresses are PROTECT.

R102: the windows reach the executing core's TCM, as large as its carve-out leaves it, and its cluster's scratchpad, and no byte of one
is a byte of the other or of another core's. -/
def Obligations.AddressChecksComeInOrderAndWindowsReachTheirMemory : Prop :=
  (∀ (s : State) (rd a b : Reg) (i : BitVec 9) (j : BitVec 14) (la : BitVec 4), s.plain →
     let far := s.x a + i.signExtend 64 * 8
     let ea := s.x a + j.signExtend 64
     let word := fun (t : Word) (cause : Nat) =>
       exec (.ld rd a i la false) s = .next (s.trap (.ld rd a i la false) cause t false 0 [])
     let put := fun (t : Word) (cause : Nat) => reserveLines [s.lineKey s.coreId ea.toNat] s = .ok ((), s) →
       exec (.sd a b j) s = .next (s.trap (.sd a b j) cause t false 1 [])
     (far.toNat % 8 ≠ 0 → word far 3)
     ∧ (far.toNat % 8 = 0 → 2 ^ 56 ≤ far.toNat → word far 5)
     ∧ (far.toNat % 8 = 0 → s.transferHolds s.coreId far.toNat 8 = false → inWindowRegion far.toNat = true →
         s.windowLoc s.coreId far.toNat = none → word far 4)
     ∧ (ea.toNat % 8 ≠ 0 → put ea 3)
     ∧ (ea.toNat % 8 = 0 → 2 ^ 56 ≤ ea.toNat → put ea 5)
     ∧ (ea.toNat % 8 = 0 → s.transferHolds s.coreId ea.toNat 8 = false → inWindowRegion ea.toNat = true →
         s.windowLoc s.coreId ea.toNat = none → put ea 4))
  ∧ (∀ (s : State) (core va : Nat),
       (tcmWindow ≤ va → va < tcmWindow + s.tcmSize core → s.windowLoc core va = some (tcmLoc core (va - tcmWindow)))
       ∧ (spadWindow ≤ va → va < spadWindow + spadSize → s.windowLoc core va = some (spadLoc (core / 8) (va - spadWindow)))
       ∧ (∀ core' va' loc, core < 512 → core' < 512 → s.windowLoc core va = some loc → s.windowLoc core' va' = some loc →
           va = va' ∧ (va < spadWindow → core = core')))

/-! ### Atomics (09 R211 to R214) -/

/-- The new value of each integer atomic but CAS, at n bytes (09 R212). -/
def atomicNew (n old b : Nat) : List Nat :=
  let lt := fun x y => (BitVec.ofNat (8 * n) x).slt (BitVec.ofNat (8 * n) y)
  [(old + b) % 256 ^ n, old &&& b, old ||| b, old ^^^ b, if lt b old then b else old, if lt old b then b else old,
   if b < old then b else old, if old < b then b else old, b]

/-- The integer atomics but CAS, in the order of `atomicNew`. -/
def atomicForms (rd a b : Reg) (ord : BitVec 2) (dbl : Bool) (la : BitVec 4) : List Instr :=
  [.amoAdd rd a b ord dbl la, .amoAnd rd a b ord dbl la, .amoOr rd a b ord dbl la, .amoXor rd a b ord dbl la, .amoMin rd a b ord dbl la,
   .amoMax rd a b ord dbl la, .amoMinu rd a b ord dbl la, .amoMaxu rd a b ord dbl la, .amoSwap rd a b ord dbl la]

/-- R212: an atomic whose access is performed (`amoAccess`, which applies the operation once to the old value) writes the old doubleword, or the
old word sign-extended, to rd; FADD writes it zero-extended and raises the flags of its sum; where it ran at the home slice it is a chunk of its own, which
commits with it.

R212, R213, in the local windows: for an aligned window address that no running transfer claims, each atomic completes with the old bytes in rd
and the new ones at the address, in the current chunk; no other byte of memory changes. The chunk has room for one more line and instruction, and no other seam domain has the line open.
The model's own choices in it: log 24, 206, 207. -/
def Obligations.AtomicsReturnTheOldValueAndReplaceIt : Prop :=
  (∀ (s : State) (rd a b : Reg) (ord : BitVec 2) (dbl : Bool) (la : BitVec 4) (old : Nat) (home : Bool) (t : State), s.plain →
     let n := if dbl then 8 else 4
     let src := (s.x b).toNat % 256 ^ n
     let oldWord : Word := if dbl then BitVec.ofNat 64 old else (BitVec.ofNat 32 old).signExtend 64
     let done := fun (u : State) => if home then (u.retiredLong 4 la (.reg rd)).endedAlone u.ctx.arch.pc.toNat la (.reg rd) else u.retiredLong 4 la (.reg rd)
     (∀ k, k < 9 → amoAccess ord (s.x a).toNat n (fun old => (atomicNew n old src)[k]?) s = .ok ((old, home), t) →
       ((atomicForms rd a b ord dbl la)[k]?).map (exec · s) = some (.next (done (t.setReg rd oldWord))))
     ∧ (amoAccess ord (s.x a).toNat n (fun old => if old = (s.x rd).toNat % 256 ^ n then some src else none) s = .ok ((old, home), t) →
       exec (.amoCas rd a b ord dbl la) s = .next (done (t.setReg rd oldWord)))
     ∧ (amoAccess ord (s.x a).toNat 4 (fun old => some (fadd32 old ((s.x b).toNat % 2 ^ 32)).1.toNat) s = .ok ((old, home), t) →
       let f := (fadd32 old ((s.x b).toNat % 2 ^ 32)).2
       f &&& BitVec.ofNat 5 (t.ctx.arch.fcsr.toNat / 256 % 32) = 0 →
       exec (.amoFadd rd a b ord la) s = .next (done ((t.setReg rd (BitVec.ofNat 64 old)).mapArch (·.raiseFlags f)))))
  ∧ (∀ (s : State) (rd a b : Reg) (ord : BitVec 2) (dbl : Bool) (la : BitVec 4) (loc : Nat), s.plain → s.chunkGoesOn → s.coh.swm = [] →
       wfT 0 s.ctx.chunk.parts = true →
       let n := if dbl then 8 else 4
       let ea := (s.x a).toNat
       let src := (s.x b).toNat % 256 ^ n
       let old := ofLeBytes (s.seenBytes kindInv loc n)
       ea % n = 0 → inWindowRegion ea = true → s.windowLoc s.coreId ea = some loc → s.transferHolds s.coreId ea n = false →
       s.ctx.chunk.vaLines.length < s.ctx.chunk.maxLines → s.foreignDomain s.mySeam (loc / 128) = none →
       let gives := fun (ins : Instr) (new : Nat) => ∃ t, exec ins s = .next t
         ∧ t.x rd = (if dbl then BitVec.ofNat 64 old else (BitVec.ofNat 32 old).signExtend 64)
         ∧ (∀ k, k < n → t.seenByte kindInv (loc + k) = (leBytes n new).getD k 0)
         ∧ (∀ l, (l < loc ∨ loc + n ≤ l) → t.seenByte kindInv l = s.seenByte kindInv l) ∧ sameButReg (some rd) s.ctx.arch t.ctx.arch
       (∀ (k : Nat) (ins : Instr) (new : Nat), (atomicForms rd a b ord dbl la)[k]? = some ins → (atomicNew n old src)[k]? = some new → gives ins new)
       ∧ gives (.amoCas rd a b ord dbl la) (if old = (s.x rd).toNat % 256 ^ n then src else old))

/-! ### Scalar floating point (04 R84 to R91, 05 R115 to R121) -/

/-- The FP and FPL forms with a rounding mode: each with its lookahead count, and its value and flags in a mode (05 R117, R120, R121). -/
def roundedForms (s : State) (rd a b : Reg) (rm : BitVec 3) (fmt : BitVec 2) (la : BitVec 4) (w32 uns dbl : Bool) (m : RMode) :
    List (Instr × BitVec 4 × Word × Flags) :=
  let D := fmt == 1
  let x := fpVal D (s.x a)
  let y := fpVal D (s.x b)
  [(.fadd rd a b rm fmt, 0, fpDeliver D m (Val.add m x y)),
   (.fsub rd a b rm fmt, 0, fpDeliver D m (Val.add m x y.negate)),
   (.fmul rd a b rm fmt, 0, fpDeliver D m (Val.mul x y)),
   (.fmac rd a b rm fmt, 0, fpDeliver D m (Val.fma m x y (fpVal D (s.x rd)))),
   (.fdiv rd a b rm dbl la, la, fpDeliver dbl m (Val.div (fpVal dbl (s.x a)) (fpVal dbl (s.x b)))),
   (.fsqrt rd a rm dbl la, la, fpDeliver dbl m (Val.sqrt (fpVal dbl (s.x a)))),
   (.fcvtFI rd a w32 uns rm fmt, 0, fpDeliver D m (.ofInt (intOperand w32 uns (s.x a)), 0)),
   (.fcvtIF rd a w32 uns rm fmt, 0, toIntReg w32 uns m x),
   (.fcvtFF rd a rm fmt, 0, fpDeliver D m (fpVal (!D) (s.x a), if (fpVal (!D) (s.x a)).isSignalling then 16 else 0))]

/-- The FP forms without one that can raise a flag (05 R118, R119). -/
def plainForms (s : State) (rd a b : Reg) (fmt j : BitVec 2) : List (Instr × BitVec 4 × Word × Flags) :=
  let D := fmt == 1
  [(.fmin rd a b fmt, 0, fpMinMax D false (s.x a) (s.x b)), (.fmax rd a b fmt, 0, fpMinMax D true (s.x a) (s.x b)),
   (.fsgnj rd a b j fmt, 0, fpSignInject D j.toNat (s.x a) (s.x b)), (.feq rd a b fmt, 0, fpCompare D .eq (s.x a) (s.x b)),
   (.flt rd a b fmt, 0, fpCompare D .lt (s.x a) (s.x b)), (.fle rd a b fmt, 0, fpCompare D .le (s.x a) (s.x b))]

/-- The rounding mode of a field: its own, or CR_FCSR's for 7 (R116). -/
def modeCode (s : State) (rm : BitVec 3) : Nat := if rm = 7 then s.ctx.arch.fcsr.toNat / 32 % 8 else rm.toNat

/-- R115 to R121: each FP and FPL instruction delivers its value, in the mode its field or CR_FCSR names, into rd, and adds its flags to CR_FCSR;
none of the flags raised has its trap enabled. -/
def Obligations.FloatingPointWritesItsResult : Prop :=
  ∀ (s : State) (rd a b : Reg) (rm : BitVec 3) (fmt j : BitVec 2) (la : BitVec 4) (w32 uns dbl : Bool) (m : RMode), s.plain →
    let gives := fun (f : Instr × BitVec 4 × Word × Flags) =>
      f.2.2.2 &&& BitVec.ofNat 5 (s.ctx.arch.fcsr.toNat / 256 % 32) = 0 →
      exec f.1 s = .next (((s.setReg rd f.2.2.1).mapArch (·.raiseFlags f.2.2.2)).retiredLong 4 f.2.1 (.reg rd))
    (modeCode s rm < 5 → RMode.ofCode (modeCode s rm) = some m → ∀ f ∈ roundedForms s rd a b rm fmt la w32 uns dbl m, gives f)
    ∧ (∀ f ∈ plainForms s rd a b fmt j, gives f)
    ∧ exec (.fclass rd a fmt) s = .next ((s.setReg rd (fpClass (fmt == 1) (s.x a))).retired 4)

/-- A finite value as a multiple of 2^k; k is at most its exponent. -/
def multipleOf (k : Int) : Val → Int
  | .fin neg m e => (if neg then -1 else 1) * ((m * 2 ^ (e - k).toNat : Nat) : Int)
  | _ => 0

/-- R85, R86, R117: sums and products of finite values are exact before they are rounded, and raise no flag.

R86: a value that FP32 or FP64 represents is delivered as itself in every mode and raises no flag; the canonical NaN stands for every NaN. -/
def Obligations.ResultsAreRoundedOnceFromExactValues : Prop :=
  (∀ (mode : RMode) (n1 n2 : Bool) (m1 m2 : Nat) (e1 e2 : Int),
     let x := Val.fin n1 m1 e1
     let y := Val.fin n2 m2 e2
     let k := min e1 e2
     multipleOf k (Val.add mode x y).1 = multipleOf k x + multipleOf k y ∧ (Val.add mode x y).2 = 0
     ∧ multipleOf (e1 + e2) (Val.mul x y).1 = multipleOf e1 x * multipleOf e2 y ∧ (Val.mul x y).2 = 0)
  ∧ (∀ (mode : RMode) (t bits : Nat) (f : FloatSpec), (f = specFp32 ∧ bits < 2 ^ 32) ∨ (f = specFp64 ∧ bits < 2 ^ 64) ∨ (f = specBf16 ∧ bits < 2 ^ 16) →
       ((f.value bits).isNan = false → f.deliver mode t (f.value bits) = (bits, 0))
       ∧ ((f.value bits).isNan = true → f.deliver mode t (f.value bits) = (f.nan, 0)))

/-- R84, R116: a dynamic mode of 5, 6 or 7 raises ILLEGAL in every form with a rounding mode before any register is written.

R52, R147: where an FP or FPL instruction raises a flag whose trap is enabled, it completes, and FPX is taken with PDONE = 1, CR_TVAL = 0, once its
chunk may commit.
The model's own choices in it: log 23. -/
def Obligations.FloatingPointTrapsAreTaken : Prop :=
  (∀ (s : State) (rd a b : Reg) (fmt : BitVec 2) (la : BitVec 4) (w32 uns dbl : Bool) (m : RMode), s.plain → 5 ≤ s.ctx.arch.fcsr.toNat / 32 % 8 →
     ∀ f ∈ roundedForms s rd a b 7 fmt la w32 uns dbl m, exec f.1 s = .next (s.trap f.1 1 s.ir false 0 []))
  ∧ (∀ (s : State) (rd a b : Reg) (rm : BitVec 3) (fmt j : BitVec 2) (la : BitVec 4) (w32 uns dbl : Bool) (m : RMode), s.plain →
       let traps := fun (f : Instr × BitVec 4 × Word × Flags) =>
         let t := ((s.setReg rd f.2.2.1).mapArch (·.raiseFlags f.2.2.2)).mapChunk fun c => { c with ins := c.ins + 1 }
         f.2.2.2 &&& BitVec.ofNat 5 (s.ctx.arch.fcsr.toNat / 256 % 32) ≠ 0 →
         (t.canCommit = true → exec f.1 s = .next (t.trap f.1 7 0 true 0 []))
         ∧ (t.canCommit = false → exec f.1 s = .next ((t.mapChunk fun c => { c with full := true, fpx := some 0 }).block { kind := .commit }))
       (modeCode s rm < 5 → RMode.ofCode (modeCode s rm) = some m → ∀ f ∈ roundedForms s rd a b rm fmt la w32 uns dbl m, traps f)
       ∧ ∀ f ∈ plainForms s rd a b fmt j, traps f)

/-! ### Ordering and watches (09 R215 to R221) -/

/-- R216 to R218: every FENCE, FENCE.X and CHUNK of a running thread whose chunk may commit completes, on the thread's link writes alone depending
further: a system-scope FENCE where the thread has none outstanding, a FENCE.X with the link path where none is lost. CHUNK waits for no commit: it belongs
to the next chunk.

R216 to R218: the fences and CHUNK complete where the chunk before them may commit. FENCE above scope core writes the core's dirty SWM lines
back and drops its clean copies, as its kind says; a system scope finds no unacknowledged link write. FENCE.X records its condition, unless it holds
already.
The model's own choices in it: log 18, 62. -/
def Obligations.FencesAndChunkComplete : Prop :=
  (∀ (s : State) (kind : BitVec 2) (scope : BitVec 3) (link : Bool) (later earlier : BitVec 4), s.plain →
     let c := s.commitCur
     let back := if 1 ≤ scope.toNat ∧ (kind = 0 ∨ kind = 2) then c.swmWriteBack c.coreId else c
     let clean := if 1 ≤ scope.toNat ∧ (kind = 0 ∨ kind = 1) then back.swmInvalidate back.coreId else back
     let quiet := clean.linkLost clean.coreId clean.cur.2 = none ∧ clean.linkTransfers = []
       ∧ clean.links.writes.any (fun w => w.core == clean.coreId && w.slot == clean.cur.2) = false
     (s.canCommit = true → (scope = 4 → quiet) → exec (.fence kind scope) s = .next ((clean.retired 4).rebase))
     ∧ (s.canCommit = true → ¬ (link = false ∧ later = 0 ∧ earlier = 0) → (link = true → c.linkLost c.coreId c.cur.2 = none) →
         exec (.fenceX link later earlier) s = .next (((c.addCondition (c.fenceCondition link later earlier)).retired 4).rebase))
     ∧ exec (.fenceX false 0 0) s = .next (s.retired 4)
     ∧ (s.canCommit = true → exec .chunk s = .next (c.retired 4))
     ∧ (s.canCommit = false → exec .chunk s = .next
         ((s.mapArch fun a => ((a.next 4).tickWindows).blockStep s.isBound false).mapChunk fun k => { k with full := true, next := 1 })))
  ∧ (∀ (s : State) (kind : BitVec 2) (scope : BitVec 3) (link : Bool) (later earlier : BitVec 4), s.plain → s.canCommit = true →
       let c := s.commitCur
       let back := if 1 ≤ scope.toNat ∧ (kind = 0 ∨ kind = 2) then c.swmWriteBack c.coreId else c
       let clean := if 1 ≤ scope.toNat ∧ (kind = 0 ∨ kind = 1) then back.swmInvalidate back.coreId else back
       ((scope = 4 → awaitLinks clean = .ok ((), clean)) → exec (.fence kind scope) s = .next ((clean.retired 4).rebase))
       ∧ exec .chunk s = .next (c.retired 4)
       ∧ (exec (.fenceX false 0 0) s = .next (s.retired 4))
       ∧ (¬ (link = false ∧ later = 0 ∧ earlier = 0) → (link = true → c.linkLost c.coreId c.cur.2 = none) →
           ∃ (d : Condition) (t : State), exec (.fenceX link later earlier) s = .next ((t.retired 4).rebase)
             ∧ sameOutside c t ∧ t.ctx = { c.ctx with conditions := t.ctx.conditions }
             ∧ t.ctx.conditions = (c.ctx.conditions.filter fun x => !c.conditionMet c.coreId x) ++ (if c.conditionMet c.coreId d then [] else [d])
             ∧ d.link = link ∧ d.core = later.getLsbD 0 ∧ d.copy = later.getLsbD 1 ∧ d.matrix = later.getLsbD 2 ∧ d.collective = later.getLsbD 3))

/-- R219 to R221: WATCH arms the lowest free entry on the line, gives back the entry the context already holds on it, or answers all ones where none
is free; SLEEP returns at once with a fired entry, with 17 where it lost a watched line, or with 20 where the context has none, and else waits for its own timeout or the core's; UNWATCH names the entry that
the commit of its chunk frees where the executing context holds it: that commit keeps every other entry of the core, and every entry of the other
cores. -/
def Obligations.WatchesAreArmedReportedAndFreed : Prop :=
  ∀ (s : State) (rd a : Reg), s.plain →
    let c := s.commitCur
    let line := c.lineKey c.coreId (s.x a).toNat
    let mine := (c.myCore.watches.find? fun w => w.slot == c.cur.2 && w.line == line)
    let done := fun (ins : Instr) (t : State) (v : Word) => exec ins s = .next (((t.setReg rd v).retired 4).rebase)
    (s.canCommit = true →
      (∀ w, mine = some w → done (.watch rd a) c (BitVec.ofNat 64 w.entry))
      ∧ (mine = none → c.myCore.freeWatch = none → done (.watch rd a) c (BitVec.allOnes 64))
      ∧ (∀ e, mine = none → c.myCore.freeWatch = some e → done (.watch rd a)
          (c.mapCore c.coreId fun k => { k with watches := { entry := e, slot := c.cur.2, line := line, fired := false, reported := false } :: k.watches })
          (BitVec.ofNat 64 e))
      ∧ (∀ e, c.myCore.firedEntry c.cur.2 = some e → done (.sleep rd a) { c.mapCore c.coreId (·.report e) with ctx := { c.ctx with wait := {} } } (BitVec.ofNat 64 e))
      ∧ (c.myCore.firedEntry c.cur.2 = none → c.ctx.wait = Wait.evicted ∨ c.myCore.watches.any (·.slot == c.cur.2) = false →
          done (.sleep rd a) { c with ctx := { c.ctx with wait := {} } } (if c.ctx.wait = Wait.evicted then 17 else 20))
      ∧ (c.myCore.firedEntry c.cur.2 = none → c.ctx.wait ≠ Wait.evicted → c.myCore.watches.any (·.slot == c.cur.2) = true →
          let ticks := if s.x a = 0 then c.myCore.k.waitTmo.toNat else (s.x a).toNat
          exec (.sleep rd a) s = .next (s.block { kind := .sleep, rd := rd, ins := some (.sleep rd a)
                                                  deadline := if ticks = 0 then none else some ((c.die (dieOf c.coreId)).gct + ticks) })))
    ∧ exec (.unwatch a) s = .next ((s.mapChunk fun k => { k with unwatched := insertN ((s.x a).toNat % 16) k.unwatched }).retired 4)
    ∧ (s.ctx.chunk.isEmpty = false → s.keysRise →
        let held := fun (t : State) (k : Nat) => (t.core k).watches.map fun w => (w.entry, w.slot, w.line)
        held c s.coreId = (held s s.coreId).filter (fun w => !(s.ctx.chunk.unwatched.contains w.1 && w.2.1 == s.cur.2))
        ∧ ∀ k, k ≠ s.coreId → held c k = held s k)

/-! ### Handles (02 R20, 05 R122, R123) -/

/-- Two handles agree in every bit outside a field. -/
def sameOutsideField (lo width : Nat) (h h' : HWord) : Prop := ∀ i, i < 256 → (i < lo ∨ lo + width ≤ i) → h'.getLsbD i = h.getLsbD i

/-- R122, R123: the handle instructions: loads and stores of 32 bytes, the field forms, copies, and moves of the window's origin modulo 2^16. -/
def Obligations.HandleInstructionsDoTheirWork : Prop :=
  ∀ (s : State) (hd hk : HReg) (a b : Reg) (imm fld : BitVec 8), s.plain → fld.toNat ≤ 11 →
    let h := s.hreg hd
    let ea := (s.x a + BitVec.ofNat 64 (32 * imm.toNat)).toNat
    (∀ p u, placeOf ea 32 .load s = .ok (p, u) → exec (.hld hd a imm) s =
        .next (((u.noteRead p).setHandle hd (BitVec.ofNat 256 (ofLeBytes ((u.noteRead p).seenBytes p.kind p.loc 32)))).retired 4))
    ∧ (∀ r p u, reserveLines [s.lineKey s.coreId ea] s = .ok ((), r) → placeOf ea 32 .store r = .ok (p, u) →
        ¬ (p.kind = kindWo ∧ p.lineKey ∈ u.coh.written) → exec (.hst hd a imm) s = .next ((u.noteWrite p (leBytes 32 h.toNat) 512).retired 4))
    ∧ (∃ h', exec (.hset hd b fld) s = .next ((s.setHandle hd h').retired 4)
        ∧ handleAt h' fld.toNat = (s.x b).toNat % 2 ^ (handleField fld.toNat).2
        ∧ sameOutsideField (handleField fld.toNat).1 (handleField fld.toNat).2 h h')
    ∧ exec (.hget hd b fld) s = .next ((s.setReg b (if fld = 5 then ((h.extractLsb' 96 32).signExtend 64) else BitVec.ofNat 64 (handleAt h fld.toNat))).retired 4)
    ∧ exec (.hmov hd hk) s = .next ((s.setHandle hd (s.hreg hk)).retired 4)
    ∧ (∃ h', exec (.hadv hd a b) s = .next ((s.setHandle hd h').retired 4)
        ∧ h'.extractLsb' 184 16 = h.extractLsb' 184 16 + (s.x a).setWidth 16 ∧ h'.extractLsb' 200 16 = h.extractLsb' 200 16 + (s.x b).setWidth 16
        ∧ sameOutsideField 184 32 h h')
    ∧ exec (.hzero hd) s = .next ((s.setHandle hd 0).retired 4)

/-- R101: the register-only integer instructions, their chunk going on, leave every register but rd, every handle register, every control
register and flag, and all of memory and the rest of the machine as they were; rd reads as written.

A handle write, its chunk going on, changes of the thread only the named handle, the pc and what counts instructions, and nothing outside the
thread. -/
def Obligations.RegisterAndHandleWritesLeaveTheRest : Prop :=
  (∀ (s : State) (rd : Reg) (v : Word) (n : Nat), s.plain → s.chunkGoesOn →
     let t := (s.setReg rd v).retired n
     t.x rd = v ∧ sameButReg (some rd) s.ctx.arch t.ctx.arch ∧ sameOutside s t ∧ t.plain
     ∧ ∀ (k loc : Nat), t.seenByte k loc = s.seenByte k loc)
  ∧ (∀ (s : State) (hd : HReg) (v : HWord) (n : Nat), s.plain → s.chunkGoesOn →
       let t := (s.setHandle hd v).retired n
       t.hreg hd = v ∧ (∀ k, k ≠ hd → t.hreg k = s.hreg k) ∧ sameOutside s t ∧ t.plain
       ∧ sameButReg none s.ctx.arch { t.ctx.arch with handles := s.ctx.arch.handles })

/-! ### Repetition (05 R125 to R129) -/

/-- What a body may not hold when it is reached (05 R128). -/
def mayNotRepeat (i : Instr) : Prop :=
  (∃ a b o, i ∈ [.beq a b o, .bne a b o, .blt a b o, .bge a b o, .bltu a b o, .bgeu a b o]) ∨ (∃ rd o, i = .jal rd o) ∨ (∃ rd a k, i = .jalr rd a k)
    ∨ (∃ a o, i = .cBeqz a o ∨ i = .cBnez a o) ∨ (∃ o, i = .cJ o) ∨ (∃ a, i = .cJr a) ∨ (∃ r l h t p, i = .rep r l h t p)
    ∨ (∃ a, i ∈ [.trap a, .wfi a, .yield a]) ∨ (∃ c, i = .brk c) ∨ i ∈ [.eret, .done, .cDone]
    ∨ (∃ rd n, i = .compose rd n) ∨ (∃ rd, i = .release rd) ∨ (∃ rd la, i = .cstat rd la)

/-- R127: REP fetches its body and begins pass 0 with the body captured and the count, strides and span in place; a count of 0 goes on past the
body. Span code 7 raises ILLEGAL (R126), as does REP in a handler of a thread that was inside a repetition (R153); a fault in fetching the body is taken at
REP. A body instruction of R128 raises ILLEGAL, with its bits, when it is reached.

R127, R140: after the last instruction of a body the next pass begins at its start with the count one less and RPASS one more modulo 8, and
after the last pass the repetition ends and the pc goes on; after any other body instruction the pc goes on within the pass.

R126: renaming keeps a register outside the window, keeps a window's registers in it, and is a bijection of the window for every stride and pass;
no window holds s0.
The model's own choices in it: log 47. -/
def Obligations.RepetitionsBeginFollowAndRename : Prop :=
  (∀ (s : State) (r : Reg) (len : BitVec 5) (hs ss span : BitVec 3) (body : List BodyIns) (last : BodyIns) (u : State), s.plain →
     let ins := Instr.rep r len hs ss span
     let traps := fun (cause : Nat) (tval : Word) (kind : Nat) => exec ins s = .next (s.trap ins cause tval false kind [])
     let capture := captureBody (len.toNat + 1) (s.ctx.arch.pc + 4).toNat s
     (span = 7 ∨ (s.ctx.arch.inh = true ∧ s.ctx.arch.repAct = true) → traps 1 s.ir 0)
     ∧ (span ≠ 7 → ¬ (s.ctx.arch.inh = true ∧ s.ctx.arch.repAct = true) → ∀ cause tval kind, capture = .error (.trap cause tval kind) → traps cause tval kind)
     ∧ (span ≠ 7 → ¬ (s.ctx.arch.inh = true ∧ s.ctx.arch.repAct = true) →
       capture = .ok (body, u) → body.getLast? = some last → u.chunkGoesOn → u.ctx.arch = s.ctx.arch →
       ∃ t, exec ins s = .next t ∧ sameOutside u t
         ∧ (s.x r = 0 → t.ctx.arch.pc = BitVec.ofNat 64 (last.addr + last.len) ∧ t.ctx.arch.status = s.ctx.arch.status)
         ∧ (s.x r ≠ 0 → t.ctx.arch.pc = s.ctx.arch.pc + 4 ∧ t.ctx.arch.repBase = s.ctx.arch.pc + 4 ∧ t.ctx.arch.repCnt = s.x r
             ∧ t.ctx.arch.body = body ∧ t.ctx.arch.inRep = true ∧ t.ctx.arch.repAct = true
             ∧ t.ctx.arch.status.extractLsb' 9 5 = len ∧ t.ctx.arch.status.extractLsb' 14 3 = hs ∧ t.ctx.arch.status.extractLsb' 17 3 = ss
             ∧ t.ctx.arch.status.extractLsb' 20 3 = span ∧ t.ctx.arch.status.extractLsb' 23 3 = 0))
     ∧ (∀ i, repForbidden i = true ↔ mayNotRepeat i)
     ∧ (∀ b, repForbidden b.ins = true →
         s.issueBody b = .next ((s.withIr b.bits).trap .nop 1 (BitVec.ofNat 64 (b.bits % (if b.len = 2 then 2 ^ 16 else 2 ^ 32))) false 0 [])))
  ∧ (∀ (a : Arch) (last : BodyIns) (len : Nat), a.inRep = true → a.repAct = true → a.body.getLast? = some last →
       let b := a.next len
       (last.addr = a.pc.toNat → 1 < a.repCnt.toNat →
         b.pc = a.repBase ∧ b.repCnt = a.repCnt - 1 ∧ b.inRep = true ∧ b.body = a.body ∧ b.repAct = true
         ∧ b.status.extractLsb' 23 3 = a.status.extractLsb' 23 3 + 1 ∧ b.status.extractLsb' 0 23 = a.status.extractLsb' 0 23)
       ∧ (last.addr = a.pc.toNat → a.repCnt.toNat ≤ 1 → b.pc = a.pc + BitVec.ofNat 64 len ∧ b.inRep = false ∧ b.repAct = false ∧ b.repCnt = 0)
       ∧ (last.addr ≠ a.pc.toNat → b = { a with pc := a.pc + BitVec.ofNat 64 len }))
  ∧ (∀ (code p stride k j : Nat), 1 ≤ code → code < 7 → k < 16 → j < 16 →
       let w := scalarSpan code
       let f := renamed w p stride
       (¬ (w.1 ≤ k ∧ k < w.1 + w.2) → f k = k) ∧ ((w.1 ≤ k ∧ k < w.1 + w.2) → w.1 ≤ f k ∧ f k < w.1 + w.2)
       ∧ (f k = f j → k = j) ∧ f 0 = 0 ∧ f k < 16 ∧ renamed w (p + w.2) stride k = f k)

/-! ### Control registers (06 R136 to R143, R151) -/

/-- The registers that a write stores into, CR_STATUS, CR_SEAMCTL, CR_CAPKEY and CR_WDOG apart, and the bits of each that it stores (06 R137, R139 to R143, 22 R378). -/
def writableBits : List (Nat × Word) :=
  [(0x001, 0xFF), (0x002, ~~~1), (0x003, BitVec.allOnes 64), (0x004, ~~~1), (0x005, BitVec.allOnes 64), (0x008, 0x1FFF), (0x020, BitVec.allOnes 64),
   (0x030, 0x3FF), (0x031, BitVec.allOnes 64), (0x032, 0xFFFFF), (0x033, BitVec.allOnes 64), (0x034, BitVec.allOnes 64), (0x038, BitVec.allOnes 64),
   (0x039, BitVec.allOnes 64), (0x03A, BitVec.allOnes 64), (0x048, 0x7F03FF), (0x070, 0xFFFFFFFE00001), (0x071, BitVec.allOnes 64),
   (0x073, BitVec.allOnes 64), (0x075, 0xAFFDE)]

/-- R151: CRR reads a listed register; CRW, CRS and CRC give rd the old value and write the new one, their write ending the chunk first where R151
says so. At user level the privileged registers are refused with PRIV, and read-only ones with ILLEGAL (R138).

R137, R139: what a control-register write stores reads back, its writable bits and no others, and every other register reads as before; the capability
key reads 0, PERIOD is written at machine level alone, and KICK reads 0 and kicks.

R137, R138: an index that is not listed raises ILLEGAL at every level, user level included.
The model's own choices in it: log 48, 49. -/
def Obligations.ControlRegistersAreReadModifiedOrIllegal : Prop :=
  (∀ (s : State) (rd a : Reg) (cr : BitVec 9) (old : Word), s.plain → s.crRead cr.toNat = some old →
     let hidden := decide (0x70 ≤ cr.toNat) && decide (cr.toNat ≤ 0x76)
     let trapped := fun (ins : Instr) (cause : Nat) => exec ins s = .next (s.trap ins cause s.ir false 0 [])
     let writes := fun (ins : Instr) (f : Word → Word → Word) =>
       let ends := crEndsChunk cr.toNat
       let c := if ends then s.commitCur else s
       let o := (c.crRead cr.toNat).getD 0
       let t := ((c.crWrite cr.toNat (f o (c.x a))).setReg rd o).retired 4
       (crReadOnly cr.toNat = true → trapped ins 1)
       ∧ (crReadOnly cr.toNat = false → s.isUser = true → (hidden = true ∨ cr = 0x20) → trapped ins 16)
       ∧ (crReadOnly cr.toNat = false → (s.isUser = true → hidden = false ∧ cr ≠ 0x20) → (ends = true → s.canCommit = true) → c.plain →
           exec ins s = .next (if ends then t.rebase else t))
     ((s.isUser = true → hidden = false) → exec (.crr rd cr) s = .next ((s.setReg rd old).retired 4))
     ∧ (s.isUser = true → hidden = true → trapped (.crr rd cr) 16)
     ∧ writes (.crw rd a cr) (fun _ v => v) ∧ writes (.crs rd a cr) (fun o v => o ||| v) ∧ writes (.crc rd a cr) (fun o v => o &&& ~~~v))
  ∧ (∀ (s : State) (v : Word), s.keysRise → (∀ o, s.owner? s.ctx.owner = some o → o.id = s.ctx.owner) →
       let die := fun (t : State) => t.die (dieOf t.coreId)
       (∀ e ∈ writableBits, (s.crWrite e.1 v).crRead e.1 = some (v &&& e.2))
       ∧ (s.crWrite 0x000 v).crRead 0x000 = some (statusWrite s.ctx.arch.status v)
       ∧ (∃ w, (s.crWrite 0x072 v).crRead 0x072 = some w ∧ w.extractLsb' 0 40 = v.extractLsb' 0 40)
       ∧ ((s.crWrite 0x074 v).crRead 0x074 = some 0 ∧ (die (s.crWrite 0x074 v)).capKey = v)
       ∧ ((s.crWrite 0x076 v).crRead 0x076 = some (if s.prv = 3 then (v.setWidth 32).setWidth 64 else ((die s).wdogPeriod.setWidth 64))
         ∧ (die (s.crWrite 0x076 v)).wdogKick = if v.getLsbD 32 then (die s).gct else (die s).wdogKick)
       ∧ ∀ i j, i ≠ j → (s.crWrite i v).crRead j = s.crRead j)
  ∧ (∀ (s : State) (rd a : Reg) (cr : BitVec 9), s.plain → s.crRead cr.toNat = none →
       let trapped := fun (ins : Instr) => exec ins s = .next (s.trap ins 1 s.ir false 0 [])
       trapped (.crr rd cr) ∧ trapped (.crw rd a cr) ∧ trapped (.crs rd a cr) ∧ trapped (.crc rd a cr)
       ∧ ∀ n : Nat, (0x77 ≤ n ∨ n = 9 ∨ n = 0x0F ∨ n = 0x29) → s.crRead n = none)

/-- R138 to R140: what a write to CR_STATUS keeps: PRV, INH and PPRV at user level, the repetition fields; REPACT may be cleared and never set.
The model's own choices in it: log 45. -/
def Obligations.StatusWritesKeepReadOnlyFields : Prop :=
  ∀ (old v : Word),
    let new := statusWrite old v
    new.extractLsb' 0 2 = old.extractLsb' 0 2 ∧ new.getLsbD 5 = v.getLsbD 5 ∧ new.extractLsb' 9 55 = old.extractLsb' 9 55
    ∧ new.getLsbD 8 = (old.getLsbD 8 && v.getLsbD 8)
    ∧ (old.extractLsb' 0 2 = 0 → new.getLsbD 4 = old.getLsbD 4 ∧ new.extractLsb' 2 2 = old.extractLsb' 2 2)
    ∧ (old.extractLsb' 0 2 ≠ 0 → new.getLsbD 4 = v.getLsbD 4 ∧ (v.extractLsb' 2 2 ≠ 2 → new.extractLsb' 2 2 = v.extractLsb' 2 2))

/-! ### Traps (06 R144 to R148) -/

/-- R145, R146: a user-level trap of a delegated cause enters the handler at user level; above user level every trap enters at CR_TVEC with PPRV := PRV;
the address, cause and value are saved in both.

R146: a user-level trap that is not delegated saves the same, and parks for a SYSCALL, runs ahead for a page fault that a mapping can serve, and
otherwise is FAULTED, its event recorded for its kernel.
The model's own choices in it: log 43. -/
def Obligations.TrapsEnterTheirHandlerOrLysa : Prop :=
  (∀ (s : State) (i : Instr) (cause kind : Nat) (tval : Word) (pdone : Bool) (more : List Nat), s.canCommit = true → cause < 20 →
     let c := s.commitCur
     let t := s.trap i cause tval pdone kind more
     let a := t.ctx.arch
     let saved := a.epc = c.ctx.arch.pc &&& ~~~1 ∧ a.cause = BitVec.ofNat 64 cause ∧ a.tval = tval ∧ a.pc = c.myCore.k.tvec
       ∧ a.status.getLsbD 5 = pdone ∧ a.regs = c.ctx.arch.regs ∧ a.handles = c.ctx.arch.handles ∧ t.mem = c.mem
       ∧ a.status.extractLsb' 0 2 = c.ctx.arch.status.extractLsb' 0 2 ∧ a.status.extractLsb' 8 56 = c.ctx.arch.status.extractLsb' 8 56
     (c.prv = 0 → cause ≠ 5 → cause ≠ 16 → cause ≠ 18 → c.myCore.k.tdeleg.getLsbD cause = true → c.ctx.arch.status.getLsbD 4 = false →
       saved ∧ a.status.getLsbD 4 = true ∧ a.status.extractLsb' 2 2 = c.ctx.arch.status.extractLsb' 2 2)
     ∧ (c.prv ≠ 0 → saved ∧ a.status.extractLsb' 2 2 = c.ctx.arch.status.extractLsb' 0 2 ∧ a.status.getLsbD 4 = c.ctx.arch.status.getLsbD 4))
  ∧ (∀ (s : State) (i : Instr) (cause kind : Nat) (tval : Word) (pdone : Bool) (more : List Nat), s.canCommit = true → cause < 20 →
       let c := s.commitCur
       let t := s.trap i cause tval pdone kind more
       c.prv = 0 → c.delegates cause = false →
       (cause = 18 → t.ctx.life = .parked ∧ t.ctx.wait.kind = .syscall)
       ∧ (cause = 5 → tval.toNat < 2 ^ 56 → t.ctx.life = .runahead ∨ t.ctx.life = .parked)
       ∧ (cause ≠ 18 → ¬ (cause = 5 ∧ tval.toNat < 2 ^ 56) → t.ctx.life = .faulted)
       ∧ ((cause = 18 ∨ ¬ (cause = 5 ∧ tval.toNat < 2 ^ 56)) → t.ctx.arch.epc = c.ctx.arch.pc &&& ~~~1 ∧ t.ctx.arch.cause = BitVec.ofNat 64 cause
           ∧ t.ctx.arch.tval = tval ∧ t.ctx.arch.status.getLsbD 5 = pdone ∧ t.ctx.arch.regs = c.ctx.arch.regs ∧ t.ctx.arch.pc = c.ctx.arch.pc))

/-- R152: TRAP takes SYSCALL with its register as the value, and BRK takes BREAK with its code, both with PDONE = 1. A reserved encoding takes
ILLEGAL with its bits, and a fetch that faults takes its trap at the target (02 R24, R29). -/
def Obligations.TrappingInstructionsTakeTheirTrap : Prop :=
  ∀ (s : State) (a : Reg) (code : BitVec 9) (bits : BitVec 32) (short : Bool) (cause va : Nat), s.plain →
    exec (.trap a) s = .next (s.trap (.trap a) 18 (s.x a) true 0 [])
    ∧ exec (.brk code) s = .next (s.trap (.brk code) 17 (code.setWidth 64) true 0 [])
    ∧ exec (.reservedEncoding bits short) s = .next (s.trap .nop 1 (if short then bits.setWidth 64 &&& 0xFFFF else bits.setWidth 64) false 0 [])
    ∧ exec (.instructionFetchFault cause va) s = .next (s.trap .nop cause (BitVec.ofNat 64 va) false 2 [])

/-- R153: ERET goes to CR_EPC, or 4 past it where PDONE is set, clears PDONE, and clears INH at user level or returns to PPRV above it; at user level outside a
handler it raises ILLEGAL. With REPACT set it fetches the body again from CR_REPBASE, taking a fault of that fetch itself, and resumes the pass where its target
is an instruction of the body; any other target abandons the repetition.
The model's own choices in it: log 45. -/
def Obligations.ReturningGoesBackWhereTheTrapWas : Prop :=
  ∀ (s : State), s.plain → s.canCommit = true →
    let c := s.commitCur
    let st := c.ctx.arch.status
    (s.isUser = true → s.ctx.arch.inh = false → exec .eret s = .next (s.trap .eret 1 s.ir false 0 []))
    ∧ ((s.isUser = false ∨ s.ctx.arch.inh = true) → st.getLsbD 8 = false → c.chunkGoesOn → c.ctx.rollbackNotice = none →
        ∃ t, exec .eret s = .next t ∧ sameOutside c t ∧ t.ctx.arch.regs = c.ctx.arch.regs ∧ t.ctx.arch.handles = c.ctx.arch.handles
          ∧ t.ctx.arch.pc = (if st.getLsbD 5 then c.ctx.arch.epc + 4 else c.ctx.arch.epc)
          ∧ t.ctx.arch.status.getLsbD 5 = false ∧ t.ctx.arch.status.extractLsb' 8 56 = st.extractLsb' 8 56
          ∧ t.ctx.arch.status.extractLsb' 2 2 = st.extractLsb' 2 2
          ∧ (st.extractLsb' 0 2 = 0 → t.ctx.arch.status.getLsbD 4 = false ∧ t.ctx.arch.status.extractLsb' 0 2 = 0)
          ∧ (st.extractLsb' 0 2 ≠ 0 → t.ctx.arch.status.getLsbD 4 = st.getLsbD 4 ∧ t.ctx.arch.status.extractLsb' 0 2 = st.extractLsb' 2 2))
    ∧ ((s.isUser = false ∨ s.ctx.arch.inh = true) → st.getLsbD 8 = true →
        let target := if st.getLsbD 5 then c.ctx.arch.epc + 4 else c.ctx.arch.epc
        let back := c.mapArch fun a => { a with status := a.eretStatus }
        let capture := captureBody ((st.extractLsb' 9 5).toNat + 1) c.ctx.arch.repBase.toNat back
        (∀ cause tval kind, capture = .error (.trap cause tval kind) → exec .eret s = .next (s.trap .eret cause tval false kind []))
        ∧ (∀ body u, capture = .ok (body, u) → u.ctx.arch = back.ctx.arch → u.chunkGoesOn → u.ctx.rollbackNotice = none →
          ∃ t, exec .eret s = .next t ∧ sameOutside u t ∧ t.ctx.arch.regs = c.ctx.arch.regs ∧ t.ctx.arch.handles = c.ctx.arch.handles
            ∧ t.ctx.arch.pc = target ∧ t.ctx.arch.repCnt = c.ctx.arch.repCnt
            ∧ ((∃ b ∈ body, b.addr = target.toNat) → t.ctx.arch.inRep = true ∧ t.ctx.arch.body = body ∧ t.ctx.arch.status = back.ctx.arch.status)
            ∧ ((∀ b ∈ body, b.addr ≠ target.toNat) → t.ctx.arch.inRep = false ∧ t.ctx.arch.repAct = false
              ∧ t.ctx.arch.status = back.ctx.arch.status &&& ~~~(0x100 : Word))))

/-- R154 to R156, R191, R192, R134: SYNCI, CARVE, WFI, YIELD and the ends of a thread. SYNCI drops lines of the core's instruction cache. CARVE answers 1 for a size out of range, 2 where more contexts
are resident, and else makes its request; WFI returns 0 for a queued message and then 1 for a fired watch; else it waits. YIELD gives its slot up and counts the
queue; DONE, C.DONE and a user-level fetch from address 0 retire the context: its watch entries are freed, and, for a thread of its group, its rank is recorded
as retired.
The model's own choices in it: log 36, 50. -/
def Obligations.SystemInstructionsComplete : Prop :=
  ∀ (s : State) (rd a b : Reg), s.plain → s.canCommit = true →
    let c := s.commitCur
    let g := (s.x a).toNat
    let meets := fun (line : Nat) => decide ((s.x a).toNat < 128 * line + 128) && decide (128 * line < (s.x a).toNat + (s.x b).toNat)
    let kept := fun (k : Core) => if (s.x b).toNat = 0 then [] else k.l1i.filter fun e => !meets e.1
    let carved := fun (t : State) (v : Word) => exec (.carve rd a) s = .next (((t.setReg rd v).retired 4).rebase)
    exec (.synci a b) s = .next ((c.mapCore c.coreId fun k => { k with l1i := kept k }).retired 4)
    ∧ ((g = 0 ∨ 8 < g) → carved c 1)
    ∧ (1 ≤ g → g ≤ 8 → 8 * g < (c.resident c.coreId).length → carved c 2)
    ∧ (1 ≤ g → g ≤ 8 → (c.resident c.coreId).length ≤ 8 * g → carved (c.mapCore c.coreId fun k => { k with carveReq := g, carvePend := true }) 0)
    ∧ (c.myCore.queue ≠ [] → exec (.wfi rd) s = .next ((c.setReg rd 0).retired 4))
    ∧ (c.myCore.queue = [] → c.hasFired c.coreId c.cur.2 = true → exec (.wfi rd) s = .next ((c.setReg rd 1).retired 4))
    ∧ (c.myCore.queue = [] → c.hasFired c.coreId c.cur.2 = false → exec (.wfi rd) s = .next (s.block (let w : Wait := { kind := .wfi, rd := rd, ins := some (.wfi rd) }
        if c.myCore.k.waitTmo = 0 then w else { w with deadline := some ((c.die (dieOf c.coreId)).gct + c.myCore.k.waitTmo.toNat) })))
    ∧ (∃ t, exec (.yield rd) s = .next { t with ctx := { t.ctx with life := .ready } }
        ∧ t = ((c.setReg rd (BitVec.ofNat 64 c.myCore.queue.length)).retired 4).rebase)
    ∧ exec .done s = .next ((c.retireContext.wakeRetries).endKernels) ∧ exec .cDone s = exec .done s
    ∧ (c.keysRise →
        let r := c.retireContext
        let gone : Context := { Context.free with life := .retired }
        let waits := fun (x : Context) => x.owner = c.ctx.owner ∧ x.knum = c.ctx.knum ∧ x.group = c.ctx.group ∧ x.life = .waiting ∧ x.wait.kind = .collective
        c.ctx.handling.isSome = true ∨ (∀ p ∈ ({ c with ctx := gone } : State).allCtxs, ¬ waits p.2.2) →
          r = { c with ctx := gone, cores := r.cores, links := r.links, kernels := r.kernels }
          ∧ (r.core c.coreId).watches = c.myCore.watches.filter (·.slot != c.cur.2) ∧ (∀ k, k ≠ c.coreId → r.core k = c.core k)
          ∧ (c.ctx.handling.isSome = true → r.kernels = c.kernels)
          ∧ (c.ctx.handling = none → ∀ k, c.kernel? c.ctx.owner c.ctx.knum = some k → k.owner = c.ctx.owner → k.knum = c.ctx.knum →
              r.kernel? c.ctx.owner c.ctx.knum = some { k with groups := k.groups.map fun g =>
                if g.index = c.ctx.group then { g with retired := insertN c.ctx.rank g.retired } else g }))
    ∧ (s.isUser = true → exec .fetchFromAddressZero s = exec .done s)
    ∧ (s.isUser = false → exec .fetchFromAddressZero s = .next (s.trap .fetchFromAddressZero 5 0 false 2 []))

/-! ### The step (02 R24, R28, R43 to R47, 05 R127) -/

/-- A step executes the instruction that the bytes at the pc decode to, the pages of the fetch noted and its bits in the instruction register; inside a
repetition, the captured body's instruction at the pc, renamed. No lookahead window is open here. For a machine-level thread without translation
whose instruction cache holds nothing the bytes are those of physical memory at the pc.
The model's own choices in it: log 12, 36. -/
def Obligations.StepRunsTheDecodedInstruction : Prop :=
  ∀ (s : State), s.undisturbed → s.ctx.arch.windows = [] →
    (∀ (b : BodyIns) (t : State), s.ctx.arch.bodyAt = none → s.ctx.arch.pc ≠ 0 → fetchIns s.ctx.arch.pc.toNat s = .ok (b, t) →
      step s = exec b.ins (t.withIr b.bits)
      ∧ b.ins = (match (if b.len = 2 then decodeShort b.bits else decodeLong b.bits) with
          | .ok i => i | .error _ => .reservedEncoding (BitVec.ofNat 32 b.bits) (b.len == 2))
      ∧ (b.len = 2 ↔ b.bits % 2 = 0) ∧ (b.len = 2 ∨ b.len = 4))
    ∧ (∀ b : BodyIns, s.ctx.arch.bodyAt = some b → step s = s.issueBody b
        ∧ (repForbidden b.ins = false → step s = exec (s.ctx.arch.rename b.ins) (s.withIr b.bits)))
    ∧ (s.prv = 3 → s.myCore.plbEn = false → s.myCore.l1i = [] → s.ctx.arch.pc.toNat % 2 = 0 → s.ctx.arch.pc.toNat + 4 ≤ tcmWindow →
      ∃ b t, fetchIns s.ctx.arch.pc.toNat s = .ok (b, t) ∧ b.bits = s.natAt s.ctx.arch.pc.toNat b.len
        ∧ t = { s with ctx := t.ctx, cores := t.cores } ∧ t.ctx.arch = s.ctx.arch)

/-- What breaks the contract of an open window (02 R45): naming its destination register as a source or a destination, naming its destination handle, or
touching a byte of its destination. -/
def breaksContract (s : State) (i : Instr) (w : Window) : Prop :=
  match w.dest with
  | .reg r => r ∈ instrSources i ∨ r ∈ instrDests i
  | .window h _ bytes => h ∈ instrHandles i ∨ ∃ x ∈ s.touches i, ∃ y ∈ bytes, ∃ k, x.1 ≤ k ∧ k < x.1 + x.2 ∧ y.1 ≤ k ∧ k < y.1 + y.2

/-- R45, R28: an instruction that breaks the contract of an open window raises LOOKAHEAD with the address of the oldest such long-latency instruction, unless it
raises ILLEGAL or PRIV; one that breaks none executes.

R43, R44: an instruction that completes counts down every open window, and one with a nonzero la opens its own with that many instructions.
The model's own choices in it: log 20, 21. -/
def Obligations.LookaheadWindowsGuardAndCount : Prop :=
  (∀ (s : State) (i : Instr), s.plain →
     (∀ w, s.violates i w = true ↔ breaksContract s i w)
     ∧ (∀ (older younger : List Window) (w : Window), s.ctx.arch.windows = older ++ w :: younger → (∀ v ∈ older, ¬ breaksContract s i v) → breaksContract s i w →
         s.checked i = if s.trapsEarly i then exec i s else .next (s.trap i 2 (BitVec.ofNat 64 w.addr) false 0 []))
     ∧ ((∀ w ∈ s.ctx.arch.windows, ¬ breaksContract s i w) → s.checked i = exec i s))
  ∧ (∀ (s : State) (len : Nat) (la : BitVec 4) (d : Dest), s.chunkGoesOn →
       (s.retiredLong len la d).ctx.arch.windows =
         (s.ctx.arch.windows.map fun w => { w with left := w.left - 1 }).filter (fun w => 0 < w.left)
           ++ (if la = 0 then [] else [{ addr := s.ctx.arch.pc.toNat, dest := d, left := la.toNat }]))

/-! ### The vector unit (16) -/

/-- The handle a register holds, as an operand. -/
def operandOf (s : State) (h : HReg) : Tile := Tile.of h (s.hreg h)

/-- A vector instruction may do its work: R21 holds for its used handles, its destination window is not empty and no required handle is null (R303),
R302 holds, no transfer in flight meets its windows (R310), and the chunk has room, or is made to (`big`: an oversize chunk of its own). -/
def vectorReady (s : State) (hd : HReg) (uses needed : List HReg) (needs : List Need) (meets reserves : List Tile) (big : Bool) (r : State) : Prop :=
  s.plain ∧ checkHandles (hd :: uses) s = .ok ((), s) ∧ (operandOf s hd).isEmpty = false ∧ (∀ h ∈ needed, s.hreg h ≠ 0)
    ∧ checkNeeds needs s = .ok ((), s) ∧ awaitCopies meets s = .ok ((), s) ∧ reserveWindows reserves s = .ok (big, r)

/-- How it ends after its writes: the union of its flags is raised, its window opens over the destination's bytes, and an oversize chunk ends. -/
def vectorEnd (s : State) (hd : HReg) (la : BitVec 4) (big : Bool) (flags : Flags) (w : State) : State :=
  let d := operandOf s hd
  let u := (w.mapArch (·.raiseFlags flags)).retiredLong 4 la (.window hd d.space (d.footprint s))
  if big ∧ !u.ahead then u.endBig else u

/-- The union of the flags of all elements. -/
def allFlags (g : Grid Flags) : Flags := g.flatten.foldl (· ||| ·) 0

/-- The first row whose condition holds names a handle register and a reason. -/
def firstFails (rows : List (HReg × Nat × Prop)) (h : HReg) (reason : Nat) : Prop :=
  ∃ older p younger, rows = older ++ (h, reason, p) :: younger ∧ p ∧ ∀ x ∈ older, ¬ x.2.2

/-- The rows of R21 for some handles in order. -/
def r21Rows (s : State) (hs : List HReg) : List (HReg × Nat × Prop) :=
  hs.flatMap fun h =>
    let w := s.hreg h
    let f := fun k => handleAt w k
    [(h, 0, w.extractLsb' 248 8 ≠ 0 ∨ w.extractLsb' 176 8 ≠ 0 ∨ w.extractLsb' 56 8 ≠ 0), (h, 1, f 1 = 7), (h, 2, 12 ≤ f 2),
     (h, 3, f 1 ≠ 6 ∧ 0 < f 3 ∧ 0 < f 4 ∧ (f 3 ≤ f 7 ∨ f 4 ≤ f 8 ∨ f 3 < f 7 + f 9 ∨ f 4 < f 8 + f 10))]

/-- BASE or STRIDE is no multiple of the element's bytes (R302, reason 5). -/
def misaligned (t : Tile) : Prop := t.form.bytes ≠ 0 ∧ ¬ (t.base % t.form.bytes = 0 ∧ (t.form.bytes : Int) ∣ t.stride)

/-- The rows of R302 for what a member asks of its handles in order. -/
def r302Rows (needs : List Need) : List (HReg × Nat × Prop) :=
  needs.flatMap fun n =>
    let t := n.tile
    [(t.reg, 9, ¬ (t.space ∈ n.spaces ∧ t.fmt ∈ n.fmts) ∨ (t.space = 6 ∧ t.form.isMx = true)),
     (t.reg, 5, t.space ∈ [0, 1, 2, 5] ∧ misaligned t), (t.reg, 10, n.shape = false),
     (t.reg, 7, n.cover = true ∧ t.form.isMx = true ∧ (t.col0 % 32 ≠ 0 ∨ ((t.col0 + t.ec) % 32 ≠ 0 ∧ t.col0 + t.ec ≠ t.cols)))]

/-- HANDLE at the instruction, naming a register and a reason (02 R21). -/
def handleTrap (s : State) (ins : Instr) (h : HReg) (reason : Nat) : Prop :=
  exec ins s = .next (s.trap ins 15 (BitVec.ofNat 64 (h.val + 16 * reason)) false 0 [])

/-- What a member refuses: the first failure of R21 among its used handles, and then, unless it has nothing to do, of R302. -/
def refusedMember (s : State) (hd : HReg) (uses needed : List HReg) (needs : List Need) (ins : Instr) : Prop :=
  s.plain →
    (∀ h k, firstFails (r21Rows s (hd :: uses)) h k → handleTrap s ins h k)
    ∧ (∀ h k, checkHandles (hd :: uses) s = .ok ((), s) → (operandOf s hd).isEmpty = false → (∀ x ∈ needed, s.hreg x ≠ 0) →
        firstFails (r302Rows needs) h k → handleTrap s ins h k)

/-- None of these flags has its trap enabled (04 R84). -/
def noTrap (w : State) (flags : Flags) : Prop := flags &&& BitVec.ofNat 5 (w.ctx.arch.fcsr.toNat / 256 % 32) = 0

/-- A flag with an enabled trap: the instruction completes and its chunk takes FPX at it with PDONE = 1, once it may commit; CR_TVAL is the lowest row-major
index of an element that raised such a flag (06 R147). -/
def vectorTraps (s : State) (ins : Instr) (flags : Grid Flags) (w : State) : Prop :=
  let hit := fun (f : Flags) => f &&& BitVec.ofNat 5 (w.ctx.arch.fcsr.toNat / 256 % 32) ≠ 0
  ∀ e f, flags.flatten[e]? = some f → hit f → (∀ j g, j < e → flags.flatten[j]? = some g → ¬ hit g) →
    let t := (w.mapArch (·.raiseFlags (allFlags flags))).mapChunk fun c => { c with ins := c.ins + 1 }
    (t.canCommit = true → exec ins s = .next (t.trap ins 7 (BitVec.ofNat 64 e) true 0 []))
    ∧ (t.canCommit = false → exec ins s = .next ((t.mapChunk fun c => { c with full := true, fpx := some (BitVec.ofNat 64 e) }).block { kind := .commit }))

/-- With an empty destination, or a source it needs null, a member whose handles pass R21 does nothing and its window opens over no byte (R303). -/
def idleMember (s : State) (la : BitVec 4) (hd : HReg) (uses needed : List HReg) (ins : Instr) : Prop :=
  let d := operandOf s hd
  s.plain → checkHandles (hd :: uses) s = .ok ((), s) → (d.isEmpty = true ∨ ∃ h ∈ needed, s.hreg h = 0) →
    exec ins s = .next (s.retiredLong 4 la (.window hd d.space (d.footprint s)))

/-- A value member: every source element is read first; element (i, j) of the destination is then f of the operands' values there, delivered in the mode
(R305, R308). With nothing to write or a null source it does nothing; handles that R21 or R302 refuses raise HANDLE, and an enabled flag leads to FPX. -/
def valueMember (s : State) (ins : Instr) (la : BitVec 4) (hd : HReg) (srcs : List HReg) (needs : List Need) (m : RMode)
    (f : List (Grid Val) → Nat → Nat → Val × Flags) : Prop :=
  (∀ (big : Bool) (r u w : State) (gs : List (Grid Val)),
    let d := operandOf s hd
    let ts := srcs.map (operandOf s)
    vectorReady s hd srcs srcs needs (d :: ts) [d] big r → ts.mapM Tile.readValues r = .ok (gs, u) →
    let out := d.deliver m (mkGrid d.er d.ec (f gs))
    d.store out u = .ok ((), w) →
      (noTrap w (allFlags out.flags) → exec ins s = .next (vectorEnd s hd la big (allFlags out.flags) w)) ∧ (w.plain → vectorTraps s ins out.flags w))
  ∧ idleMember s la hd srcs srcs ins ∧ refusedMember s hd srcs srcs needs ins

/-- R304, R305, R312, R313, R315 to R318, R320: each value member of VEC0 and VEC1 delivers its function of the operands' values into every element of
its destination, an empty destination or a null source makes it do nothing (R303), a refused handle raises HANDLE (R302), and an enabled flag leads to FPX.
The model's own choices in it: log 65, 69. -/
def Obligations.VectorValueMembersDeliverTheirFunction : Prop :=
  ∀ (s : State) (hd ha hb hc : HReg) (rm : BitVec 3) (la : BitVec 4) (m : RMode),
    RMode.ofCode (if rm = 7 then s.ctx.arch.fcsr.toNat / 32 % 8 else rm.toNat) = some m →
    let d := operandOf s hd
    let a := operandOf s ha
    let b := operandOf s hb
    let c := operandOf s hc
    let one := fun (ins : Instr) (shape : Bool) (f : Val → Val × Flags) =>
      valueMember s ins la hd [ha] [needDst d fmtAll, needSrc a fmtAll shape] m fun gs i j => f (operand gs 0 i j)
    let two := fun (ins : Instr) (mode : RMode) (dfmts : List Nat) (f : Val → Val → Val × Flags) =>
      valueMember s ins la hd [ha, hb] [needDst d dfmts, needSrc a fmtAll (spreads d a), needSrc b fmtAll (spreads d b)] mode
        fun gs i j => f (operand gs 0 i j) (operand gs 1 i j)
    let quiet := fun (x : Val) => if x.isSignalling then fNV else 0
    two (.vadd hd ha hb rm la) m fmtAll (Val.add m) ∧ two (.vsub hd ha hb rm la) m fmtAll (fun x y => Val.add m x y.negate)
    ∧ two (.vmul hd ha hb rm la) m fmtAll Val.mul ∧ two (.vmin hd ha hb rm la) m fmtAll Val.minimum
    ∧ two (.vmax hd ha hb rm la) m fmtAll Val.maximum ∧ two (.vdiv hd ha hb rm la) m fmtAll Val.div
    ∧ valueMember s (.vfma hd ha hb hc rm la) la hd [ha, hb, hc]
        [needDst d fmtAll, needSrc a fmtAll (spreads d a), needSrc b fmtAll (spreads d b), needSrc c fmtAll (spreads d c)] m
        (fun gs i j => Val.fma m (operand gs 0 i j) (operand gs 1 i j) (operand gs 2 i j))
    ∧ two (.vcmpeq hd ha hb la) .rne fmtPlain (fun x y => (boolVal (cmpVals .eq x y).1, (cmpVals .eq x y).2))
    ∧ two (.vcmplt hd ha hb la) .rne fmtPlain (fun x y => (boolVal (cmpVals .lt x y).1, (cmpVals .lt x y).2))
    ∧ two (.vcmple hd ha hb la) .rne fmtPlain (fun x y => (boolVal (cmpVals .le x y).1, (cmpVals .le x y).2))
    ∧ one (.vabs hd ha rm la) (spreads d a) (fun x => (x.abs, quiet x)) ∧ one (.vneg hd ha rm la) (spreads d a) (fun x => (x.negate, quiet x))
    ∧ one (.vset hd ha rm la) (oneElement a) (fun x => (x, quiet x))
    ∧ valueMember s (.vcvt hd ha rm la) la hd [ha] [needDst d fmtAll, needSrc a fmtAll (sameShape d a)] m (fun gs i j =>
        let x := operand gs 0 i j
        if a.form.isMx then d.form.fromMx (d.row0 + i) (d.col0 + j) x else (x, quiet x))
    ∧ one (.vrcp hd ha rm la) (spreads d a) Val.rcp ∧ one (.vrsq hd ha rm la) (spreads d a) Val.rsqrt
    ∧ one (.vsqrt hd ha rm la) (spreads d a) Val.sqrt ∧ one (.vexp2 hd ha rm la) (spreads d a) Val.exp2
    ∧ one (.vlog2 hd ha rm la) (spreads d a) Val.log2v ∧ one (.vtanh hd ha rm la) (spreads d a) Val.tanh
    ∧ one (.vsigm hd ha rm la) (spreads d a) Val.sigm ∧ one (.vsinpi hd ha rm la) (spreads d a) Val.sinpi
    ∧ one (.vcospi hd ha rm la) (spreads d a) Val.cospi
    ∧ valueMember s (.vscale hd ha hb rm la) la hd [ha, hb]
        [needDst d fmtAll, needSrc a fmtAll (spreads d a), needSrc b (if b.isImm then [7] else fmtInt) (spreads d b)] m
        (fun gs i j => ((operand gs 0 i j).scale (operand gs 1 i j).toInt, quiet (operand gs 0 i j)))
    ∧ valueMember s (.viota hd ha hb rm la) la hd [ha, hb] [needDst d fmtAll, needSrc a fmtAll (oneElement a), needSrc b fmtAll (oneElement b)] m
        (fun gs i j => Val.fma m (.ofInt (i * d.ec + j : Nat)) (operand gs 1 i j) (operand gs 0 i j))

/-- R307, R314 to R316, R325: the raw members write the old patterns, combined bit by bit or moved, and raise no flag; a shift of the width or more
leaves zeros, or copies of the sign. With nothing to write or a null source a member does nothing (R303); a refused handle raises HANDLE (R302).
The model's own choices in it: log 69, 70. -/
def Obligations.VectorRawMembersMovePatterns : Prop :=
  ∀ (s : State) (hd ha hb hc : HReg) (la : BitVec 4) (big : Bool) (r u w : State),
    let d := operandOf s hd
    let a := operandOf s ha
    let b := operandOf s hb
    let c := operandOf s hc
    let ends := fun (ins : Instr) => exec ins s = .next (vectorEnd s hd la big 0 w)
    let two := fun (ins : Instr) (fmts : List Nat) (f : Nat → Nat → Nat → Nat) =>
      let needs := [needDst d fmts, needRaw d a (spreads d a), needRaw d b (spreads d b)]
      refusedMember s hd [ha, hb] [ha, hb] needs ins ∧ ∀ x y, vectorReady s hd [ha, hb] [ha, hb] needs [d, a, b] [d] big r →
      ([a.takenIn d, b.takenIn d].mapM Tile.readAll) r = .ok ([x, y], u) →
      d.writeAll (mkGrid d.er d.ec fun i j => f d.form.bits (gridAt 0 x i j) (gridAt 0 y i j)) u = .ok ((), w) → ends ins
    let move := fun (ins : Instr) (shape : Bool) (f : Grid Nat → Nat → Nat → Nat) =>
      let needs := [needDst d fmtRaw, needRaw d a (a.isImm || shape)]
      refusedMember s hd [ha] [ha] needs ins ∧ ∀ x, vectorReady s hd [ha] [ha] needs [d, a] [d] big r →
      ([a.takenIn d].mapM Tile.readAll) r = .ok ([x], u) → d.writeAll (mkGrid d.er d.ec (f x)) u = .ok ((), w) → ends ins
    two (.vand hd ha hb la) fmtRaw (fun _ x y => x &&& y) ∧ two (.vor hd ha hb la) fmtRaw (fun _ x y => x ||| y)
    ∧ two (.vxor hd ha hb la) fmtRaw (fun _ x y => x ^^^ y)
    ∧ two (.vshl hd ha hb la) fmtInt (fun n x k => if n ≤ k then 0 else x * 2 ^ k % 2 ^ n)
    ∧ two (.vshr hd ha hb la) fmtInt (fun n x k => if n ≤ k then 0 else x / 2 ^ k)
    ∧ two (.vsra hd ha hb la) fmtInt (fun n x k => ((BitVec.ofNat n x).sshiftRight k).toNat)
    ∧ (let needs := [needDst d fmtRaw, needRaw d a (spreads d a), needRaw d b (spreads d b), needSrc c fmtAll (spreads d c)]
       refusedMember s hd [ha, hb, hc] [ha, hb, hc] needs (.vsel hd ha hb hc la) ∧ ∀ x y z u1 u2, vectorReady s hd [ha, hb, hc] [ha, hb, hc] needs [d, a, b, c] [d] big r →
        (a.takenIn d).readAll r = .ok (x, u1) → (b.takenIn d).readAll u1 = .ok (y, u2) → c.readValues u2 = .ok (z, u) →
        d.writeAll (mkGrid d.er d.ec fun i j => match gridAt (.zero false) z i j with | .zero _ => gridAt 0 y i j | _ => gridAt 0 x i j) u = .ok ((), w) →
        ends (.vsel hd ha hb hc la))
    ∧ (let needs := [needDst d fmtAll, { needSrc a [d.fmt] (sameShape d a) with cover := true }]
       refusedMember s hd [ha] [ha] needs (.vcopy hd ha la) ∧ ∀ x scales u1 w1, vectorReady s hd [ha] [ha] needs [d, a] [d] big r →
        a.readAll r = .ok (x, u1) → a.readScales u1 = .ok (scales, u) → d.writeAll (mkGrid d.er d.ec (gridAt 0 x)) u = .ok ((), w1) →
        (if d.form.isMx then forEach scales d.writeScale w1 = .ok ((), w) else w = w1) → ends (.vcopy hd ha la))
    ∧ move (.vtrn hd ha la) (a.er == d.ec && a.ec == d.er) (fun g i j => gridAt 0 g j i)
    ∧ move (.vbcastRow hd ha la) (a.er == 1 && a.ec == d.ec) (fun g _ j => gridAt 0 g 0 j)
    ∧ move (.vbcastCol hd ha la) (a.er == d.er && a.ec == 1) (fun g i _ => gridAt 0 g i 0)
    ∧ (∀ ins ∈ [Instr.vand hd ha hb la, .vor hd ha hb la, .vxor hd ha hb la, .vshl hd ha hb la, .vshr hd ha hb la, .vsra hd ha hb la],
        idleMember s la hd [ha, hb] [ha, hb] ins)
    ∧ idleMember s la hd [ha, hb, hc] [ha, hb, hc] (.vsel hd ha hb hc la)
    ∧ (∀ ins ∈ [Instr.vcopy hd ha la, .vtrn hd ha la, .vbcastRow hd ha la, .vbcastCol hd ha la], idleMember s la hd [ha] [ha] ins)

/-- R319, R322 to R324, R326, R437: the other members of VEC1 and VEC2. VQSPLIT parts a window's outlier columns from its residue; a reduction
delivers the tree of each line, and a scan its prefixes; gather and scatter go by an index, an index out of range giving the zero pattern or nothing; VPACK and
VUNPACK stride along a row. With nothing to write or a null source a member does nothing (R303), but for a null hc, of which its own rule tells; a refused handle,
or a stride out of range, raises HANDLE (R302, R326), and an enabled flag leads to FPX.
The model's own choices in it: log 69, 71, 72, 73, 74. -/
def Obligations.TreesGathersAndPacksDeliverTheirResult : Prop :=
  ∀ (s : State) (hd ha hb hc : HReg) (rm : BitVec 3) (q : BitVec 2) (excl : Bool) (la : BitVec 4) (m : RMode) (big : Bool) (r u w : State),
    let d := operandOf s hd
    let a := operandOf s ha
    let b := operandOf s hb
    let c := operandOf s hc
    let ends := fun (ins : Instr) (la : BitVec 4) (f : Grid Flags) =>
      (noTrap w (allFlags f) → exec ins s = .next (vectorEnd s hd la big (allFlags f) w)) ∧ (w.plain → vectorTraps s ins f w)
    let tree := treeMode q
    let z := Val.zero false
    let reduce := fun (ins : Instr) (byRow : Bool) (mode : RMode) (op : Nat → Nat → Nat × Flags) =>
      let needs := [needDst d [0], needSrc a fmtTree (if byRow then d.ec == 1 && (a.isImm || d.er == a.er) else d.er == 1 && (a.isImm || d.ec == a.ec))]
      refusedMember s hd [ha] [ha] needs ins ∧ ∀ g, vectorReady s hd [ha] [ha] needs [d, a] [d] big r →
      a.readValues r = .ok (g, u) →
      let lines := (if byRow then mkGrid d.er a.ec (gridAt z g) else mkGrid d.ec a.er fun j i => gridAt z g i j).map (reduceLine op)
      let out := d.deliver mode (if byRow then lines.map (fun x => [x]) else [lines])
      d.store out u = .ok ((), w) → ends ins la out.flags
    let scans := fun (ins : Instr) (byRow : Bool) (mode : RMode) (op : Nat → Nat → Nat × Flags) (id : Nat) =>
      let needs := [needDst d [0], needSrc a fmtTree (sameShape d a)]
      refusedMember s hd [ha] [ha] needs ins ∧ ∀ g, vectorReady s hd [ha] [ha] needs [d, a] [d] big r → a.readValues r = .ok (g, u) →
      let lines := (linesOf byRow d.er d.ec fun i j => leafFp32 (gridAt z g i j)).map (scanLine op id excl)
      let out := d.deliver mode ((unline (0, 0) byRow d.er d.ec lines).map fun x => x.map fun y => ((rootFp32 y.1).1, y.2 ||| (rootFp32 y.1).2))
      d.store out u = .ok ((), w) → ends ins la out.flags
    let affine := fun (ins : Instr) (byRow : Bool) =>
      let needs := [needDst d [0], needSrc a fmtTree (sameShape d a), needSrc b fmtTree (sameShape d b)]
        ++ (if c.null then [] else [{ needDst c [0] with shape := c.er == d.er && c.ec == d.ec }])
      refusedMember s hd [ha, hb, hc] [ha, hb] needs ins ∧ ∀ ga gb u1 w1, vectorReady s hd [ha, hb, hc] [ha, hb] needs ([d, a, b] ++ if c.null then [] else [c])
        (d :: if c.null then [] else [c]) big r →
      a.readValues r = .ok (ga, u1) → b.readValues u1 = .ok (gb, u) →
      let leaf := fun i j => let x := leafFp32 (gridAt z ga i j); let y := leafFp32 (gridAt z gb i j); ((x.1, y.1), x.2 ||| y.2)
      let g := unline ((0, 0), 0) byRow d.er d.ec ((linesOf byRow d.er d.ec leaf).map (scanLine (affFp32 tree) (one32, 0) excl))
      let outB := d.deliver tree (g.map fun x => x.map fun y => ((rootFp32 y.1.2).1, y.2 ||| (rootFp32 y.1.2).2))
      let outA := c.deliver tree (g.map fun x => x.map fun y => rootFp32 y.1.1)
      d.store outB u = .ok ((), w1) → (if c.null then w = w1 else c.store outA w1 = .ok ((), w)) →
      ends ins 0 (if c.null then outB.flags else joinFlags outB.flags outA.flags)
    reduce (.vredRowAdd hd ha q la) true tree (addFp32 tree) ∧ reduce (.vredRowMax hd ha la) true .rne maxFp32
    ∧ reduce (.vredRowMin hd ha la) true .rne minFp32 ∧ reduce (.vredColAdd hd ha q la) false tree (addFp32 tree)
    ∧ reduce (.vredColMax hd ha la) false .rne maxFp32 ∧ reduce (.vredColMin hd ha la) false .rne minFp32
    ∧ scans (.vscanRowAdd hd ha q excl la) true tree (addFp32 tree) 0 ∧ scans (.vscanColAdd hd ha q excl la) false tree (addFp32 tree) 0
    ∧ scans (.vscanRowMax hd ha excl la) true .rne maxFp32 0xFF800000
    ∧ affine (.vscanRowAff hd ha hb hc q excl) true ∧ affine (.vscanColAff hd ha hb hc q excl) false
    ∧ (∀ g t u1 w1, RMode.ofCode (if rm = 7 then s.ctx.arch.fcsr.toNat / 32 % 8 else rm.toNat) = some m →
        vectorReady s hd [ha, hb, hc] [ha, hb] [needDst d [2, 3, 4, 8, 9, 10], needSrc a fmtPlain (sameShape d a),
          { tile := b, spaces := [spImm], fmts := [0], shape := true, cover := false }, { needDst c [1] with shape := c.er == d.er && c.ec == d.ec }]
          [d, a, c] [d, c] big r →
        a.readValues r = .ok (g, u1) → b.read 0 0 u1 = .ok (t, u) →
        let thr := b.form.value t
        let isOut := fun j => decide (j < d.ec) && outlier thr ((List.range d.er).map fun i => gridAt z g i j)
        let rest := d.deliver m (mkGrid d.er d.ec fun i j =>
          (if isOut j then z else gridAt z g i j, if i = 0 ∧ j = 0 ∧ thr.isSignalling = true then fNV else 0))
        let outs := c.deliver m (mkGrid d.er d.ec fun i j =>
          if isOut j then (gridAt z g i j, if (gridAt z g i j).isSignalling then fNV else 0) else (z, 0))
        d.store rest u = .ok ((), w1) → c.store outs w1 = .ok ((), w) →
        ends (.vqsplit hd ha hb hc rm) 0 (joinFlags rest.flags outs.flags))
    ∧ (∀ cells idx u1, vectorReady s hd [ha, hb] [ha, hb] [needDst d fmtRaw, needRaw d a true, needIndex b (sameShape d b)] [d, a, b] [d] big r →
        let ta := a.takenIn d
        let n := ta.er * ta.ec
        forGrid b.er b.ec (fun i j => attempt (b.read i j)) r = .ok (idx, u1) → (∀ e ∈ idx.flatten, ∃ v, e = .ok v) →
        let good := idx.flatten.filterMap fun e => match e with | .ok v => indexOf b v n | .error _ => none
        ((good.foldl (fun l v => insertRising v l) []).mapM fun v => do return (v, ← ta.read (v / ta.ec) (v % ta.ec))) u1 = .ok (cells, u) →
        d.writeAll (mkGrid d.er d.ec fun i j => match gridAt (.ok 0) idx i j with
          | .ok v => (match indexOf b v n with | some k => getT d.form.zeroBits cells k | none => d.form.zeroBits) | .error _ => d.form.zeroBits) u = .ok ((), w) →
        ends (.vgather hd ha hb la) la [])
    ∧ (∀ x idx u1, vectorReady s hd [ha, hb] [ha, hb] [needDst d fmtRaw, needRaw d a true, needIndex b (a.isImm || sameShape a b)] [d, a, b] [d] big r →
        (a.takenIn d).readAll r = .ok (x, u1) → b.readAll u1 = .ok (idx, u) →
        let e := if a.isImm then (b.er, b.ec) else (a.er, a.ec)
        let last := (mkGrid e.1 e.2 fun i j => (gridAt 0 x i j, indexOf b (gridAt 0 idx i j) (d.er * d.ec))).flatten.foldl
          (fun (t : Table (Option Nat)) (p : Nat × Option Nat) => match p.2 with | some k => setT none t k (some p.1) | none => t) []
        (last.forM (fun (k, v) => match v with | some v => d.write (k / d.ec) (k % d.ec) v | none => pure ()) : M Unit) u = .ok ((), w) →
        ends (.vscatter hd ha hb la) la [])
    ∧ (∀ x, let k := b.base % 2 ^ 16; let o := b.base / 2 ^ 16 % 2 ^ 16
        vectorReady s hd [ha, hb] [ha, hb] [needDst d fmtRaw, needRaw d a (a.isImm || a.er == d.er),
          { tile := b, spaces := [spImm], fmts := [7], shape := true, cover := false }] [d, a] [d] big r →
        (k ≠ 0 → o + (a.ec - 1) * k < d.ec → (a.takenIn d).readAll r = .ok (x, u) →
          forEach (mkGrid d.er a.ec (gridAt 0 x)) (fun i j v => d.write i (o + j * k) v) u = .ok ((), w) → ends (.vpack hd ha hb la) la [])
        ∧ (k ≠ 0 → (a.isImm = true ∨ o + (d.ec - 1) * k < a.ec) →
          forGrid d.er d.ec (fun i j => (a.takenIn d).read i (o + j * k)) r = .ok (x, u) → d.writeAll x u = .ok ((), w) → ends (.vunpack hd ha hb la) la []))
    ∧ (let stride := { tile := b, spaces := [spImm], fmts := [7], shape := true, cover := false : Need }
       let packs := [needDst d fmtRaw, needRaw d a (a.isImm || a.er == d.er), stride]
       let k := b.base % 2 ^ 16
       let o := b.base / 2 ^ 16 % 2 ^ 16
       refusedMember s hd [ha, hb] [ha, hb] [needDst d fmtRaw, needRaw d a true, needIndex b (sameShape d b)] (.vgather hd ha hb la)
       ∧ refusedMember s hd [ha, hb] [ha, hb] [needDst d fmtRaw, needRaw d a true, needIndex b (a.isImm || sameShape a b)] (.vscatter hd ha hb la)
       ∧ refusedMember s hd [ha, hb] [ha, hb] packs (.vpack hd ha hb la) ∧ refusedMember s hd [ha, hb] [ha, hb] packs (.vunpack hd ha hb la)
       ∧ (s.plain → checkHandles [hd, ha, hb] s = .ok ((), s) → d.isEmpty = false → s.hreg ha ≠ 0 → s.hreg hb ≠ 0 → checkNeeds packs s = .ok ((), s) →
           (k = 0 ∨ d.ec ≤ o + (a.ec - 1) * k → handleTrap s (.vpack hd ha hb la) hb 11)
           ∧ (k = 0 ∨ (a.isImm = false ∧ a.ec ≤ o + (d.ec - 1) * k) → handleTrap s (.vunpack hd ha hb la) hb 11)))
    ∧ (RMode.ofCode (modeCode s rm) = some m → refusedMember s hd [ha, hb, hc] [ha, hb] [needDst d [2, 3, 4, 8, 9, 10], needSrc a fmtPlain (sameShape d a),
        { tile := b, spaces := [spImm], fmts := [0], shape := true, cover := false }, { needDst c [1] with shape := c.er == d.er && c.ec == d.ec }]
        (.vqsplit hd ha hb hc rm))
    ∧ (∀ ins ∈ [Instr.vredRowAdd hd ha q la, .vredRowMax hd ha la, .vredRowMin hd ha la, .vredColAdd hd ha q la, .vredColMax hd ha la,
          .vredColMin hd ha la, .vscanRowAdd hd ha q excl la, .vscanColAdd hd ha q excl la, .vscanRowMax hd ha excl la], idleMember s la hd [ha] [ha] ins)
    ∧ (∀ ins ∈ [Instr.vgather hd ha hb la, .vscatter hd ha hb la, .vpack hd ha hb la, .vunpack hd ha hb la], idleMember s la hd [ha, hb] [ha, hb] ins)
    ∧ (∀ ins ∈ [Instr.vscanRowAff hd ha hb hc q excl, .vscanColAff hd ha hb hc q excl], idleMember s 0 hd [ha, hb, hc] [ha, hb] ins)
    ∧ (RMode.ofCode (if rm = 7 then s.ctx.arch.fcsr.toNat / 32 % 8 else rm.toNat) = some m → idleMember s 0 hd [ha, hb, hc] [ha, hb] (.vqsplit hd ha hb hc rm))

/-! ### The matrix unit (17) -/

/-- A matrix instruction is accepted: its chunk may commit, no condition holds the matrix path, and fewer than two commands of its core wait (R328). -/
def entersUnit (s : State) : Prop :=
  s.plain ∧ s.canCommit = true ∧ s.commitCur.held (·.matrix) = false
    ∧ (s.commitCur.cluster (clusterOf s.commitCur.coreId)).queued s.commitCur.coreId false < 2

/-- A unit that has accepted one command more from the executing core, at the end of its queue, under the core's format context; `operands` tells its operands. -/
def acceptedAs (c t : State) (op : MatOp) (hd ha : HWord) (operands : MatCmd → Prop) : Prop :=
  let u := clusterOf c.coreId
  ∃ q : MatCmd, (t.cluster u).queue = (c.cluster u).queue ++ [q] ∧ q.op = op ∧ q.core = c.coreId ∧ q.slot = c.cur.2 ∧ q.remote = false ∧ q.hd = hd
    ∧ q.ha = ha ∧ q.aFmt = c.matReq.fc.aFmt ∧ q.bFmt = c.matReq.fc.bFmt ∧ q.mode = c.matReq.fc.mode ∧ operands q ∧ t.fresh = c.fresh + 1 ∧ t.mem = c.mem
    ∧ t.ctx = c.ctx

/-- The window is the whole of a tile of rows × 128 (R332, R333). -/
def wholeOf (t : Tile) (rows : Nat) : Prop := t.rows = rows ∧ t.cols = 128 ∧ t.row0 = 0 ∧ t.col0 = 0 ∧ t.er = rows ∧ t.ec = 128

/-- M of a slot: a multiple of 32 from 32 to 1,024 (R333). -/
def validM (m : Nat) : Prop := m % 32 = 0 ∧ 32 ≤ m ∧ m ≤ 1024

/-- The rows of R339 on an accumulation slot; `anew` is MZERO's, and `bad` and `full` are the command's own conditions of reasons 13 and 12. -/
def slotRefusals (a : AccSlot) (core : Nat) (h : HReg) (t : Tile) (anew : Bool) (bad full : Prop) : List (HReg × Nat × Prop) :=
  [(h, 9, ¬ (t.space = 4 ∧ t.fmt = 0)), (h, 4, 4 ≤ t.base),
   (h, 10, ¬ (validM t.rows ∧ wholeOf t t.rows) ∨ (anew = false ∧ a.state ≠ .free ∧ t.rows ≠ a.m)),
   (h, 13, (a.state ≠ .free ∧ a.holder ≠ core) ∨ bad), (h, 12, full)]

/-- The rows of R339 on a B slot. -/
def bRefusals (bsmib : Nat) (h : HReg) (t : Tile) (other bad : Prop) : List (HReg × Nat × Prop) :=
  [(h, 9, t.space ≠ 3 ∨ other), (h, 4, t.base % 512 ≠ 0 ∨ 2 ^ 17 ≤ t.base ∨ (bsmib ≠ 0 ∧ 16 * bsmib ≤ t.base / 512)), (h, 10, ¬ wholeOf t 128), (h, 14, bad)]

/-- The rows of R339 on an A operand under M and the context's A format. -/
def aRefusals (h : HReg) (t : Tile) (m fmt : Nat) : List (HReg × Nat × Prop) :=
  [(h, 9, ¬ (t.space ≤ 1 ∧ t.fmt ∈ [1, 2, 3, 4, 8, 9, 10])), (h, 5, t.base % 64 ≠ 0),
   (h, 10, t.cols ≠ 128 ∨ ¬ validM t.rows ∨ t.row0 ≠ 0 ∨ t.col0 ≠ 0 ∨ t.er ≠ t.rows), (h, 13, t.er ≠ m), (h, 14, t.fmt ≠ fmt)]

/-- The rows of R339 on C or a drain destination. -/
def cRefusals (h : HReg) (t : Tile) (fmts : List Nat) (m : Nat) (drain noLast : Prop) : List (HReg × Nat × Prop) :=
  [(h, 9, ¬ (t.space ≤ 1 ∧ t.fmt ∈ fmts)), (h, 5, misaligned t), (h, 10, t.er ≠ m ∨ t.ec ≠ 128),
   (h, 7, drain ∧ t.form.isMx = true ∧ (t.col0 % 32 ≠ 0 ∨ ((t.col0 + t.ec) % 32 ≠ 0 ∧ t.col0 + t.ec ≠ t.cols))), (h, 11, noLast)]

/-- R328, R338 to R346: the MAT instructions, CAPMINT and MREM. MCTX writes the core's format context; it takes an
entry of a queue that holds commands; MZERO, MBLD, MMUL and MDRAIN, their checks passed, put their command, with its operands and its FIRST, LAST or RELEASE,
at the end of the unit's queue and note their slot's state; MWAIT, once the core has no command queued, folds the core's
matrix flags into CR_FCSR, an enabled one taking FPX; CAPMINT signs its fields with the key of the die they name, at supervisor level; MREM waits for its remote unit.
With an empty destination the handle checks alone are made, and the instruction does nothing (R22).

R339: what a MAT instruction refuses at acceptance: the first failure of R21 among its handles, and then, unless its destination is empty, of the rows of
R339; HANDLE names the register and the reason, and nothing is queued.
The model's own choices in it: log 78, 81, 196. -/
def Obligations.MatrixInstructionsAreAcceptedOrRefused : Prop :=
  (∀ (s : State) (hd ha hb hc : HReg) (rd rs1 : Reg) (rm kind : BitVec 3) (last first rel : Bool) (la : BitVec 4), entersUnit s →
     let c := s.commitCur
     let u := clusterOf c.coreId
     let done := fun (ins : Instr) (t : State) => exec ins s = .next ((t.retiredLong 4 la (s.matDest hd)).rebase)
     let slot := fun (t : State) (h : HReg) => (t.cluster u).slotOf (operandOf c h)
     let code := modeCode s rm
     let format : FormatContext := { aFmt := (operandOf c ha).fmt, bFmt := (operandOf c hb).fmt, mode := code }
     let written := c.mapCluster u fun k => { k with contexts := k.contexts.setIfInBounds (c.coreId % 8) format }
     let nothing := fun (ins : Instr) (rs : List HReg) => checkHandles rs c = .ok ((), c) → (operandOf c hd).isEmpty = true → done ins c
     (code ≠ 7 → checkHandles [ha, hb] c = .ok ((), c) → c.plain → pairAccepted (operandOf c ha).fmt (operandOf c hb).fmt = true →
       ((c.cluster u).queue = [] → exec (.mctx ha hb rm) s = .next ((written.retired 4).rebase))
       ∧ ((c.cluster u).queue ≠ [] → ∃ q : MatCmd, q.op = .mctx ∧ q.core = c.coreId ∧ q.remote = false
           ∧ exec (.mctx ha hb rm) s = .next ((({ (written.mapCluster u fun k => { k with queue := k.queue ++ [q] }) with fresh := c.fresh + 1 } : State).retired
               4).rebase)))
     ∧ nothing (.mzero hd la) [hd] ∧ nothing (.mbld hd ha la) [hd, ha] ∧ nothing (.mmul hd ha hb hc last first la) [hd, ha, hb, hc]
     ∧ nothing (.mdrain hd ha rel la) [hd, ha]
     ∧ (∀ n t, acceptZero c.matReq hd c = .ok (some n, t) → done (.mzero hd la) t ∧ acceptedAs c t .mzero (c.hreg hd) (c.hreg hd) (fun _ => True)
         ∧ (slot t hd = { state := .empty, holder := c.coreId, m := (operandOf c hd).rows, k := 0 }))
     ∧ (∀ n t, acceptLoad c.matReq hd ha c = .ok (some n, t) → done (.mbld hd ha la) t ∧ acceptedAs c t .mbld (c.hreg hd) (c.hreg ha) (fun _ => True)
         ∧ (t.cluster u).bslots = setT 0 (c.cluster u).bslots ((operandOf c hd).base / 512) (operandOf c ha).fmt)
     ∧ (∀ n t, acceptMul c.matReq hd ha hb hc first last true c = .ok (some n, t) → done (.mmul hd ha hb hc last first la) t
         ∧ acceptedAs c t .mmul (c.hreg hd) (c.hreg ha) (fun q => q.hb = c.hreg hb ∧ q.hc = c.hreg hc ∧ q.first = first ∧ q.last = last)
         ∧ ((slot t hd).state = (if last then .ready else .accumulating)
             ∧ (slot t hd).k = if first then 1 else (slot c hd).k + 1))
     ∧ (∀ n t, c.keysRise → acceptDrain c.matReq hd ha rel c = .ok (some n, t) → done (.mdrain hd ha rel la) t
         ∧ acceptedAs c t .mdrain (c.hreg hd) (c.hreg ha) (fun q => q.release = rel)
         ∧ (rel = true → (slot t ha).state = .free) ∧ (rel = false → slot t ha = slot c ha))
     ∧ ((c.cluster u).localQueue c.coreId = [] →
         let t := (c.mapCore c.coreId fun k => { k with matFlags := 0 }).mapArch (·.raiseFlags c.myCore.matFlags)
         let hit := c.myCore.matFlags &&& BitVec.ofNat 5 (c.ctx.arch.fcsr.toNat / 256 % 32)
         (hit = 0 → exec .mwait s = .next ((t.retired 4).rebase))
         ∧ (hit ≠ 0 → exec .mwait s = .next ((t.mapChunk fun k => { k with ins := k.ins + 1 }).takeTrap .mwait 7 0 true 0 [])))
     ∧ (s.isUser = false → exec (.capmint rd rs1) s =
         .next ((c.setReg rd (capTag (c.die ((s.x rs1).toNat / 2 ^ 37 % 4)).capKey (s.x rs1))).retired 4))
     ∧ (s.isUser = true → exec (.capmint rd rs1) s = .next (s.trap (.capmint rd rs1) 16 s.ir false 0 []))
     ∧ (kind ≠ 7 → (operandOf c hd).isEmpty = true → checkHandles (remoteHandles hd ha hb kind.toNat) c = .ok ((), c) →
         exec (.mrem hd ha hb hc kind) s = .next ((c.retired 4).rebase))
     ∧ (kind ≠ 7 → (operandOf c hd).isEmpty = false → exec (.mrem hd ha hb hc kind) s = .next { c with ctx := { c.ctx with life := .waiting, wait := { kind := .remoteCommand, ins := some (.mrem hd ha hb hc kind) } } }))
  ∧ (∀ (s : State) (hd ha hb hc : HReg) (rm : BitVec 3) (last first rel : Bool) (la : BitVec 4), entersUnit s →
       let c := s.commitCur
       let r := c.matReq
       let t := operandOf c
       let k := c.cluster (clusterOf c.coreId)
       let m := fun (x : Tile) => if (k.slotOf x).state = .free then x.rows else (k.slotOf x).m
       let refuses := fun (ins : Instr) (named : List HReg) (rows : List (HReg × Nat × Prop)) =>
         (∀ h n, firstFails (r21Rows c named) h n → handleTrap s ins h n)
         ∧ (checkHandles named c = .ok ((), c) → (t hd).isEmpty = false → ∀ h n, firstFails rows h n → handleTrap s ins h n)
       refuses (.mzero hd la) [hd] (slotRefusals (k.slotOf (t hd)) c.coreId hd (t hd) true False False)
       ∧ refuses (.mbld hd ha la) [hd, ha] (bRefusals r.bsmib hd (t hd) ((t hd).fmt ≠ (t ha).fmt) False
           ++ [(ha, 9, ¬ ((t ha).space ≤ 1 ∧ (t ha).fmt ∈ [1, 2, 3, 4, 8, 9, 10])), (ha, 5, (t ha).base % 64 ≠ 0), (ha, 10, ¬ wholeOf (t ha) 128)])
       ∧ refuses (.mmul hd ha hb hc last first la) [hd, ha, hb, hc]
           (let a := k.slotOf (t hd)
            slotRefusals a c.coreId hd (t hd) false (if first then a.state = .free else a.state ≠ .accumulating)
              (first = false ∧ last = false ∧ a.k + 1 = 2 ^ min 16 (2048 / a.m))
            ++ aRefusals ha (t ha) (m (t hd)) r.fc.aFmt ++ bRefusals r.bsmib hb (t hb) False (getT 0 k.bslots ((t hb).base / 512) ≠ r.fc.bFmt)
            ++ if c.hreg hc = 0 then [] else cRefusals hc (t hc) [0, 1] (m (t hd)) False (last = false))
       ∧ refuses (.mdrain hd ha rel la) [hd, ha] (cRefusals hd (t hd) [0, 1, 2, 3, 4, 8, 9, 10] (m (t ha)) True False
           ++ slotRefusals (k.slotOf (t ha)) c.coreId ha (t ha) false ((k.slotOf (t ha)).state ≠ .ready) False)
       ∧ (modeCode s rm ≠ 7 → (∀ h n, firstFails (r21Rows c [ha, hb]) h n → handleTrap s (.mctx ha hb rm) h n)
           ∧ (checkHandles [ha, hb] c = .ok ((), c) → pairAccepted (t ha).fmt (t hb).fmt = false → handleTrap s (.mctx ha hb rm) hb 9))
       ∧ (modeCode s rm = 7 → exec (.mctx ha hb rm) s = .next (s.trap (.mctx ha hb rm) 1 s.ir false 0 [])))

/-- Push of R97 on the levels of a stack, lowest first: the levels after it, what is left over above a full stack, and the flags of its sums. -/
def pushBlock : List (Option Nat) → Nat → List (Option Nat) × Option Nat × Flags
  | [], c => ([], some c, 0)
  | none :: rest, c => (some c :: rest, none, 0)
  | some x :: rest, c =>
    let y := addFp32 .rne x c
    let p := pushBlock rest y.1
    (none :: p.1, p.2.1, y.2 ||| p.2.2)

/-- Finish of R97: the levels fold in ascending order into what was left over. -/
def foldStack : List (Option Nat) → Option Nat → Option Nat
  | [], acc => acc
  | none :: rest, acc => foldStack rest acc
  | some x :: rest, none => foldStack rest (some x)
  | some x :: rest, some a => foldStack rest (some (addFp32 .rne a x).1)

/-- The FP32 word at a level of element (i, n) of an accumulation slot. -/
def levelWord (s : State) (unit slot m l i n : Nat) : Nat := s.natAt (levelLoc unit slot m l i + 4 * n) 4

/-- The tree stack of element (i, n) after k blocks: level l is occupied where bit l of k is set (R97). -/
def stackOf (s : State) (unit slot m depth k i n : Nat) : List (Option Nat) :=
  (List.range depth).map fun l => if k / 2 ^ l % 2 = 1 then some (levelWord s unit slot m l i n) else none

/-- R331, R332, R336, R341, R342, R97, R98: what the commands do to memory. MBLD makes source row n column n of its slot. MMUL pushes each element's block
sum, the tree of the products of its row and column, on the element's stack; with LAST the fold, and C once at the root, follow. MDRAIN rounds the roots into its
destination, here in a format of whole bytes whose rows do not overlap. Nothing outside the slot changes for the first two. -/
def Obligations.MatrixCommandsComputeTheirResult : Prop :=
  ∀ (s : State) (unit : Nat) (q : MatCmd), Memory.wf s.mem = true → unit < 64 →
    let r := q.req unit
    let d := Tile.of 0 q.hd
    let a := Tile.of 0 q.ha
    let b := Tile.of 0 q.hb
    let c := Tile.of 0 q.hc
    (a.er = 128 → a.ec = 128 → a.fmt ∈ [1, 2, 3, 4, 8, 9, 10] → d.base % 512 = 0 → d.base < 2 ^ 17 →
      let t := s.runLoad unit q
      (∀ n, n < 128 → t.columnOf unit d.base a.fmt n = s.operandRow r a n)
      ∧ ∀ loc, (loc < bstoreLoc unit 0 ∨ bstoreLoc unit (2 ^ 24) ≤ loc) → t.byteAt loc = s.byteAt loc)
    ∧ (validM d.rows → d.base < 4 →
      let m := d.rows
      let depth := min 16 (2048 / m)
      let k := if q.first then 0 else ((s.cluster unit).done[d.base]?).getD 0
      let t := (s.runMul unit q).1
      k < 2 ^ depth → (q.last = false → k + 1 < 2 ^ depth) →
      (∀ i n, i < m → n < 128 →
        let leaves := (s.operandRow r a i).zipWith (matProduct q.aFmt q.bFmt) (s.columnOf unit b.base q.bFmt n)
        let sum := ((treeReduce (addFp32 .rne) (leaves.map (·.1))).1).getD 0
        let p := pushBlock (stackOf s unit d.base m depth k i n) sum
        (q.last = false → stackOf t unit d.base m depth (k + 1) i n = p.1)
        ∧ (q.last = true → levelWord t unit d.base m 0 i n % 2 ^ 32 =
            (let z := (foldStack p.1 p.2.1).getD 0
             if q.hc = 0 then z else (addFp32 .rne (s.cWord r c i n) z).1) % 2 ^ 32))
      ∧ ∀ loc, (loc < accLoc unit (d.base * 2 ^ 20) ∨ accLoc unit (d.base * 2 ^ 20 + 2 ^ 20) ≤ loc) → t.byteAt loc = s.byteAt loc)
    ∧ (d.form.isMx = false → d.form.bytes ≠ 0 → ((128 * d.form.bytes : Nat) : Int) ≤ d.stride → d.ec = 128 →
      let out := d.deliver ((RMode.ofCode q.mode).getD .rne) (mkGrid d.er 128 fun i n => (specFp32.value (levelWord s unit (a.base % 4) a.rows 0 i n), 0))
      let t := (s.runDrain unit q).1
      (∀ i n, i < d.er → n < 128 → t.natAt (r.loc d.space (d.elemAddr i n).1.toNat) d.form.bytes = gridAt 0 out.bits i n % 256 ^ d.form.bytes)
      ∧ (s.runDrain unit q).2 = allFlags out.flags)

/-- R329, R337, R343, R346: the oldest command of a unit, past the MCTXs, executes with its whole effect and leaves the queue; the flags of a local one are kept for its
core's MWAIT, and a remote one's complete its MREM, whose context goes on at the next instruction, or takes FPX at it. REMOTE_MATRIX_COMMAND has the target unit take a
waiting MREM's request, the only one here; a refused capability is CAP at the MREM.
The model's own choices in it: log 11, 79, 80, 82. -/
def Obligations.MatrixCommandsExecuteInOrder : Prop :=
  ∀ (s : State) (unit core slot : Nat) (q : MatCmd) (rest : List MatCmd) (hd ha hb hc : HReg) (kind : BitVec 3),
    let s1 := s.mapCluster unit fun u => { u with queue := settleQueue rest }
    let ran := s1.runMat unit q
    let runs := fun (op : MatOp) => match op with
      | .mzero => exec (.mzeroExecute unit q.core) s | .mbld => exec (.mbldExecute unit q.core) s
      | .mmul => exec (.mmulExecute unit q.core) s | .mdrain => exec (.mdrainExecute unit q.core) s | .mctx => .next s
    let whole := fun (op : MatOp) => settleQueue (s.cluster unit).queue = q :: rest → q.op = op →
      (q.remote = false → runs op = .next ((((ran.1.mapCore q.core fun c => { c with matFlags := c.matFlags ||| ran.2 }).afterMat unit).wakeRetries).endKernels))
      ∧ (q.remote = true → runs op = .next ((((((ran.1.mapCluster unit fun u => { u with remoteDone := u.remoteDone ++ [(q.id, ran.2)] }).remoteReturn
          q.core q.slot)).afterMat unit).wakeRetries).endKernels))
    whole .mzero ∧ whole .mbld ∧ whole .mmul ∧ whole .mdrain
    ∧ (q.op = .mzero → ran = (s1.mapCluster unit fun u => { u with done := u.done.setIfInBounds ((Tile.of 0 q.hd).base % 4) 0 }, 0))
    ∧ (q.op = .mbld → ran = (s1.runLoad unit q, 0)) ∧ (q.op = .mmul → ran = s1.runMul unit q) ∧ (q.op = .mdrain → ran = s1.runDrain unit q)
    ∧ (s.cur = (core, slot) → s.ctxs = [] → s.ctx.life = .waiting → s.ctx.wait.kind = .remoteCommand → s.ctx.wait.a = 0 →
        s.ctx.wait.ins = some (.mrem hd ha hb hc kind) → (s.hreg hc).toNat / 2 ^ 33 % 64 = unit → (s.cluster unit).queued core true < 2 →
        (∀ n t, remoteAccept unit hd ha hb hc kind.toNat s = .ok (n, t) → t.cur = s.cur → t.ctxs = [] → t.ctx.wait = s.ctx.wait → t.ctx.life = s.ctx.life →
          exec (.remoteMatrixCommand unit core) s = .next ({ t with ctx := { t.ctx with wait := { t.ctx.wait with a := n.getD 0 + 1 } } }).endKernels)
        ∧ (∀ cause v k, remoteAccept unit hd ha hb hc kind.toNat s = .error (.trap cause v k) →
          let t := ({ s with ctx := { s.ctx with life := .ready, wait := {} } } : State).takeTrap (.mrem hd ha hb hc kind) cause v false 0 []
          t.cur = s.cur → t.matContenders unit = [] → exec (.remoteMatrixCommand unit core) s = .next t.endKernels))
    ∧ (∀ (f : Flags) (u id : Nat) (ins : Instr), s.cur = (core, slot) → s.ctx.life = .waiting → s.ctx.wait.kind = .remoteCommand → s.ctx.wait.ins = some ins →
        s.clusters.findSome? (fun p => (p.2.remoteDone.find? fun x => x.1 + 1 == s.ctx.wait.a).map fun x => (p.1, x)) = some (u, (id, f)) →
        let t := s.remoteReturn core slot
        (noTrap s f → s.ctx.rollbackNotice = none → s.chunkGoesOn → s.ctx.arch.inRep = false → s.ctx.cloak.state ≠ .bound →
          t.ctx.life = .ready ∧ t.ctx.arch.pc = s.ctx.arch.pc + 4 ∧ t.ctx.arch.fcsr = s.ctx.arch.fcsr ||| f.setWidth 64 ∧ t.ctx.arch.regs = s.ctx.arch.regs)
        ∧ (¬ noTrap s f →
          let w := s.mapCluster u fun k => { k with remoteDone := k.remoteDone.erase (id, f) }
          let x := ({ w with ctx := { w.ctx with life := .ready, wait := {} } } : State).mapArch (·.raiseFlags f)
          let v := (x.mapChunk fun k => { k with ins := k.ins + 1 }).takeTrap ins 7 0 true 0 []
          v.cur = s.cur → t = v))

/-! ### Collectives (14) -/

/-- The rows of R279 for a collective, and then the alignment of R441 (reason 5 of R302). -/
def groupRefusals (c : State) (g : GroupIns) (n : Nat) : List (HReg × Nat × Prop) :=
  let t := operandOf c
  let d := t g.hd
  let full := g.reads c.ctx.arch c.ctx.rank
  let each := fun (l : List HReg) (k : Nat) (p : Tile → Prop) => l.map fun h => (h, k, p (t h))
  each [g.hd] 9 (fun x => x.space ∉ [0, 1, 2, 5]) ++ each g.srcs 9 (fun x => x.space ∉ [0, 1, 2, 5, 6])
  ++ (if g.op < 5 then each (g.hd :: full) 9 (fun x => x.fmt ≠ 0)
      else each full 9 (fun x => x.fmt ≠ d.fmt) ++ each (g.srcs.drop 1) 9 (fun x => ¬ (x.space = 6 ∧ x.fmt = 7)))
  ++ each full 10 (fun x => x.space ≠ 6 ∧ ¬ (x.er = d.er ∧ x.ec = d.ec))
  ++ (if g.op = 5 then each (g.srcs.drop 1) 11 (fun _ => n ≤ g.root c.ctx.arch) else [])
  ++ each (g.hd :: full) 5 (fun x => x.space ≠ 6 ∧ misaligned x)

/-- R272 to R277: a collective whose checks pass ends the chunk, arrives, and its rank waits, with the deadline CR_BTMO gives. A thread that is no rank
raises ILLEGAL; a refused handle raises HANDLE by R21, R279 and R441, before any arrival; in a group of which a rank has retired it is TIMEOUT (R277).

R274, R275, R280, R281: when every rank of a group has arrived at one instance with one header, its work is done for all, from inputs that are all read
first, and it completes at every rank: the flags are raised, the arrival index is one more and the rank goes on, or takes FPX with the lowest position that
raised an enabled flag. An element a rank receives is R280's function of that element at the ranks in order: the scan's at its rank, the tree's, or the root's.
The model's own choices in it: log 11, 53, 91, 93. -/
def Obligations.CollectivesArriveAndComplete : Prop :=
  (∀ (s : State) (ins : Instr) (hd ha hb : HReg) (rm : BitVec 2) (excl : Bool) (la : BitVec 4) (g : GroupIns) (k : Kernel) (grp : Group),
     ins ∈ [.gscanAdd hd ha rm excl la, .gscanAff hd ha hb rm excl la, .gscanMax hd ha excl la, .gredAdd hd ha rm la, .gredMax hd ha la,
       .gbcast hd ha hb la, .gsync] →
     let c := s.commitCur
     let ticks := c.myCore.k.btmo.toNat
     s.plain → s.canCommit = true → groupIns ins = some g →
     (s.rankGroup = none → exec ins s = .next (s.trap ins 1 s.ir false 0 []))
     ∧ (s.rankGroup = some (k, grp) → c.held (·.collective) = false →
         (g.op ≠ 6 → ∀ h n, firstFails (r21Rows c (g.hd :: g.srcs)) h n → handleTrap s ins h n)
         ∧ (g.op ≠ 6 → checkHandles (g.hd :: g.srcs) c = .ok ((), c) → (operandOf c g.hd).isEmpty = false →
             ∀ h n, firstFails (groupRefusals c g k.threads) h n → handleTrap s ins h n)
         ∧ ((g.op ≠ 6 → checkHandles (g.hd :: g.srcs) c = .ok ((), c)
             ∧ ((operandOf c g.hd).isEmpty = false → groupChecks g c.ctx.rank k.threads c = .ok ((), c)) ∧ ∃ u, checkAccesses g c.ctx.rank c = .ok ((), u)) →
           (grp.retiredTval = none → c.plain → exec ins s = .next { c with ctx := { c.ctx with life := .waiting, wait :=
             { kind := .collective, ins := some ins, deadline := if ticks = 0 then none else some ((c.die (dieOf c.coreId)).gct + ticks) } } })
           ∧ (∀ v, grp.retiredTval = some v → exec ins s =
               .next ((s.failInstance s.ctx.owner s.ctx.knum s.ctx.group).trap ins 14 (BitVec.ofNat 64 v) false 0 [])))))
  ∧ (∀ (s : State) (owner knum group n op md er ec root core slot : Nat) (ranks : List (Nat × Nat × Context)) (c0 : Context) (flags : Grid Flags) (t : State),
       let header := fun (c : Context) => ((c.wait.ins.bind groupIns).map fun g => g.header c.arch).getD []
       let reads := fun (g : GroupIns) (_ : Context) => g.srcs.mapM fun r => do
         let x ← tileOf r
         return (← x.pathPatterns).map fun row => row.map specFp32.value
       let atRoot := fun (g : GroupIns) (c : Context) => do
         let x ← tileOf (g.srcs.headD 0)
         if c.rank = root then x.pathPatterns else return []
       (((s.kernel? owner knum).map (·.threads)).getD 0 = n → (List.range n).filterMap (s.rankAt owner knum group) = ranks → ranks.length = n →
         ranks.head?.map (·.2.2) = some c0 → (∀ r ∈ ranks, r.2.2.arrived c0.arch.collIndex = true ∧ header r.2.2 = [op, md, er, ec, root]) →
         s.lateRanks ranks = [] → s.ranksBlocked ranks = false → (op = 6 → ∀ r ∈ ranks, s.carveHeld r.1 = false) → s.collect ranks op md er ec root = .ok (flags, t) →
         exec (.collectiveComplete owner knum group) s = .next ((t.returnRanks ranks op flags).releaseHomes.wakeRetries).endKernels)
       ∧ ((op = 6 ∨ er = 0) → s.collect ranks op md er ec root = .ok ([], s))
       ∧ (∀ ins u v, op < 5 → er ≠ 0 → s.runAll reads ranks = .ok (ins, u) →
           (u.readsFinal ranks).writeRanks ranks (fun r => (groupOutputs op md er ec ins).1.getD r []) = .ok v →
           s.collect ranks op md er ec root = .ok ((groupOutputs op md er ec ins).2, v))
       ∧ (∀ gs u v, op = 5 → er ≠ 0 → s.runAll atRoot ranks = .ok (gs, u) →
           (u.readsFinal (ranks.filter fun r => r.2.2.rank == root)).writeRanks ranks (fun _ => mkGrid er ec (gridAt 0 (gs.getD root []))) = .ok v →
           s.collect ranks op md er ec root = .ok ([], v))
       ∧ (∀ (ins : List (List (Grid Val))) (r i j : Nat), r < ins.length → i < er → j < ec →
           let x := fun k => ins.map fun gs => rawFp32 (gridAt (.zero false) (gs.getD k []) i j)
           let mode := treeMode (BitVec.ofNat 2 (md / 2))
           let excl := md % 2 == 1
           let out := gridAt 0 ((groupOutputs op md er ec ins).1.getD r []) i j
           let canonical := fun b => (specFp32.deliver .rne 0 (rootFp32 b).1).1
           (op = 0 → out = canonical ((scan (addFp32 mode) 0 excl (x 0)).getD r (0, 0)).1)
           ∧ (op = 1 → out = canonical ((scan (affFp32 mode) (one32, 0) excl ((x 0).zip (x 1))).getD r ((0, 0), 0)).1.2)
           ∧ (op = 2 → out = canonical ((scan maxFp32 0xFF800000 excl (x 0)).getD r (0, 0)).1)
           ∧ (op = 3 → out = canonical (((treeReduce (addFp32 mode) (x 0)).1).getD 0)) ∧ (op = 4 → out = canonical (((treeReduce maxFp32 (x 0)).1).getD 0)))
       ∧ (s.cur = (core, slot) → ∀ ins g, s.ctx.wait.ins = some ins → groupIns ins = some g →
           let u := s.returnRank core slot flags
           (s.chunkGoesOn → s.ctx.arch.inRep = false → s.ctx.cloak.state ≠ .bound → noTrap s (allFlags flags) →
             u.ctx.life = .ready ∧ u.ctx.arch.pc = s.ctx.arch.pc + 4 ∧ u.ctx.arch.collIndex = s.ctx.arch.collIndex + 1
               ∧ u.ctx.arch.fcsr = s.ctx.arch.fcsr ||| (allFlags flags).setWidth 64 ∧ u.ctx.arch.regs = s.ctx.arch.regs)
           ∧ (∀ e f, flags.flatten[e]? = some f → ¬ noTrap s f → (∀ j h, j < e → flags.flatten[j]? = some h → noTrap s h) →
             let w := ({ s with ctx := { s.ctx with life := .ready, wait := {} } } : State).mapArch fun a =>
               { a.raiseFlags (allFlags flags) with collIndex := a.collIndex + 1 }
             let v := (w.mapChunk fun k => { k with ins := k.ins + 1 }).takeTrap ins 7 (BitVec.ofNat 64 e) true 0 []
             v.cur = s.cur → u = v)))

/-! ### Barriers (19) -/

/-- A barrier object whose fields fit their places. -/
def fits (b : Barrier) : Prop :=
  b.expected < 2 ^ 24 ∧ b.pending < 2 ^ 24 ∧ b.phase < 16 ∧ b.reserved < 2 ^ 9 ∧ b.bytes < 2 ^ 32 ∧ b.waiters < 2 ^ 16 ∧ b.gct < 2 ^ 16

/-- R368 to R374: the BARR instructions on an object whose address passes its checks. BINIT answers 2 for a count of 0, 1 for an armed object with
waiters, and else arms it, these updates being releases (`barrierAt`); BARRIVE, BEXPECT and BARRIVE.EXP return the phase they acted in, or set OVERRUN and raise BARRIER_OVERRUN; BWAIT and BTRY
return what the phase has come to, and where it is open BWAIT waits, counted in WAITERS, and BTRY returns 4.

R367, R369, R370, R374: the object's sixteen bytes hold its fields; an update takes its arrivals and adds its bytes, or is refused; where both counts
reach zero the phase is one more modulo 16 and the pending count is the expected one again; a wait for a phase is over once the object has left it.
The model's own choices in it: log 94, 95, 96, 207. -/
def Obligations.BarriersCountAndAnswer : Prop :=
  (∀ (s : State) (rd a b : Reg) (la : BitVec 4) (p : Place) (o : Barrier) (u : State), s.plain → s.canCommit = true →
     let c := s.commitCur
     let v := s.x b
     let ea := (s.x a).toNat
     let done := fun (ins : Instr) (t : State) (r : Word) => exec ins s = .next ((t.setReg rd r).barrierDone p la rd)
     let update := fun (ins : Instr) (count bytes : Nat) (expects : Bool) =>
       (∀ n, o.update count bytes expects (u.gctAt p) = some n → done ins (u.putBarrier p n (n.phase != o.phase)) (BitVec.ofNat 64 o.phase))
       ∧ (o.update count bytes expects (u.gctAt p) = none → exec ins s = .next
           ((if o.unarmed then u else u.homePut p 16 { o with overrun := true }.toNat).trap ins 12 (s.x a) false 0 []))
     (barrierAt ea true c = .ok ((p, o), u) →
       (v.toNat % 2 ^ 24 = 0 → done (.binit rd a b la) u 2)
       ∧ (v.toNat % 2 ^ 24 ≠ 0 → o.unarmed = false → o.waiters ≠ 0 → done (.binit rd a b la) u 1)
       ∧ (v.toNat % 2 ^ 24 ≠ 0 → (o.unarmed = true ∨ o.waiters = 0) → done (.binit rd a b la)
           (u.putBarrier p { expected := v.toNat % 2 ^ 24, pending := v.toNat % 2 ^ 24, phase := 0, armed := true, overrun := false, active := false
                             reserved := 0, bytes := 0, waiters := o.waiters, gct := u.gctAt p % 2 ^ 16 } false) 0)
       ∧ update (.barrive rd a b la) (v.toNat % 2 ^ 24) 0 false ∧ update (.bexpect rd a b la) 0 (v.toNat % 2 ^ 32) true
       ∧ update (.barriveExp rd a b la) 1 (v.toNat % 2 ^ 32) true)
     ∧ (barrierAt ea false c = .ok ((p, o), u) →
       (∀ r, o.verdict (v.toNat % 16) = some r → r ≠ 0 → done (.bwait rd a b la) u r)
       ∧ (o.verdict (v.toNat % 16) = some 0 → u.carveHeld u.coreId = false → done (.bwait rd a b la) ((u.tryCarve u.coreId).acquired true ea) 0)
       ∧ (o.verdict (v.toNat % 16) = none → ∃ w, w.kind = .bwait ∧ w.rd = rd ∧ exec (.bwait rd a b la) s =
           .next ((u.homePut p 16 { o with waiters := o.waiters + 1 }.toNat).block w)))
     ∧ (∀ q r n t, placeOf ea 16 .load s = .ok (q, r) → q.kind ≠ kindWo → memRead ea 16 .load r = .ok (n, t) →
         exec (.btry rd a b la) s = .next ((t.setReg rd (((Barrier.ofNat n).verdict (v.toNat % 16)).getD 4)).retiredLong 4 la (.reg rd))))
  ∧ (∀ (b : Barrier) (count bytes gct p : Nat) (expects : Bool), fits b → gct < 2 ^ 16 →
       Barrier.ofNat b.toNat = b
       ∧ (b.unarmed = false → count ≤ b.pending → b.bytes + bytes < 2 ^ 32 → 0 < count + bytes →
           ∃ c, b.update count bytes expects gct = some c ∧ fits c ∧ c.expected = b.expected
             ∧ (b.pending - count = 0 ∧ b.bytes + bytes = 0 → c.phase = (b.phase + 1) % 16 ∧ c.pending = b.expected ∧ c.active = false ∧ c.gct = gct)
             ∧ (¬ (b.pending - count = 0 ∧ b.bytes + bytes = 0) → c.phase = b.phase ∧ c.pending = b.pending - count ∧ c.bytes = b.bytes + bytes))
       ∧ ((b.unarmed = true ∨ b.pending < count ∨ 2 ^ 32 ≤ b.bytes + bytes) → b.update count bytes expects gct = none)
       ∧ (b.unarmed = true → b.verdict p = some 3)
       ∧ (b.unarmed = false → p < 16 → (b.verdict p = none ↔ b.phase = p)
           ∧ (b.verdict p = some 0 ↔ ∃ k, 1 ≤ k ∧ k ≤ 7 ∧ b.phase = (p + k) % 16) ∧ (b.verdict p = some 1 ↔ ∃ k, 8 ≤ k ∧ k ≤ 15 ∧ b.phase = (p + k) % 16)))

/-! ### Transfers (18) -/

/-- R361 to R365: XSET writes a shadow field whole; XGO, its description accepted and a place free, launches a transfer with the shadow fields as they
stand and the core's next TID; XTEST, XSTAT, XWAIT and XCANCEL answer 0xFF, or all ones, for a TID the engine does not know and else the transfer's state, and
XWAIT and XCANCEL wait for one that runs. XWAIT's TID is its operand's, or stands in the record the operand names; 0xFF is unknown, 1 to 3 the STATUS of one that has
retired, 0 a met mask; else it waits, and a waiting one ends with the same codes.
The model's own choices in it: log 101, 103. -/
def Obligations.TransferInstructionsLaunchAndAsk : Prop :=
  ∀ (s : State) (rd a b : Reg) (fld la : BitVec 4) (word sel : BitVec 3), s.plain →
    let c := s.commitCur
    let plan := CopyPlan.ofShadow s.ctx.arch.shadow
    let tid := (s.x a).toNat % 2 ^ 32
    let answer := fun (ins : Instr) (v : Word) => exec ins s = .next ((s.setReg rd v).retiredLong 4 la (.reg rd))
    let after := fun (ins : Instr) (t : State) (v : Word) => exec ins s = .next (((t.setReg rd v).retiredLong 4 la (.reg rd)).rebase)
    let seq := nextSeq c.myCore.tidSeq
    exec (.xset a fld la) s = .next ((s.mapArch fun k => { k with shadow := k.shadow.setIfInBounds fld.toNat (s.x a) }).retired 4)
    ∧ (s.canCommit = true → c.held (·.copy) = false → plan.refused = false → plan.misaligned = none → liveCount c.myCore.transfers < 16 →
        plan.landing = 0 → c.ctx.arch.shadow = s.ctx.arch.shadow →
        ∃ (x : Transfer) (t : State), after (.xgo rd la) t (BitVec.ofNat 64 (c.coreId * 2 ^ 23 + seq)) ∧ t.transfer? c.coreId x.tid = some x
          ∧ x.tid = c.coreId * 2 ^ 23 + seq ∧ x.state = .launched ∧ x.shadow = s.ctx.arch.shadow ∧ x.slot = c.cur.2 ∧ x.owner = c.ctx.owner
          ∧ x.landed = [] ∧ t.myCore.tidSeq = seq + 1 ∧ t.mem = c.mem ∧ t.ctx = c.ctx)
    ∧ (∀ (r : State) (q : State), s.canCommit = true → c.held (·.copy) = false → plan.refused = false → plan.misaligned = none →
        liveCount c.myCore.transfers < 16 → plan.landing ≠ 0 → c.ctx.arch.shadow = s.ctx.arch.shadow →
        unscored (do for (v, i) in (plan.recordImage (c.coreId * 2 ^ 23 + seq)).zipIdx do memWrite (wrap64 (plan.landing + 8 * i : Nat)) 8 v) c = .ok ((), r) →
        endChunk r = .ok ((), q) → q.coreId = c.coreId →
        ∃ t, after (.xgo rd la) t (BitVec.ofNat 64 (c.coreId * 2 ^ 23 + seq)) ∧ t.mem = q.mem ∧ t.ctx = q.ctx)
    ∧ answer (.xtest rd a la) (match s.known s.coreId tid with | some t => BitVec.ofNat 64 t.state.status | none => 0xFF)
    ∧ (sel = 4 → answer (.xstat rd a sel la) (BitVec.ofNat 64 (liveCount s.myCore.transfers)))
    ∧ (sel ≠ 4 → s.known s.coreId tid = none → answer (.xstat rd a sel la) (BitVec.allOnes 64))
    ∧ (∀ t, sel ≠ 4 → s.known s.coreId tid = some t → answer (.xstat rd a sel la) (BitVec.ofNat 64 (match sel.toNat with
        | 0 => t.plan.chunks * 2 ^ 32 + t.landed.length * 2 ^ 16 + (if t.state = .launched then 2 ^ 8 else 0) + t.state.status
        | 1 => t.landedBytes | 2 => if t.state = .faulted then t.faddr else 0 | _ => if t.state = .faulted then t.fcause else 0)))
    ∧ (s.canCommit = true → c.plain →
        (let ins : Instr := .xwait rd a b word la
         let ticks := c.myCore.k.xtmo.toNat
         let waits := fun (n : Nat) => exec ins s = .next { c with ctx := { c.ctx with life := .waiting, wait :=
           { kind := .xwait, rd := rd, a := n, ins := some ins, deadline := if ticks = 0 then none else some ((c.die (dieOf c.coreId)).gct + ticks) } } }
         let found := fun (u : State) (n : Nat) (running : Transfer → Prop) =>
           (u.known u.coreId n = none → after ins u 0xFF)
           ∧ ∀ t, u.known u.coreId n = some t → (t.live = false → after ins u (BitVec.ofNat 64 t.state.status)) ∧ (t.live = true → running t)
         ((s.x a).getLsbD 63 = true → found c tid fun _ => waits tid)
         ∧ ((s.x a).getLsbD 63 = false → (s.x a).toNat % 16 ≠ 0 → exec ins s = .next (s.trap ins 3 (s.x a) false 0 []))
         ∧ ((s.x a).getLsbD 63 = false → (s.x a).toNat % 16 = 0 → ∀ n u, unscored (memRead (s.x a).toNat 4) c = .ok (n, u) → found u n fun _ =>
             (s.x b = 0 → waits n)
             ∧ ∀ w q, s.x b ≠ 0 → unscored (memRead (wrap64 ((s.x a).toNat + 16 + 8 * word.toNat : Nat)) 8) u = .ok (w, q) →
                 (w &&& (s.x b).toNat = (s.x b).toNat → after ins q 0) ∧ (w &&& (s.x b).toNat ≠ (s.x b).toNat → waits n)))
        ∧ (c.known c.coreId tid = none → after (.xcancel rd a la) c 0xFF)
        ∧ (∀ t, c.known c.coreId tid = some t → t.live = false → after (.xcancel rd a la) c (BitVec.ofNat 64 t.state.status))
        ∧ (∀ t, c.known c.coreId tid = some t → t.live = true → exec (.xcancel rd a la) s =
            .next ((c.mapTransfer c.coreId t.tid fun t => { t with cancelAsked := true }).block { kind := .xcancel, ins := some (.xcancel rd a la), rd := rd, a := t.tid })))
    ∧ (s.ctx.life = .waiting → s.ctx.wait.kind = .xwait → s.ctx.wait.ins = some (.xwait rd a b word la) →
        let ends := fun (q : State) (v : Word) => s.retryXwait s.cur.1 s.cur.2 = ((({ q with ctx := q.ctx.wake } : State).setReg rd v).retiredLong 4 la (.reg rd)).rebase
        (∀ t, s.transfer? s.coreId s.ctx.wait.a = some t → t.live = false → ends s (BitVec.ofNat 64 t.state.status))
        ∧ (∀ t, s.transfer? s.coreId s.ctx.wait.a = some t → t.live = true → ((s.x a).getLsbD 63 = true ∨ s.x b = 0) → s.retryXwait s.cur.1 s.cur.2 = s)
        ∧ (∀ t w q, s.transfer? s.coreId s.ctx.wait.a = some t → t.live = true → (s.x a).getLsbD 63 = false → s.x b ≠ 0 →
            unscored (memRead (wrap64 ((s.x a).toNat + 16 + 8 * word.toNat : Nat)) 8) s = .ok (w, q) → q.cur = s.cur →
            (w &&& (s.x b).toNat = (s.x b).toNat → ends q 0) ∧ (w &&& (s.x b).toNat ≠ (s.x b).toNat → s.retryXwait s.cur.1 s.cur.2 = s)))

/-- R348, R354 to R359, R438: the engine starts a launched transfer while fewer than four run; a chunk whose bytes all reach memory is performed, and its
updates, which meet no obstacle, are made in order: its bit and LANDED in the record and its bytes at the barrier, whose BYTES_PENDING they leave; a barrier that
refuses them keeps OVERRUN and ends the transfer FAULTED; a cancellation lets no further chunk start, and comes too late once all have landed.
The model's own choices in it: log 11, 97, 98, 104. -/
def Obligations.TransfersStartLandAndCancel : Prop :=
  ∀ (s : State) (core tid chunk : Nat) (t : Transfer), s.transfer? core tid = some t →
    let started := s.mapTransfer core tid fun t => { t with started := insertN chunk t.started }
    (t.state = .launched → t.cancelAsked = false → s.switchHolds t = false → ((s.core core).transfers.filter (·.state == .inFlight)).length < 4 →
      exec (.transferStart core tid) s = .next (s.mapTransfer core tid fun t => { t with state := .inFlight }))
    ∧ (∀ (l : List Landing) (u w : State), t.state = .inFlight → chunk < t.plan.chunks → chunk ∉ t.landed → (∀ x ∈ t.waiting, x.1 ≠ chunk) →
        t.ending = 0 → (∀ x ∈ s.links.writes, x.transfer = none) → chunk ∉ t.performed →
        started.gatherChunk core t (t.plan.chunkPlaces chunk) = (l, [], u) → linkBytes l = [] →
        (((u.crossChunk core t chunk).putLanding core t l).mapTransfer core tid fun t => { t with performed := insertN chunk t.performed }).updateObstacle core t chunk = (none, w) →
        exec (.transferChunkLanding core tid chunk) s = .next (w.landUpdates core t chunk))
    ∧ (t.live = true → t.cancelAsked = true → t.ending = 0 → t.landed.length < t.plan.chunks →
        exec (.transferCancellation core tid) s = .next ((s.mapTransfer core tid fun t => { t with ending := 3 }).settleTransfer core tid))
    ∧ (t.plan.landing = 0 → t.plan.barrier = 0 → t.state = .inFlight → t.ending = 0 → t.tid = tid → t.landed.length + 1 < t.plan.chunks →
        s.allCtxs.all (fun x => x.2.2.life != .waiting) = true →
        ∃ v, (s.landUpdates core t chunk).transfer? core tid = some v ∧ v.landed = chunk :: t.landed ∧ v.state = .inFlight)
    ∧ (t.live = true → t.landed.length = t.plan.chunks → exec (.transferCancellation core tid) s = .next s)
    ∧ (∀ (va n : Nat) (f : Nat → Nat) (p : Place) (q : State), s.reach core t va .store = (.mem p, q) →
        let before := q.yieldLine core (p.loc / 128)
        let u := s.recordPut core t va n f
        Memory.wf before.mem = true → u.natAt p.loc n = f (before.natAt p.loc n) % 256 ^ n ∧ ∀ loc, (loc < p.loc ∨ p.loc + n ≤ loc) → u.byteAt loc = before.byteAt loc)
    ∧ (let bit := s.recordPut core t (wrap64 (t.plan.landing + 16 + 8 * (chunk / 64) : Nat)) 8 (· ||| 2 ^ (chunk % 64))
       let record := if t.plan.landing = 0 then s else bit.recordPut core t (wrap64 (t.plan.landing + 8 : Nat)) 8 (· + t.plan.chunkBytes chunk)
       let noted := record.mapTransfer core tid fun x => { x with landed := chunk :: x.landed, started := x.started.filter (· != chunk) }
       (t.plan.barrier = 0 → s.landUpdates core t chunk = (noted.wakeXwaits core tid).settleTransfer core tid)
       ∧ ∀ p u, t.plan.barrier ≠ 0 → noted.reach core t t.plan.barrier .atomic = (.mem p, u) →
           let v := u.landBytes (u.seamOf t.owner t.knum) t.owner p (t.plan.chunkBytes chunk)
           s.landUpdates core t chunk = if v.1 then (v.2.wakeXwaits core tid).settleTransfer core tid
             else (v.2.wakeXwaits core tid).faultTransfer core tid chunk 12 t.plan.barrier)
    ∧ (∀ (p : Place) (dom owner n : Nat), Memory.wf s.mem = true → (s.allCtxs.all fun x => x.2.2.life != .waiting) = true →
        let b := Barrier.ofNat (s.natAt p.loc 16)
        let v := s.landBytes dom owner p n
        let o := Barrier.ofNat (v.2.natAt p.loc 16)
        (b.unarmed = true → v = (false, s))
        ∧ (b.unarmed = false → (b.bytes < n ∨ b.active = false) → v.1 = false ∧ o = { b with overrun := true })
        ∧ (b.unarmed = false → n ≤ b.bytes → b.active = true → v.1 = true
            ∧ (b.pending = 0 → b.bytes = n → o = { b with bytes := 0, phase := (b.phase + 1) % 16, pending := b.expected, active := false, gct := s.gctAt p % 2 ^ 16 })
            ∧ (¬ (b.pending = 0 ∧ b.bytes = n) → o = { b with bytes := b.bytes - n })))

/-! ### Messages (08) -/

/-- A message descriptor of R189 with this LEN: the zero fields are zero, LEN is a multiple of 8 in 16 to 256, and 80 for the launch endpoint. -/
def validMessage (d : Word) (send : Bool) (len : Nat) : Prop :=
  d.toNat / 2 ^ 25 = 0 ∧ d.toNat / 2 ^ 10 % 64 = 0 ∧ d.toNat / 2 ^ 16 % 512 = len ∧ len % 8 = 0 ∧ 16 ≤ len ∧ len ≤ 256
    ∧ (d.getLsbD 9 = true → len = 80) ∧ (send = false → d.toNat % 1024 = 0)

/-- R171, R176 to R178, R184, R187 to R190, R193: the sends. The image is read after the chunk ends, its STAMP[15:0] becomes the message index,
which counts one more, and each copy is enqueued or enters the window; rd takes the stamp, or the number of copies. A copy refused at its destination
is BOUNDS once all are answered; a core the owner does not hold is PARTITION. A NACKed copy takes a window entry, and the instruction waits with those it has
left only while all 16 are in use; it then goes on with these. Of the copies of a SENDM that are refused the lowest core is kept. QSTAT reads what its selector
names.
The model's own choices in it: log 83, 85, 86. -/
def Obligations.MessagesAreSent : Prop :=
  ∀ (s r q : State) (rd rs1 rs2 : Reg) (la : BitVec 4) (sel : BitVec 3) (raw mask : List Byte) (len : Nat), s.plain → s.canCommit = true →
    let c := s.commitCur
    let d := s.x rs1
    let image := fun (u : State) =>
      raw.take 8 ++ leBytes 8 (ofLeBytes ((raw.drop 8).take 8) / 2 ^ 16 * 2 ^ 16 + u.ctx.arch.msgIndex.toNat % 2 ^ 16) ++ raw.drop 16
    let stamp := fun (u : State) => ofLeBytes (((image u).drop 8).take 8)
    let counted := fun (u : State) => u.mapArch fun a => { a with msgIndex := a.msgIndex + 1 }
    let ended := fun (t : State) (p : Option Sending) => ({ t with ctx := { t.ctx with sending := p } } : State)
    let sent := fun (t : State) (v : Word) =>
      Host.Outcome.next (φ := Fault) (ρ := Refusal) ((((ended t none).setReg rd v).retiredLong 4 la (.reg rd)).rebase)
    let handler := BitVec.ofNat 64 (ofLeBytes (raw.take 8))
    -- every copy to these cores is dealt with, from state u
    let deal := fun (u : State) (ds : List Nat) => u.sendLeft { dests := ds, image := image u, index := u.ctx.arch.msgIndex.toNat, left := ds, refused := [], nacked := [] }
    let taken := fun (u : State) (ds : List Nat) => (deal u ds).2.left = [] ∧ (deal u ds).2.refused = []
    let copies := fun (u : State) (ds : List Nat) => counted (deal u ds).1
    (s.ctx.sending = none → readWords (len / 8) (s.x rs2).toNat c = .ok (raw, r) → raw.length = len →
      (validMessage d true len → d.getLsbD 9 = false →
        let dst := d.toNat % 512
        (r.heldBy r.ctx.owner dst = true → taken r [dst] → exec (.send rd rs1 rs2 la) s = sent (copies r [dst]) (BitVec.ofNat 64 (stamp r)))
        ∧ (r.heldBy r.ctx.owner dst = true → (deal r [dst]).2.left = [] → (deal r [dst]).2.refused ≠ [] →
            exec (.send rd rs1 rs2 la) s = .next ((ended (copies r [dst]) none).takeTrap (.send rd rs1 rs2 la) 9 handler false 0 []))
        ∧ (r.heldBy r.ctx.owner dst = false → exec (.send rd rs1 rs2 la) s = .next (s.trap (.send rd rs1 rs2 la) 11 (BitVec.ofNat 64 dst) false 0 [])))
      ∧ (validMessage d true len → d.getLsbD 9 = true → exec (.send rd rs1 rs2 la) s =
          sent { counted r with requests := r.requests ++ [requestOf ((image r).drop 16) (.device r.coreId r.ctx.owner r.ctx.knum)] } (BitVec.ofNat 64 (stamp r)))
      ∧ (validMessage d false len → readWords 8 r.ctx.arch.mcast.toNat r = .ok (mask, q) →
          let ds := (List.range 512).filter fun n => ofLeBytes mask / 2 ^ n % 2 == 1
          (∀ x ∈ ds, x ∈ (q.myGroup.map (·.cores)).getD [] ∧ q.heldBy q.ctx.owner x = true) → q.ctx.arch.msgIndex = r.ctx.arch.msgIndex →
            (taken q ds → exec (.sendm rd rs1 rs2 la) s = sent (copies q ds) (BitVec.ofNat 64 ds.length))
            ∧ ((deal q ds).2.left = [] → (deal q ds).2.refused ≠ [] → exec (.sendm rd rs1 rs2 la) s = .next (((ended (copies q ds) none).mapArch fun a =>
                { a with refused := (deal q ds).2.refused.min? }).takeTrap (.sendm rd rs1 rs2 la) 9 handler false 0 []))
            ∧ ((deal q ds).2.left ≠ [] → let t := ended (copies q ds) (some (deal q ds).2)
                exec (.sendm rd rs1 rs2 la) s = .next { t.rebase with ctx := { t.rebase.ctx with
                  life := .waiting, wait := { kind := .replayEntry, ins := some (.sendm rd rs1 rs2 la) } } }))
      ∧ (validMessage d false len → ((s.kernel? s.ctx.owner s.ctx.knum).map Kernel.pinned).getD false = false →
          let held := (List.range 512).filter fun k => (r.core k).owner == r.ctx.owner && (r.core k).knum == r.ctx.knum && r.ctx.knum != 0
          let n := stamp r % 2 ^ 32 ^^^ stamp r / 2 ^ 32
          ∀ dst, held[draw r.myCore.k.kseed r.ctx.owner classL2Slice n * held.length / 2 ^ 32]? = some dst → taken r [dst] →
            exec (.spawn rd rs1 rs2 la) s = sent (copies r [dst]) (BitVec.ofNat 64 (stamp r))))
    ∧ (∀ p, s.ctx.sending = some p → (s.sendLeft p).2.left = [] → (s.sendLeft p).2.refused = [] →
        exec (.sendm rd rs1 rs2 la) s = sent (s.sendLeft p).1 (BitVec.ofNat 64 p.dests.length))
    ∧ (∀ dst p,
        let follows := s.myCore.window.any (·.dst == dst)
        let known := follows || p.nacked.contains dst
        let told := if known then s else (s.askNetwork s.ctx.owner s.coreId dst).mapCore s.coreId fun k => { k with nacks := k.nacks + 1 }
        let v := sendOne (s, p) dst
        (dst ∈ p.nacked ∨ s.planCopy dst p.image = .nacked →
          (s.myCore.window.length < 16 → v.2 = p ∧ v.1.myCore.nacks = told.myCore.nacks ∧ ∃ e : SendEntry, e.dst = dst ∧ e.image = p.image
            ∧ (e.due = none ↔ dst ∉ p.nacked ∧ follows = true) ∧ v.1.myCore.window = s.myCore.window ++ [e])
          ∧ (16 ≤ s.myCore.window.length → v = (told, { p with left := p.left ++ [dst], nacked := if known then p.nacked else dst :: p.nacked })))
        ∧ (dst ∉ p.nacked → s.planCopy dst p.image = .refused → v = (s, { p with refused := p.refused ++ [dst] }))
        ∧ (dst ∉ p.nacked → s.planCopy dst p.image = .enqueued → v = ((s.askNetwork s.ctx.owner s.coreId dst).enqueue dst
            { handler := ofLeBytes (p.image.take 8), stamp := ofLeBytes ((p.image.drop 8).take 8), payload := p.image.drop 16, sender := s.coreId
              key := .task (ofLeBytes ((p.image.drop 8).take 8)) s.ctx.key p.index }, p)))
    ∧ (let k := s.myCore
       let pinned := ((s.kernel? s.ctx.owner s.ctx.knum).map Kernel.pinned).getD false
       exec (.qstat rd sel la) s = .next ((s.setReg rd (BitVec.ofNat 64 (match sel.toNat with
        | 0 => k.queue.length
        | 1 => (match k.queueMode with | .closed => 3 | .drained => 4 | .active => if k.queue = [] then 0 else if 64 ≤ k.queue.length then 2 else 1)
        | 2 => k.window.length | 3 => k.nacks | 4 => if pinned then 0 else (s.tasksOf s.ctx.owner s.ctx.knum).length | 5 => k.lost
        | 6 => if pinned then k.next.toNat else 0
        | _ => match s.ctx.arch.refused with | some x => x % 512 + 2 ^ 63 | none => 0))).retiredLong 4 la (.reg rd)))

/-- R177, R186: the checks at the receiving core, in their order.

R170, R178, R182: a copy that has not been transmitted, or whose back-off has expired, arrives and leaves the window, or waits BASE ticks doubled per
attempt up to MAXSH; one refused faults its sender's kernel, and one no longer held is counted lost. Core 7 of cluster 15, die 0, stands for lysa's replies.

R133, R179, R180, R183, R185, R186, R132: a dispatch takes the entry whose turn it is off the queue, fills its payload block and starts its handler
with the registers of R133; SLOT_SELECTION puts the READY context that
the core's arbiter chooses, and it chooses one of those there are, into a free issuing slot.
The model's own choices in it: log 11, 54, 88. -/
def Obligations.MessagesArriveAndAreDispatched : Prop :=
  (∀ (s : State) (dst handler stamp : Nat),
     let k := s.core dst
     let seq := stamp / 2 ^ 16 % 2 ^ 48
     let next := k.next.toNat
     let pinned := ((s.kernel? k.owner k.knum).map fun k => k.flags % 2 == 1).getD false
     let bad := handler % 2 = 1 ∨ handler < k.k.hboundLo.toNat ∨ k.k.hboundHi.toNat ≤ handler
     let gone := pinned = true ∧ ((1 ≤ (next + 2 ^ 48 - seq) % 2 ^ 48 ∧ (next + 2 ^ 48 - seq) % 2 ^ 48 ≤ 2 ^ 47)
       ∨ ∃ e ∈ k.queue, e.stamp / 2 ^ 16 % 2 ^ 48 = seq)
     let room := k.queueMode = .active ∧ k.queue.length < (if pinned = true ∧ seq ≠ next then 63 else 64)
     ((bad ∨ gone) → s.probe dst handler stamp = .refused) ∧ (¬ (bad ∨ gone) → ¬ room → s.probe dst handler stamp = .nacked)
     ∧ (¬ (bad ∨ gone) → room → s.probe dst handler stamp = .enqueued))
  ∧ (∀ (s : State) (core n : Nat) (e : SendEntry), core ≠ 0x7F → s.lockStands = false → (s.core core).window[n]? = some e →
       let now := (s.die (dieOf core)).gct
       let gone := fun (u : State) => u.mapCore core fun k => { k with window := k.window.eraseIdx n }
       let handler := ofLeBytes (e.image.take 8)
       let asked := s.askNetwork e.owner core e.dst
       let answer := asked.probe e.dst handler (ofLeBytes ((e.image.drop 8).take 8))
       let delay := fun (b : Word) (a : Nat) => max 1 (b.toNat % 2 ^ 16) * 2 ^ min (a - 1) (b.toNat / 2 ^ 16 % 16)
       let goes := fun (ins : Instr) =>
         (s.heldBy e.owner e.dst = false →
           exec ins s = .next ((gone (s.mapCore core fun k => { k with lost := k.lost + 1 })).wakeRetries.endKernels))
         ∧ (s.heldBy e.owner e.dst = true → answer = .enqueued → exec ins s = .next (((gone asked).enqueue e.dst (entryOf e.image core e.key)).wakeRetries))
         ∧ (s.heldBy e.owner e.dst = true → answer = .nacked → exec ins s = .next (asked.mapCore core fun k => { k with
             nacks := k.nacks + 1, window := k.window.set n { e with attempts := e.attempts + 1, due := some (now + delay k.k.backoff (e.attempts + 1)) } }))
         ∧ (s.heldBy e.owner e.dst = true → answer = .refused → exec ins s = .next ((((gone asked).recordEvent e.owner e.knum
             { cause := 9, etype := 1, eflags := 0, core := core, group := e.group, rank := e.rank, port := 0, pc := e.pc, value := handler }).kernelFaulted
               e.owner e.knum).wakeRetries.endKernels))
       let first := ∀ k, k < n → ((s.core core).window[k]?.map (·.dst)) ≠ some e.dst
       (first → e.due = none → goes (.messageArrival core e.dst))
       ∧ (∀ t, first → e.due = some t → t ≤ now → goes (.messageResend core n))
       ∧ (∀ t, e.due = some t → now < t → exec (.messageResend core n) s = .next s)
       ∧ (∀ m (p : SendEntry), s.replies[m]? = some p → p.due = none → (∀ k, k < m → (s.replies[k]?.map (·.dst)) ≠ some p.dst) →
           exec (.messageArrival 0x7F p.dst) s = .next (({ s with replies := s.replies.eraseIdx m } : State).sendReply p)))
  ∧ (∀ (s : State) (core slot block : Nat) (q : QueueEntry),
       (s.dispatchable core = some q → s.freeSlot core = some slot → s.freeBlock core = some block →
         let k := s.core core
         let top := tcmWindow + tcmBytes k.carveCur
         let pinned := ((s.kernelOf core).map Kernel.pinned).getD false
         let taken := s.mapCore core fun k => { k with queue := k.queue.erase q, next := if pinned then k.next + 1 else k.next }
         let filled := taken.foreignWrite (s.seamOf k.owner k.knum) k.owner (tcmLoc core (tcmBytes k.carveCur - 256 * (block + 1)))
           (tcmLoc core (tcmBytes k.carveCur - 256 * (block + 1)) / 128) (q.payload ++ List.replicate (256 - q.payload.length) 0)
         ∃ h : Context, exec (.messageDispatch core) s = .next (filled.setCtxAt core slot h) ∧ h.life = .ready ∧ h.arch.pc = BitVec.ofNat 64 q.handler
           ∧ h.arch.regs[1] = BitVec.ofNat 64 (top - 256 * (block + 1)) ∧ h.arch.regs[2] = BitVec.ofNat 64 q.payload.length
           ∧ h.arch.regs[3] = BitVec.ofNat 64 q.sender ∧ h.arch.regs[4] = BitVec.ofNat 64 q.stamp ∧ h.arch.regs[13] = BitVec.ofNat 64 top
           ∧ (∀ r : Reg, r ∉ [1, 2, 3, 4, 13] → h.arch.regs[r] = 0) ∧ h.arch.tstamp = BitVec.ofNat 64 q.stamp
           ∧ h.owner = k.owner ∧ h.knum = k.knum ∧ h.handling.map (fun x => (x.key, x.block, x.freeMode)) = some (q.key, block, !pinned))
       ∧ (s.dispatchable core = some q → ∃ k, s.kernelOf core = some k ∧ k.state = .running ∧ s.seamStops k = false ∧ (s.core core).queueMode = .active ∧ q ∈ (s.core core).queue
           ∧ (k.pinned = true → q.stamp / 2 ^ 16 % 2 ^ 48 = (s.core core).next.toNat ∧ ∀ x ∈ s.resident core, x.2.2.handling = none)
           ∧ (k.pinned = false → (s.tasksOf k.owner k.knum).length < 256 ∧ ∀ r ∈ (s.core core).queue, r.key.before q.key = false))
       ∧ (s.readyOn core ≠ [] → ∃ k, (s.chooseCtx 2 (coreArbiter core) (s.readyOn core)).1 = some (core, k)
           ∧ (s.ctxAt core k).life = .ready ∧ (s.ctxAt core k).preempted = false)
       ∧ (∀ n t, s.chooseCtx 2 (coreArbiter core) (s.readyOn core) = (some (core, slot), t) → n < 8 →
           (∀ k x, (core, k, x) ∈ s.allCtxs → k ≠ slot → (x.life = .running ∨ x.life = .runahead) → x.issueSlot ≠ n) →
           ∃ m, m ≤ n ∧ exec (.slotSelection core slot) s = .next (t.setCtxAt core slot { s.ctxAt core slot with life := .running, issueSlot := m })))

/-! ### Carry channels (24 R420 to R423) -/

/-- R420, R421, R422: CARRY checks its descriptor, its address and its TCM window, ends its chunk, chooses its port, reads its bytes and hands them to
the link under its next number; without a port it is LINK_LOST. CARRYW takes the carry in its slot, or waits for one; the slot takes the next arrival.

R418, R420: a peer's carry that has its pair's turn is placed, or queued behind up to 63 others, answered busy, or refused where no kernel of the owner
holds the core; one that comes before its turn is kept. The answer to a carry of this module ends it, has it sent again after its back-off, or is a
PARTITION fault of its kernel.
The model's own choices in it: log 6, 11, 107, 113, 114, 115, 116, 222. -/
def Obligations.CarriesAreSentTakenAndAnswered : Prop :=
  (∀ (s : State) (rd rs1 rs2 : Reg) (la : BitVec 4) (data : List Byte) (u : State), s.plain → s.canCommit = true →
     let c := s.commitCur
     let d := (s.x rs1).toNat
     let len := d % 512
     let a := (s.x rs2).toNat
     let peer := d / 2 ^ 48
     let dst := d / 2 ^ 32 % 512
     let good := d / 2 ^ 9 % 2 ^ 15 = 0 ∧ d / 2 ^ 26 % 2 ^ 6 = 0 ∧ d / 2 ^ 41 % 2 ^ 7 = 0 ∧ len % 8 = 0 ∧ 8 ≤ len ∧ len ≤ 256 ∧ peer ≠ s.links.moduleId
     let inside := fun (t : State) (n : Nat) => tcmWindow ≤ a ∧ a + n ≤ tcmWindow + t.tcmSize t.coreId
     let i : Instr := .carry rd rs1 rs2 la
     let w : Instr := .carryw rd rs1 rs2 la
     let slot := c.myCore.carry d
     (¬ good → exec i s = .next (s.trap i 1 s.ir false 0 []))
     ∧ (good → a % 8 ≠ 0 → exec i s = .next (s.trap i 3 (s.x rs2) false 0 []))
     ∧ (good → a % 8 = 0 → ¬ inside s len → exec i s = .next (s.trap i 4 (s.x rs2) false 0 []))
     ∧ (good → a % 8 = 0 → inside s len → c.held (·.link) = false → c.choosePort c.ctx.owner peer c.coreId dst = none →
         exec i s = .next (s.trap i 13 (BitVec.ofNat 64 peer) false 0 []))
     ∧ (∀ port, good → a % 8 = 0 → inside s len → c.held (·.link) = false → c.choosePort c.ctx.owner peer c.coreId dst = some port →
         readWords (len / 8) a c = .ok (data, u) →
         let n : BitVec 32 := if u.ctx.arch.carryIndex + 1 = 0 then 1 else u.ctx.arch.carryIndex + 1
         u.ctx.arch.carryIndex = c.ctx.arch.carryIndex →
         ∃ x : LinkWrite, x.bytes = data ∧ x.peer = peer ∧ x.dstCore = dst ∧ x.dstSlot = d / 2 ^ 24 % 4 ∧ x.number = n ∧ x.port = port ∧ x.core = c.coreId
           ∧ x.transfer = none
           ∧ exec i s = .next (((((u.mapArch fun k => { k with carryIndex := n }).issueWrite x).setReg rd (n.setWidth 64)).retiredLong 4 la (.reg rd)).rebase))
     ∧ (4 ≤ d → exec w s = .next (s.trap w 1 s.ir false 0 [])) ∧ (d < 4 → a % 8 ≠ 0 → exec w s = .next (s.trap w 3 (s.x rs2) false 0 []))
     ∧ (∀ x, d < 4 → a % 8 = 0 → c.held (·.link) = false → slot.full = some x → ¬ inside c x.bytes.length → exec w s = .next (s.trap w 4 (s.x rs2) false 0 []))
     ∧ (∀ x q, d < 4 → a % 8 = 0 → c.held (·.link) = false → slot.full = some x → inside c x.bytes.length → writeWords x.bytes (x.bytes.length / 8) a c = .ok ((), q) → q.canCommit = true →
         q.ctx.runahead = none → q.ahead = false →
         let t := q.commitCur.setCarry q.commitCur.coreId d slot.next
         exec w s = .next (((t.setReg rd (BitVec.ofNat 64 (x.peer % 2 ^ 16 * 2 ^ 48 + x.srcCore % 2 ^ 9 * 2 ^ 32 + x.bytes.length))).retiredLong 4 la (.reg rd)).rebase))
     ∧ (d < 4 → a % 8 = 0 → c.held (·.link) = false → slot.full = none → ∃ t, exec w s = .next t ∧ t.ctx.life = .waiting ∧ t.ctx.wait.kind = .carryw)
     ∧ (slot.next.full = slot.arrivals.head? ∧ slot.next.arrivals = slot.arrivals.tail))
  ∧ (∀ (s : State) (p : CarryPacket) (w : LinkWrite), p.dstCore < 512 → p.dstSlot < 4 →
       let slot := (s.core p.dstCore).carry p.dstSlot
       let free := slot.full = none ∧ slot.arrivals = []
       let answered := fun (r : CarryReply) => s.carryAnswer p = r
       let now := (s.die (dieOf w.core)).gct
       let expected := ((s.links.recvSeq.find? fun x => x.1 == p.peer && x.2.1 == p.srcCore && x.2.2.1 == p.dstCore).map (·.2.2.2)).getD 0
       (s.heldBy p.owner p.dstCore = false → answered .refused)
       ∧ (s.heldBy p.owner p.dstCore = true → (free ∨ slot.arrivals.length < 64) → answered .accepted)
       ∧ (s.heldBy p.owner p.dstCore = true → ¬ (free ∨ slot.arrivals.length < 64) → answered .full)
       ∧ (p.seq = expected → exec (.carryArrival p) s = .next (State.deliverEarly (s.links.early.length + 1) (s.deliverCarry p)))
       ∧ (expected < p.seq → p ∉ s.links.early → exec (.carryArrival p) s = .next { s with links := { s.links with early := s.links.early ++ [p] } })
       ∧ (p.seq < expected → exec (.carryArrival p) s = .next s)
       ∧ (p.window = none → (s.carryAnswer p = .full → s.deliverCarry p = s.answerPacket p .full)
           ∧ (s.carryAnswer p = .refused → s.deliverCarry p = (s.answerPacket p .refused).passSeq p)
           ∧ (s.carryAnswer p = .accepted → s.seamAt p.dstCore = 0 → s.deliverCarry p = ((s.answerPacket p .accepted).passSeq p).placeCarry p))
       ∧ (s.link? w.core w.id = some w → w.state = .sent → s.lockStands = false →
           exec (.carryAcknowledgement w.core w.id .accepted) s = .next (s.ackWrite w)
           ∧ exec (.carryAcknowledgement w.core w.id .full) s = .next (s.mapWrite w.id fun x => { x with
               state := .busy, attempts := x.attempts + 1, due := now + resendDelay (s.core w.core).k.backoff (x.attempts + 1) })
           ∧ exec (.carryAcknowledgement w.core w.id .refused) s = .next ((((((s.dropWrite w.id).followWrite w).recordEvent w.owner w.knum
               (w.entry 11 1 w.destination)).kernelFaulted w.owner w.knum).wakeRetries).endKernels))
       ∧ (s.link? w.core w.id = some w → w.state = .busy →
           (w.due ≤ now → exec (.carryResend w.core w.id) s = .next ((s.mapWrite w.id fun x => { x with state := .sent }).transmitWrite w))
           ∧ (now < w.due → exec (.carryResend w.core w.id) s = .next s)))

/-! ### Draws, arbiters, reseeds and exceedance (02 R54, 11 R250 to R266) -/

/-- R258, R260, R261, R263: RESEED at user level gives every core of the kernel the new seed and reports the lines its relocation moved and the victims; with
OWNER, at supervisor level, both seeds of an ACTIVE owner take it; where its slices hold lines it is RESEEDING until their pass has ended, and the
instruction waits. The owner form is PRIV at user level and the kernel form ILLEGAL above it.
The model's own choices in it: log 137. -/
def Obligations.ReseedsReplaceTheSeed : Prop :=
  ∀ (s : State) (rd rs1 rs2 : Reg) (remap : Bool) (la : BitVec 4), s.plain → s.canCommit = true →
    let c := s.commitCur
    let id := (s.x rs2).toNat % 2 ^ 16
    let kernelForm : Instr := .reseed rd rs1 rs2 false remap la
    let ownerForm : Instr := .reseed rd rs1 rs2 true remap la
    let done := fun (t : State) (v : Word) => Host.Outcome.next (φ := Fault) (ρ := Refusal) (((t.setReg rd v).retiredLong 4 la (.reg rd)).rebase)
    (s.isUser = false → exec kernelForm s = .next (s.trap kernelForm 1 s.ir false 0 []))
    ∧ (s.isUser = true → exec ownerForm s = .next (s.trap ownerForm 16 s.ir false 0 []))
    ∧ (s.isUser = true → ∃ (t : State) (v : Word), exec kernelForm s = done t v
        ∧ (c.keysRise → (∀ p ∈ c.ctxs, ∀ e ∈ p.2.chunk.kUndo, e.index ≠ 0x021) → ∀ k ∈ c.heldCores c.ctx.owner c.ctx.knum, (t.core k).k.kseed = s.x rs1) ∧ (remap = false → v = 0))
    ∧ (s.isUser = false → ∀ o, c.owner? id = some o → o.id = id → o.state = .active → c.slicesHold o = false →
        ∃ (t : State) (v : Word), exec ownerForm s = done t v
          ∧ t.owner? id = some { o with seed := s.x rs1, placementSeed := s.x rs1, remap := false } ∧ t.mem = c.mem ∧ t.cores = c.cores ∧ (remap = false → v = 0))
    ∧ (s.isUser = false → ∀ o, c.owner? id = some o → o.id = id → o.state = .active → c.slicesHold o = true →
        ∃ t, exec ownerForm s = .next t ∧ t.ctx.life = .waiting ∧ t.ctx.wait.kind = .reseed
          ∧ t.owner? id = some { o with seed := s.x rs1, placementSeed := s.x rs1, state := .reseeding, remap := remap })
    ∧ (s.isUser = false → (∀ o, c.owner? id = some o → o.state ≠ .active ∧ o.state ≠ .reseeding) → exec ownerForm s = done c (BitVec.allOnes 64))

/-- R54, R251, R264: DRAW writes the draw of class PROG, which is one xorshift step of n XOR the subkey, and PLQ the placement it names, all ones for a
window address or one beyond 56 bits. The worked draw of R251 comes out as it says.

R257, R265: EXQ writes the exceedance figure, or all ones for an invalid descriptor or q; EXCURVE writes the 32 points of the even q to memory and 32 to
rd. The figure is 0 for k = 1 or n = 0, and at R257's worked values it is 458 cycles, with ALIGN 1058.

R252, R253: a round takes the oldest request of each owner at an arbiter; each contender's stream, started where R252 says, steps once, and the
round is served by descending ticket, equal tickets to the lower owner. A stream starts at (Subkey XOR instance) OR 1, of class ARB or, at a memory controller,
MEMSCHED, and a reseed of its owner restarts it. A request that is filed goes to its structure's instance, in class MEMSCHED at a
memory controller and ARB elsewhere.
The model's own choices in it: log 132, 171, 196. -/
def Obligations.DrawsExceedancesAndTicketsAreMade : Prop :=
  (∀ (s : State) (rd rs1 : Reg) (sel : BitVec 3) (la : BitVec 4) (o : Owner), s.plain →
     let seed := s.myCore.k.kseed
     let id := s.ctx.owner
     let step := fun (x : BitVec 32) =>
       let y := x ^^^ x <<< 13
       let z := y ^^^ y >>> 17
       z ^^^ z <<< 5
     let drawn := fun (seed : Word) (cls : BitVec 32) (n : Nat) =>
       (step (BitVec.ofNat 32 n ^^^ seed.setWidth 32 ^^^ (seed >>> 32).setWidth 32 ^^^ cls ^^^ BitVec.ofNat 32 (id % 2 ^ 16 * 65537))).toNat
     let va := (s.x rs1).toNat
     let answer := fun (ins : Instr) (v : Word) => exec ins s = .next ((s.setReg rd v).retiredLong 4 la (.reg rd))
     let page := (s.walk va).map (·.home)
     let held := (List.range 4).filter fun d => (o.slices.getD d 0) != 0
     let home := page.getD ((held[drawn o.placementSeed 0xBB67AE85 (va / 2 ^ 16) * held.length / 2 ^ 32]?).getD 0)
     let list := (List.range 64).filter fun j => (o.slices.getD home 0) / 2 ^ j % 2 == 1
     let plq := fun (sel : BitVec 3) => Instr.plq rd rs1 sel la
     answer (.draw rd rs1 la) (BitVec.ofNat 64 (drawn seed 0x1F83D9AB (s.x rs1).toNat))
     ∧ ((2 ^ 56 ≤ va ∨ inWindowRegion va = true) → answer (plq sel) (BitVec.allOnes 64))
     ∧ (va < 2 ^ 56 → inWindowRegion va = false → s.owner? id = some o → o.id = id →
         answer (plq 0) (BitVec.ofNat 64 (drawn seed 0x6A09E667 (va / 128) % 512))
         ∧ answer (plq 1) (BitVec.ofNat 64 (home * 64 + (list[drawn o.placementSeed 0xBB67AE85 (va / 128) * list.length / 2 ^ 32]?).getD 0))
         ∧ answer (plq 2) (BitVec.ofNat 64 (drawn o.placementSeed 0x3C6EF372 (va / 128) % 1024))
         ∧ answer (plq 3) (BitVec.ofNat 64 (home + if page = none then 0 else 2 ^ 63)))
     ∧ (subkey 0x100000000 5 classProg = 0x1F86D9AF ∧ draw 0x100000000 5 classL1Place 0x02000001 = 0x6CDB5C42 ∧ l1Set 0x100000000 5 0x100000080 = 0x042))
  ∧ (∀ (s : State) (rd rs1 rs2 : Reg) (align cur : Bool) (la : BitVec 4), s.plain →
       let d := s.x rs1
       let st := d.toNat % 16
       let q := d.toNat / 2 ^ 8 % 2 ^ 8
       let n := d.toNat / 2 ^ 32
       let k := s.sharers st cur
       let good := st ≤ 7 ∧ d.toNat / 16 % 16 = 0 ∧ d.toNat / 2 ^ 16 % 2 ^ 16 = 0
       let answer := fun (ins : Instr) (t : State) (v : Word) => exec ins s = .next ((t.setReg rd v).retiredLong 4 la (.reg rd))
       let points := (List.range 32).map fun j => (s.x rs2 + BitVec.ofNat 64 (8 * j)).toNat
       (¬ (good ∧ 1 ≤ q ∧ q ≤ 64) → answer (.exq rd rs1 align cur la) s (BitVec.allOnes 64))
       ∧ (good → 1 ≤ q → q ≤ 64 → answer (.exq rd rs1 align cur la) s (exceedance st n k q align))
       ∧ (¬ good → answer (.excurve rd rs1 rs2 align cur la) s (BitVec.allOnes 64))
       ∧ (∀ r t, good → reserveLines (points.map (s.lineKey s.coreId)) s = .ok ((), r) →
           ((List.range 32).forM (fun j => memWrite (s.x rs2 + BitVec.ofNat 64 (8 * j)).toNat 8 (exceedance st n k (2 * (j + 1)) align).toNat) : M Unit) r = .ok ((), t) →
           answer (.excurve rd rs1 rs2 align cur la) t 32)
       ∧ (cur = false → k = (((s.owner? s.ctx.owner).map fun o => o.kmax.getD st 1).getD 1))
       ∧ (∀ st n k q align, (k ≤ 1 ∨ n = 0) → exceedance st n k q align = 0)
       ∧ exceedance 1 100 4 20 false = 458 ∧ exceedance 1 100 4 20 true = 1058)
  ∧ (∀ (s : State) (cls arbiter : Nat) (r : ArbRequest),
       let mine := fun (r : ArbRequest) => r.cls = cls ∧ r.arbiter = arbiter
       let stepped := fun (o : Nat) => (xorshift (BitVec.ofNat 32 (s.stream cls arbiter o))).toNat
       ((∀ x ∈ s.arbRequests, ¬ mine x) → exec (.arbitrationRound cls arbiter) s = .next s)
       ∧ (instanceClass arbiter = some cls → mine r → r ∈ s.arbRequests → (∀ x ∈ s.arbRequests, x.owner < 2 ^ 16) → arbiter < 2 ^ 32 → wfT 0 s.streams = true →
           ∃ t, exec (.arbitrationRound cls arbiter) s = .next t
             ∧ t = { s with streams := t.streams, arbRequests := t.arbRequests, arbServed := t.arbServed }
             ∧ (∀ x ∈ t.arbServed, x ∈ s.arbRequests ∧ mine x) ∧ (∃ x ∈ t.arbServed, s.arbRequests.find? (fun y => y.cls = cls ∧ y.arbiter = arbiter ∧ y.owner = r.owner) = some x)
             ∧ (stepped r.owner ≠ 0 → t.stream cls arbiter r.owner = stepped r.owner)
             ∧ t.arbServed.Pairwise (fun x y => stepped y.owner / 2 ^ 16 < stepped x.owner / 2 ^ 16
                 ∨ (stepped x.owner / 2 ^ 16 = stepped y.owner / 2 ^ 16 ∧ x.owner < y.owner)))
       ∧ (∀ n die index o, n < 8 → s.owner? o.id = some o → s.ask n die index o.id = { s with arbRequests := s.arbRequests ++
           [{ cls := if n = 4 ∨ n = 5 then 1 else 0, arbiter := die * 2 ^ 24 + n * 2 ^ 16 + index, owner := o.id }] })
       ∧ (∀ o, s.owner? o.id = some o → o.id < 2 ^ 16 → arbiter < 2 ^ 32 →
           let start := ((subkey o.placementSeed o.id (if cls = 1 then 0x510E527F else 0xA54FF53A)) ^^^ BitVec.ofNat 32 arbiter ||| 1).toNat
           (getT 0 s.streams ((cls * 2 ^ 32 + arbiter) * 2 ^ 16 + o.id) = 0 → s.stream cls arbiter o.id = start)
           ∧ (cls < 2 → (s.restartStreams o.id).stream cls arbiter o.id = start)))

/-! ### The cloak (15) -/

/-- R285, R292, R295 to R297: COMPOSE binds the first eligible cores of the cluster, or reports in order why not, changing nothing else; of several that
contend in a cluster the one its arbiter draws is performed, a lone one without a draw, and the others wait. A core is eligible where it lies in the caller's group,
holds no context, has no transfer or matrix command in flight and is no member of a cloak. RELEASE frees the members and reports how many there were; CSTAT reads the
cloak.
The model's own choices in it: log 18, 196. -/
def Obligations.CloaksAreComposedAndReleased : Prop :=
  ∀ (s : State) (rd : Reg) (n : BitVec 2) (la : BitVec 4), s.plain → s.canCommit = true →
    let c := s.commitCur
    let kept := fun (t : State) (v : Nat) => ((t.setReg rd (BitVec.ofNat 64 v)).retired 4).rebase
    let done := fun (ins : Instr) (t : State) (v : Nat) => exec ins s = .next (kept t v)
    let answers := fun (t : State) (v : Nat) => exec (.compose rd n) s = .next (kept t v).wakeRetries
    let bound := c.ctx.cloak.state = .bound
    let barred := c.ctx.handling ≠ none ∨ c.ctx.arch.status.getLsbD 4 = true
    let shared := ∃ k x, (c.coreId, k, x) ∈ c.allCtxs ∧ k ≠ c.cur.2 ∧ x.life ≠ .free ∧ x.life ≠ .retired
    let cand := ((List.range 7).map fun d => c.coreId / 8 * 8 + (c.coreId % 8 + d + 1) % 8).filter c.eligible
    let m := c.ctx.cloak
    let chosen := c.chooseCtx 3 (instanceId (c.coreId / 128) 15 (c.coreId / 8 % 16)) c.composers
    let u := chosen.2
    (bound → answers c 1) ∧ (¬ bound → barred → answers c 4) ∧ (¬ bound → ¬ barred → shared → answers c 3)
    ∧ (¬ bound → ¬ barred → ¬ shared → chosen.1 = some c.cur →
        (cand.length < 2 ^ n.toNat - 1 → answers u 2)
        ∧ (2 ^ n.toNat - 1 ≤ cand.length →
          let t := kept u 0
          exec (.compose rd n) s = .next ((({ t with ctx := { t.ctx with cloak :=
            { state := .bound, members := c.coreId :: cand.take (2 ^ n.toNat - 1), lost := false } } } : State).mapArch fun a =>
              { a with cloakBlocks := 0, cloakIns := 0 }).rebase).wakeRetries))
    ∧ (¬ bound → ¬ barred → ¬ shared → chosen.1 ≠ some c.cur → exec (.compose rd n) s = .next (u.block { kind := .cloak, ins := some (.compose rd n) }))
    ∧ (c.composers = [c.cur] → chosen = (some c.cur, c))
    ∧ (∀ k, c.eligible k = true ↔ (∃ g, c.myGroup = some g ∧ k ∈ g.cores) ∧ (∀ j x, (k, j, x) ∈ c.allCtxs → x.life = .free ∨ x.life = .retired)
        ∧ (∀ t ∈ (c.core k).transfers, t.live = false) ∧ (∀ p ∈ c.clusters, ∀ q ∈ p.2.queue, q.core ≠ k)
        ∧ ∀ j i x, (j, i, x) ∈ c.allCtxs → x.cloak.state = .bound → k ∉ x.cloak.members)
    ∧ (bound → ∃ t, exec (.release rd) s = .next t ∧ t.ctx.cloak = { state := .unbound, members := [], lost := false }
        ∧ t.x rd = BitVec.ofNat 64 m.members.length ∧ (c.chunkGoesOn → sameOutside c t))
    ∧ (¬ bound → done (.release rd) c 1)
    ∧ exec (.cstat rd la) s = .next ((s.setReg rd (BitVec.ofNat 64 ((s.ctx.arch.blockStep s.isBound false).cloakBlocks.toNat * 2 ^ 32 + (if s.ctx.cloak.lost then 32 else 0)
        + if s.ctx.cloak.state = .bound then (s.ctx.cloak.members.map fun k => 2 ^ (k % 8)).sum * 256 + 16 + s.ctx.cloak.members.length else 0))).retiredLong
          4 la (.reg rd))

/-! ### Memory-system instructions (10 R235 to R243, 22 R389 to R395) -/

/-- R241 to R243, R392 to R395: the MEMSYS instructions but XLPIN's locking write their status or result, and act where it is 0 (or, for REPLAY, where
something waits); the privileged ones are PRIV at user level. While copies to or from their lines are in flight, SHOOT.FLUSH, its translations dropped, and MIGRATE,
its page MIGRATING, block their extent and wait; one whose extent meets such a block waits for it first (R389, R390, R395).

R382, R386, R392: XLPIN refuses in its order, locks the region where every page is there and both quotas hold, pinning its lines
in their slices if asked, and traps at the first page that is
not readable, a page fault naming the other pages that are absent.
The model's own choices in it: log 142, 143, 144. -/
def Obligations.MemorySystemInstructionsAnswerAndLock : Prop :=
  (∀ (s : State) (rd rs1 rs2 : Reg) (sel : BitVec 3) (flag : Bool) (la : BitVec 4), s.plain → s.canCommit = true →
     let c := s.commitCur
     let a := (s.x rs1).toNat
     let b := (s.x rs2).toNat
     let extent := a % 65536 = 0 ∧ b % 65536 = 0 ∧ b ≠ 0 ∧ a + b ≤ 2 ^ 56
     let after := fun (ins : Instr) (t : State) (v : Word) => exec ins s = .next (((t.setReg rd v).retiredLong 4 la (.reg rd)).rebase)
     let status := fun (ins : Instr) (v : Nat) => after ins c (BitVec.ofNat 64 v)
     let priv := fun (ins : Instr) => s.isUser = true → exec ins s = .next (s.trap ins 16 s.ir false 0 [])
     let shoot : Instr := .shoot rd rs1 rs2 flag la
     let move : Instr := .migrate rd rs1 rs2 la
     let switch : Instr := .regsw rd rs1 rs2 la
     let load : Instr := .pload rd rs1 rs2 la
     let replay : Instr := .replay rd rs1 rs2 la
     let waits := fun (ins : Instr) =>
       let w : Wait := { kind := .homeBlock, ins := some ins, a := c.fresh }
       exec ins s = .next { c with ctx := { c.ctx with life := .waiting, wait := w }, fresh := c.fresh + 1 }
     let blocks := fun (ins : Instr) (t : State) => exec ins s = .next (t.block { kind := .pageBlock, ins := some ins, rd := rd })
     priv shoot ∧ priv move ∧ priv switch ∧ priv load ∧ priv replay
     ∧ exec (.rangeq rd rs1 la) s = .next ((c.setReg rd (BitVec.ofNat 64 (if inWindowRegion a then 0 else
         match c.rangeOf c.coreId c.ctx.owner a with
         | some e => e.index * 2 ^ 16 + 2 ^ 10 + e.state * 2 ^ 8 + c.kindOf e.slot * 2 ^ 4 + e.slot
         | none => c.kindOf 0 * 2 ^ 4))).retiredLong 4 la (.reg rd))
     ∧ (let mine := fun (r : LockedRegion) => r.owner == c.ctx.owner && r.base == a
        (c.locked.any mine = true → after (.xlunpin rd rs1 la)
           { c.unpinLines ((c.locked.filter mine).filter (·.data)) with locked := c.locked.filter fun r => !mine r } 0)
        ∧ (c.locked.any mine = false → status (.xlunpin rd rs1 la) 1))
     ∧ (let page := if 2 ^ 56 ≤ a ∨ inWindowRegion a = true then none else c.walk a
        (page = none → status (.pclass rd rs1 sel la) 0x30)
        ∧ (∀ l, page = some l → (l.cls = clsMigrating ∨ l.cls = clsPoisoned) → status (.pclass rd rs1 sel la) 0x30)
        ∧ (∀ l, page = some l → l.cls ≠ clsMigrating → l.cls ≠ clsPoisoned →
           (c.ctx.domain ≠ l.domain → status (.pclass rd rs1 sel la) (l.cls + 32))
           ∧ (c.ctx.domain = l.domain → (c.governing a).1 ≠ kindCls → status (.pclass rd rs1 sel la) (l.cls + 16))
           ∧ (c.ctx.domain = l.domain → (c.governing a).1 = kindCls → sel.toNat ≤ 3 → after (.pclass rd rs1 sel la)
               (match sel.toNat with
                 | 0 => c | 1 => (c.flushAll l.va l.size).setClass l clsPrivate (some c.coreId) | 2 => (c.flushAll l.va l.size).setClass l clsReadonly
                 | _ => c.setClass l clsShared) (BitVec.ofNat 64 l.cls))))
     ∧ (s.isUser = false → (¬ extent → status shoot 1)
         ∧ (extent → c.myBlock = true → blocks shoot c) ∧ (extent → c.myBlock = false → c.shootWaits a b = true → waits shoot)
         ∧ (extent → c.myBlock = false → c.shootWaits a b = false →
           ((flag = false ∨ c.copiesHold a b = false) → after shoot (c.shoot a b flag) 0)
           ∧ (flag = true → c.copiesHold a b = true → blocks shoot ((c.dropTranslations a b true).putBlock a b none))))
     ∧ (s.isUser = false → c.myBlock = true → blocks move c)
     ∧ (s.isUser = false → c.myBlock = false → (c.walk a = none → status move 1) ∧ ∀ l, c.walk a = some l →
         let frame := b % 2 ^ 52
         let bad := b / 2 ^ 56 ≠ 0 ∨ b / 2 ^ 52 % 4 ≠ 0 ∨ frame % l.size ≠ 0 ∨ (frame < hbmBytes ∧ hbmDie frame ≠ b / 2 ^ 54 % 4)
         let held := l.cls = clsMigrating ∨ l.cls = clsPoisoned
         ((l.p = false ∨ a % l.size ≠ 0) → status move 1) ∧ (l.p = true → a % l.size = 0 →
           (held → status move 2) ∧ (¬ held → l.size = 2 ^ 30 → status move 3) ∧ (¬ held → l.size ≠ 2 ^ 30 → bad → status move 4)
           ∧ (¬ held → l.size ≠ 2 ^ 30 → ¬ bad →
             let met := ∃ x ∈ c.blocks, extentsMeet x.base x.size l.va l.size = true
             (met → waits move) ∧ (¬ met → c.copiesHold l.va l.size = false → after move (c.migrate l frame (b / 2 ^ 54 % 4)) 0)
             ∧ (¬ met → c.copiesHold l.va l.size = true → blocks move ((c.setClass l clsMigrating).putBlock l.va l.size (some (frame, b / 2 ^ 54 % 4, l.cls)))))))
     ∧ (s.isUser = false → (c.rangeEntry c.coreId (a % 256) = none → status switch 1) ∧ ∀ e, c.rangeEntry c.coreId (a % 256) = some e →
         (e.state = 2 → status switch 2) ∧ (e.state ≠ 2 → getT none c.slots (b % 16) = none → status switch 4)
         ∧ (e.state ≠ 2 → getT none c.slots (b % 16) ≠ none →
           ((c.kindOf (b % 16) = kindSwm ↔ c.kindOf e.slot = kindSwm) → status switch 3)
           ∧ (¬ (c.kindOf (b % 16) = kindSwm ↔ c.kindOf e.slot = kindSwm) → c.switchWaits e = false → after switch (c.switchRange e (b % 16)) 0)
           ∧ (¬ (c.kindOf (b % 16) = kindSwm ↔ c.kindOf e.slot = kindSwm) → c.switchWaits e = true → ∃ t, exec switch s = .next t
               ∧ t.ctx.life = .waiting ∧ t.ctx.wait.kind = .rangeSwitch ∧ t.ctx.wait.rd = rd ∧ t.ctx.wait.a = a % 256)))
     ∧ (s.isUser = false → (a % 64 ≠ 0 → exec load s = .next (s.trap load 3 (s.x rs1) false 0 []))
         ∧ (a % 64 = 0 → b % 16 ≤ 6 → status load 3)
         ∧ (a % 64 = 0 → 6 < b % 16 → (∃ i, i < 256 ∧ (c.rangeEntry c.coreId i).map (·.slot) = some (b % 16)) → status load 2)
         ∧ (∀ img u, a % 64 = 0 → 6 < b % 16 → (∀ i, i < 256 → (c.rangeEntry c.coreId i).map (·.slot) ≠ some (b % 16)) → readWords 272 a c = .ok (img, u) →
           ((checkTable img).1 ≠ 0 → after load u (BitVec.ofNat 64 (1 + (checkTable img).1 * 2 ^ 8 + (checkTable img).2.1 * 2 ^ 16 + (checkTable img).2.2 * 2 ^ 20)))
           ∧ ((checkTable img).1 = 0 → after load { u with slots := setT none u.slots (b % 16) (some (tableOfImage img)) } 0)))
     ∧ (s.isUser = false → (c.replayBatch (b % 2 ^ 16) (a % 2 ^ 32) (b / 2 ^ 16 % 2 == 1) = none → after replay c (BitVec.allOnes 64))
         ∧ ∀ n t, c.replayBatch (b % 2 ^ 16) (a % 2 ^ 32) (b / 2 ^ 16 % 2 == 1) = some (n, t) → after replay t (BitVec.ofNat 64 n)))
  ∧ (∀ (s : State) (rd rs1 rs2 : Reg) (pinData : Bool) (la : BitVec 4), s.plain → s.canCommit = true →
       let c := s.commitCur
       let a := (s.x rs1).toNat
       let n := (s.x rs2).toNat
       let i : Instr := .xlpin rd rs1 rs2 pinData la
       let after := fun (t : State) (v : Nat) => exec i s = .next (((t.setReg rd (BitVec.ofNat 64 v)).retiredLong 4 la (.reg rd)).rebase)
       let extent := a % 65536 = 0 ∧ n % 65536 = 0 ∧ n ≠ 0 ∧ a + n ≤ tcmWindow
       let mine := c.locked.filter (·.owner == c.ctx.owner)
       let overlaps := ∃ r ∈ mine, r.base < a + n ∧ a < r.base + r.size
       ((¬ extent ∨ overlaps) → after c 4)
       ∧ (extent → ¬ overlaps → 16 ≤ mine.length → after c 1)
       ∧ (extent → ¬ overlaps → mine.length < 16 →
           (∀ cause va more, c.pinFaults a n = some (cause, va, more) → c.ahead = false →
             exec i s = .next (c.trap i cause (BitVec.ofNat 64 va) false (if cause = 5 then 6 else 0) more))
           ∧ (c.pinFaults a n = none → ∀ o, c.owner? c.ctx.owner = some o →
               let full := ∃ d, d < 4 ∧ (∃ l ∈ c.leaves a n, l.home = d)
                 ∧ 128 * popcount o.dirWays < c.lockedAt c.ctx.owner d + ((c.leaves a n).filter fun l => l.home == d).length
               (full → after c 2) ∧ (¬ full → pinData = true → c.overPinned c.ctx.owner a n = true → after c 3)
               ∧ (¬ full → (pinData = true → c.overPinned c.ctx.owner a n = false) →
                   let v := ({ c with locked := c.locked ++ [{ owner := c.ctx.owner, base := a, size := n, data := pinData, dropped := [] }] } : State).lockLeaves a n
                   after (if pinData then (List.range (n / 128)).foldl (fun u i => u.fillL2 (a / 128 + i) true) v else v) 0))))

/-! ### What happens to waiting threads and ended chunks (06, 09, 22) -/

/-- A wait ends in its slot: the value it returns goes to its rd, and the thread goes on after its instruction. -/
def returned (v : Word) (u : State) : State :=
  let w := u.ctx.wait
  (((({ u with ctx := { u.ctx with life := .ready, wait := {} } } : State).setReg w.rd v).retiredLong 4 ((w.ins.map waitLa).getD 0) (.reg w.rd)).rebase)

/-- R152, R156, R220, R277, R363, R374, R423: a wait whose deadline has passed returns its code (SLEEP 16, WFI 2, XWAIT 4, BWAIT 2, CARRYW 0) or, in a
collective, raises TIMEOUT with the lowest missing rank; one whose deadline has not, waits on. A SYSCALL's thread goes on after its TRAP with the answer in
s4.

R197, R205: a chunk that has ended commits at one point when it may, the floating-point exception it holds being taken then, and what its thread waited to do is tried again; each byte it wrote is then the
committed value there and no other byte is changed (here it wrote no SWM line and no part of a byte, no forward tag is about, and a release in it, or a line it takes
back, finds no SWM copy). A packed store is
performed by the core that owns its memory, under its mask.
The model's own choices in it: log 11, 18, 25, 42, 61. -/
def Obligations.WaitsEndAndChunksCommit : Prop :=
  (∀ (s : State) (core slot : Nat),
     let c := s.ctxAt core slot
     let due := fun (k : WaitKind) => c.life = .waiting ∧ c.wait.kind = k ∧ ∃ t, c.wait.deadline = some t ∧ t ≤ (s.die (dieOf core)).gct
     let ends := fun (ins : Instr) (k : WaitKind) (v : Word) =>
       (due k → exec ins s = .next (s.inSlot core slot (returned v))) ∧ (¬ due k → exec ins s = .next s)
     ends (.sleepTimeout core slot) .sleep 16 ∧ ends (.wfiTimeout core slot) .wfi 2 ∧ ends (.xwaitTimeout core slot) .xwait 4
     ∧ ends (.carrywTimeout core slot) .carryw 0
     ∧ (due .bwait → exec (.bwaitTimeout core slot) s = .next ((s.leaveBarrier core slot).inSlot core slot (returned 2)))
     ∧ (let n := ((s.kernel? c.owner c.knum).map (·.threads)).getD 0
        let here := fun (q : Nat) => ∃ k m d, s.rankAt c.owner c.knum c.group q = some (k, m, d) ∧ d.arrived c.arch.collIndex = true
        ∀ q i, due .collective → c.wait.ins = some i → q < n → ¬ here q → (∀ p, p < q → here p) →
          exec (.collectiveTimeout core slot) s = .next ((s.inSlot core slot fun u =>
            ({ u with ctx := { u.ctx with life := .ready, wait := {} } } : State).takeTrap i 14 (BitVec.ofNat 64 (q % 2 ^ 16)) false 0 []).endKernels))
     ∧ (s.cur = (core, slot) → c.life = .parked → c.wait.kind = .syscall → c.preempted = false → c.rollbackNotice = none →
         ∃ t, exec (.syscallService core slot) s = .next t ∧ sameOutside s t ∧ t.ctx.life = .ready ∧ t.ctx.arch.pc = c.arch.epc + 4
           ∧ t.ctx.arch.regs = c.arch.regs.set 4 ((Config.syscallAnswer c.arch.tval).getD (BitVec.allOnes 64)) ∧ t.ctx.arch.status.getLsbD 5 = false
           ∧ t.ctx.arch.handles = c.arch.handles))
  ∧ (∀ (s : State) (core slot loc : Nat) (p : PackedStore),
       let c := s.ctxAt core slot
       (c.life ≠ .runahead → c.life ≠ .free → c.chunk.full = true →
         exec (.chunkCommit core slot) s = .next (s.inSlot core slot fun u => if u.canCommit then
           (match u.ctx.chunk.fpx with
             | none => { u.commitCur with ctx := u.commitCur.ctx.wake }
             | some v => let t := u.takeTrap .nop 7 v true 0 []; { t with ctx := t.ctx.wake }) else u))
       ∧ (s.cur = (core, slot) → c.life = .waiting → c.wait.kind = .commit → c.chunk.full = false → s.canCommit = true →
           ∃ t, exec (.chunkCommit core slot) s = .next t ∧ t.ctx.life = .ready ∧ t.ctx.arch.pc = c.arch.pc ∧ t.ctx.arch.regs = c.arch.regs
             ∧ t.ctx.arch.windows = c.arch.windows ∧ t.mem = s.commitCur.mem)
       ∧ (Memory.wf s.mem = true → wfT none s.ctx.chunk.writes = true → s.ctx.chunk.swmLines = [] → s.ctx.chunk.parts = [] → s.ctx.chunk.tags = [] →
           s.coh.marks = [] → ((s.ctx.chunk.releases = true ∨ s.ctx.chunk.ownLines ≠ []) → s.coh.swm = []) → s.commitCur.byteAt loc = (getT none s.ctx.chunk.writes loc).getD (s.byteAt loc))
       ∧ (s.packed.find? (·.core == core) = some p →
           let old := s.byteAt p.loc
           let m := BitVec.ofNat 8 p.mask
           exec (.remotePackedStore core) s = .next (({ s with packed := s.packed.erase p } : State).setByte p.loc
             (if m = 0 then p.value else old &&& ~~~m ||| p.value &&& m))))

/-- R386 to R388, R248: a fault batch is written to its owner's log whole, its records at HEAD upward, once the log has room, and until then counts one
wait; lysa serves it, forwards it to the host driver where a record carries H, or ends it; one whose FIRST record cannot be served ends with BAD.
The model's own choices in it: log 11, 140. -/
def Obligations.FaultBatchesAreWrittenAndServed : Prop :=
  ∀ (s : State) (owner id : Nat) (b : Batch) (o : Owner) (first : FaultRecord), s.batch? owner id = some b → s.owner? owner = some o →
    let log := o.flogBase
    let size := s.natAt log 4
    let head := s.natAt (log + 4) 4
    let used := (head + 2 ^ 32 - s.natAt (log + 8) 4) % 2 ^ 32
    let image := fun (r : FaultRecord) => leBytes 8 r.va ++ leBytes 4 id ++ leBytes 4 r.knum ++ leBytes 2 r.who ++ leBytes 1 r.kind ++ leBytes 1 r.flags
      ++ leBytes 2 owner ++ leBytes 2 0 ++ leBytes 8 r.aux
    let put := b.records.zipIdx.foldl (fun (u : State) x =>
      u.foreignWrite 0 0 (log + 64 + 32 * ((head + x.2) % 2 ^ 32 % size)) ((log + 64) / 128) (image x.1)) s
    let whole := put.foreignWrite 0 0 (log + 4) (log / 128) (leBytes 4 (head + b.records.length))
    let served := b.records.foldl State.serveRecord s
    let ended := fun (bad : Bool) => ((served.replayBatch owner id bad).map (·.2)).getD served
    let message := leBytes 1 0x85 ++ leBytes 1 b.records.length ++ leBytes 2 b.owner ++ leBytes 4 b.id ++ leBytes 8 b.tick
      ++ List.replicate 48 0 ++ (b.records.map fun r => r.bytes b.id b.owner).flatten
    let forHost := ∃ r ∈ b.records, r.flags / 2 % 2 = 1
    let unwritten := fun (x : Batch) => x.owner == owner && x.id == id && !x.written
    let waits := s.foreignWrite 0 0 (log + 12) (log / 128) (leBytes 4 (s.natAt (log + 12) 4 + 1))
    (s.batches.find? unwritten = some b → used + b.records.length ≤ size → exec (.faultBatchWrite owner id) s =
      .next (State.passTail { whole with batches := whole.batches.erase b ++ [{ b with written := true, tick := (whole.die 0).gct }] } owner s.batches.length))
    ∧ (∀ (u : State) (n : Nat), (∀ x ∈ u.batches, x.owner = owner → x.written = true → x.ended = false) → u.passTail owner n = u)
    ∧ (s.batches.find? unwritten = some b → size < used + b.records.length →
        (b.counted = false → exec (.faultBatchWrite owner id) s =
          .next { waits with batches := waits.batches.map fun x => if x = b then { b with counted := true } else x })
        ∧ (b.counted = true → exec (.faultBatchWrite owner id) s = .next s))
    ∧ (s.batches.find? unwritten = none → exec (.faultBatchWrite owner id) s = .next s)
    ∧ (b.written = true → b.forwarded = false → b.records.head? = some first →
        (served.servable first = false → exec (.faultBatchService owner id) s = .next (ended true))
        ∧ (served.servable first = true → ¬ forHost → exec (.faultBatchService owner id) s = .next (ended false))
        ∧ (served.servable first = true → forHost → (served.owner? owner).bind (·.driver) = none → exec (.faultBatchService owner id) s = .next (ended true))
        ∧ (∀ ep, served.servable first = true → forHost → (served.owner? owner).bind (·.driver) = some ep → exec (.faultBatchService owner id) s =
            .next (({ served.askUe owner with outputs := (served.askUe owner).outputs ++ [{ endpoint := ep, bytes := message, domain := 0, held := false }] } : State).mapBatch owner id
              fun b => { b with forwarded := true })))
    ∧ (∀ core slot, (s.ctxAt core slot).waitsOn owner id = true → (s.ctxAt core slot).preempted = false →
        let c := (s.releaseCtx owner core slot id false).ctxAt core slot
        c.life = .ready ∧ c.arch = (s.ctxAt core slot).arch)

/-! ### Requests to lysa (07 R157 to R170, 11 R244 to R248) -/

/-- Lysa takes a request with this OP now: it runs, no chunk is locked, a pre-emption need not wait, and the request is the first that waits of its source. A
host is heard over a port that is up; a request of its that arrives now has no number yet, and none of its endpoint's waits. -/
def taken (s : State) (r : Request) (op : Nat) : Prop :=
  let first := s.requests.find? (fun q => q.source == r.source)
  r.op = op ∧ s.platform.stage = 6 ∧ s.lockStands = false ∧ s.preemptWaits r = false ∧ (match r.source with
    | .host ep => ep < 65536 ∧ (∃ u, u < 4 ∧ (s.port (96 + u)).state = .up) ∧ first = if r.arrival = 0 then none else some r
    | .device .. => first = some r)

/-- The request speaks for this owner. -/
def speaksFor (s : State) (r : Request) (o : Owner) : Prop :=
  s.owner? r.owner = some o ∧ o.state ≠ .retired ∧ (match r.source with | .host _ => o.cred = r.cred | .device _ owner _ => owner = r.owner)

/-- No domain has written this memory of the owner in its open interval (23 R406). -/
def settled (s : State) (o : Owner) (reads : List (Nat × Nat)) : Prop := ∀ x ∈ reads, s.openAt o.domain x.1 x.2 = none

/-- R161, R167 to R169: LAUNCH, ABORT, PREEMPT and QUERY: who may ask, what is answered, and what is done; an unknown OP is BADOP. A host is answered at
its endpoint by the 64 bytes of R169.
The model's own choices in it: log 43, 117, 118, 119, 120, 129, 130, 216. -/
def Obligations.KernelRequestsAreAnswered : Prop :=
  ∀ (s : State) (r : Request) (o : Owner) (k : Kernel) (chain : List Node),
    let u := s.takeRequest r
    let reply := fun (st : Nat) => u.answer r.source r.chand 0 (u.replyBytes 0x81 st r.owner 0 r.rcb r.tag 0 0 0)
    let told := fun (u : State) (k : Kernel) (kind st : Nat) => u.answer r.source r.chand 0
      (u.replyBytes kind st k.owner k.state.code k.node k.tag k.knum k.nfault (if u.recordWritable k ∧ 0 < k.nfault then k.frecBuf else 0))
    let about := told u k
    let resume := r.mflags % 2
    let plain := fun (ins : Instr) => (u.tagged r.owner r.tag = none → exec ins s = .next (reply 4))
    (¬ (∃ o, speaksFor s r o) →
      (taken s r 1 → exec (.launch r) s = .next (reply 1)) ∧ (taken s r 2 → exec (.abort r) s = .next (reply 1))
      ∧ (taken s r 3 → resume = 0 → exec (.preempt r) s = .next (reply 1)) ∧ (taken s r 3 → resume = 1 → exec (.preemptResume r) s = .next (reply 1))
      ∧ (taken s r 4 → exec (.query r) s = .next (reply 1)))
    ∧ (speaksFor s r o → taken s r 1 → settled s o (s.chainReads o.domain 8 r.rcb) →
        (∀ j, u.tagged r.owner r.tag = some j → exec (.launch r) s = .next (reply 6))
        ∧ (u.tagged r.owner r.tag = none →
          (u.readChain o.domain 8 r.rcb [] = none → exec (.launch r) s = .next (reply 2))
          ∧ (u.readChain o.domain 8 r.rcb [] = some chain →
            let n := kernelOf o r chain
            (n.refused chain = true → exec (.launch r) s = .next (reply 2))
            ∧ (n.refused chain = false → n.neverFits o = true → exec (.launch r) s = .next (reply 3))
            ∧ (n.refused chain = false → n.neverFits o = false → n.state = .queued ∧ n.knum = o.knumNext ∧ exec (.launch r) s =
                .next (((u.putOwner { o with knumNext := (o.knumNext + 1) % 2 ^ 32 }).putKernel n).ackKernel r 0x81 0 n)))))
    ∧ (speaksFor s r o → taken s r 2 → plain (.abort r) ∧ (u.tagged r.owner r.tag = some k → exec (.abort r) s =
        .next (((((about 0x81 0).logOrder k r.source (.abort k.owner k.knum)).orderAbort k).wakeRetries).endKernels)))
    ∧ (speaksFor s r o → taken s r 3 → resume = 0 → plain (.preempt r) ∧ (u.tagged r.owner r.tag = some k →
        -- lysa acts first on a context of the kernel that is FAULTED
        let v := u.serveFaulted k.owner k.knum
        let j := (v.kernel? k.owner k.knum).getD k
        (j.state ≠ .running → exec (.preempt r) s = .next ((told v j 0x81 5).endKernels))
        ∧ (j.state = .running → exec (.preempt r) s =
            .next ((((told v j 0x81 0).logOrder j r.source (.preempt j.owner j.knum false)).preemptKernel j false).endKernels))))
    ∧ (speaksFor s r o → taken s r 3 → resume = 1 → plain (.preemptResume r) ∧ (u.tagged r.owner r.tag = some k →
        (k.state ≠ .preempted → k.state ≠ .faulted → exec (.preemptResume r) s = .next (about 0x81 5))
        ∧ ((k.state = .preempted ∨ k.state = .faulted) →
          let t := (about 0x81 0).logOrder k r.source (.preempt k.owner k.knum true)
          exec (.preemptResume r) s = .next (if k.forPriority then t else (t.resumeKernel k).endKernels))))
    ∧ (speaksFor s r o → taken s r 4 → plain (.query r) ∧ (u.tagged r.owner r.tag = some k → exec (.query r) s = .next (about 0x83 0)))
    ∧ (speaksFor s r o → ¬ (1 ≤ r.op ∧ r.op ≤ 4) → ¬ (20 ≤ r.op ∧ r.op ≤ 25) → taken s r r.op → exec (.badopRequest r false) s = .next (reply 9))
    ∧ (∀ ep, r.source = .host ep → r.cred = Config.adminCred → ¬ (16 ≤ r.op ∧ r.op ≤ 19) → taken s r r.op →
        exec (.badopRequest r true) s = .next (s.answer r.source r.chand 0 (s.replyBytes 0x81 9 r.owner 0 r.rcb r.tag 0 0 0)))
    ∧ (∀ ep h bytes, let t := s.askUe (ofLeBytes ((bytes.drop 2).take 2))
        s.answer (.host ep) h 0 bytes = { t with outputs := t.outputs ++ [{ endpoint := ep, bytes := bytes, domain := 0, held := false }] })
    ∧ (k.state = .queued → s.orderAbort k = s.finishKernel { k with aborting := true, status := 8 })

/-- R247, R388: a memory request whose 64-byte descriptor lysa can read takes effect where nothing refuses it, and changes nothing but its answer where
something does.

R419: an RDMA packet inside a window of its owner that gives the right, over pages the owner has the right to, is performed; any other fails and touches no
memory; one that meets a page that migrates waits. Its operation completes with its last packet: with 0 and what was read, or, where a packet of it failed, with an
access error.
The model's own choices in it: log 121, 142, 145, 146, 147, 148, 149, 202, 225, 226. -/
def Obligations.MemoryRequestsAndRdmaTakeEffect : Prop :=
  (∀ (s : State) (r : Request) (o p : Owner) (d : List Byte), speaksFor s r o → settled s o [(r.rcb, 64)] → r.rcb % 64 = 0 →
     let u := (s.takeRequest r).noteDriver o r
     (u.owner? o.id).getD o = p → u.ownerRead p.domain 64 r.rcb = .ok d →
     let f := fun (at' n : Nat) => ofLeBytes ((d.drop at').take n)
     let zeroFrom := fun (at' : Nat) => ∀ x ∈ d.drop at', x = 0
     let base := f 0 8
     let size := f 8 8
     let extent := base % 65536 = 0 ∧ size % 65536 = 0 ∧ size ≠ 0 ∧ base + size ≤ tcmWindow
     let answers := fun (ins : Instr) (t : State) (st : Nat) => exec ins s = .next (t.answer r.source r.chand 0 (t.replyBytes 0x81 st r.owner 0 r.rcb r.tag 0 0 0))
     let mine := (u.leaves base size).filter fun l => l.domain == p.domain
     (taken s r 20 →
       let good := extent ∧ inZeroPage base = false ∧ f 16 1 ≤ 7 ∧ f 17 1 ≤ 31 ∧ f 19 1 ≤ 2 ∧ f 20 2 ≤ 4095 ∧ f 22 1 ≤ 7 ∧ zeroFrom 23 ∧ (f 17 1 / 8 % 2 = 1 → f 18 1 ≤ 3)
       let put := (pagesOver base size (2 ^ 30)).foldlM (fun (t : State) x => t.mapPage p d x.1 x.2) u
       (¬ good → answers (.map r) u 2) ∧ (good → u.leaves base size ≠ [] → answers (.map r) u 6)
       ∧ (good → u.leaves base size = [] → put = none → answers (.map r) u 3) ∧ (∀ t, good → u.leaves base size = [] → put = some t → answers (.map r) t 0))
     ∧ (taken s r 21 → (¬ (extent ∧ zeroFrom 16) → answers (.unmap r) u 2) ∧ (extent → zeroFrom 16 → mine = [] → answers (.unmap r) u 4)
         ∧ (∀ t, extent → zeroFrom 16 → mine ≠ [] → s.unmapWaits r = false → u.unmapLeaves mine base size = some t → answers (.unmap r) t 0)
         ∧ (s.unmapWaits r = true → ∃ t, exec (.unmap r) s = .next t ∧ (∃ q ∈ t.requests, q = { r with arrival := q.arrival }) ∧ t.mem = s.mem ∧ t.outputs = s.outputs))
     ∧ (taken s r 22 →
         let good := extent ∧ zeroFrom 17 ∧ f 16 1 % 4 = 0 ∧ f 16 1 / 8 % 2 = 0 ∧ f 16 1 < 32
         let give := mine.foldlM (fun (t : State) l => t.present l (f 16 1 / 4 % 2 == 1) (f 16 1 / 16 % 2 == 0)) u
         (¬ good → answers (.populate r) u 2) ∧ (good → mine = [] → answers (.populate r) u 4) ∧ (good → mine ≠ [] → give = none → answers (.populate r) u 3)
         ∧ (∀ t, good → mine ≠ [] → give = some t → answers (.populate r) t 0))
     ∧ (taken s r 23 →
         let good := extent ∧ zeroFrom 18 ∧ f 16 1 ≤ 15 ∧ f 17 1 / 4 % 32 = 0
         let others := p.windows.filter fun w => w.1 != f 16 1
         let meets := ∃ w ∈ others, w.2.1 < base + size ∧ base < w.2.1 + w.2.2.1
         (¬ good → answers (.window r) u 2)
         ∧ (good → f 17 1 / 128 = 1 → answers (.window r) (u.putOwner { p with windows := others }) 0)
         ∧ (good → f 17 1 / 128 ≠ 1 → meets → answers (.window r) u 6)
         ∧ (good → f 17 1 / 128 ≠ 1 → ¬ meets → answers (.window r) (u.putOwner { p with windows := others ++ [(f 16 1, base, size, f 17 1 % 4)] }) 0))
     ∧ (∀ bytes t, taken s r 24 → size ≠ 0 → size ≤ 64 → zeroFrom 16 → u.ownerRead p.domain (32 * size) base = .ok bytes →
         (∀ i, i < size → descExtent ((bytes.drop (32 * i)).take 32) = true ∧ descField ((bytes.drop (32 * i)).take 32) 16 1 ≤ 6
           ∧ descTail ((bytes.drop (32 * i)).take 32) 17 = false) →
         u.applyRanges p bytes size = (0, t) → answers (.ranges r) t 0)
     ∧ (taken s r 25 → zeroFrom 5 → f 4 1 ≤ 1 → (u.replayBatch p.id (f 0 4) (f 4 1 == 1) = none → answers (.faultans r) u 4)
         ∧ ∀ n t, u.replayBatch p.id (f 0 4) (f 4 1 == 1) = some (n, t) → answers (.faultans r) t 0))
  ∧ (∀ (s : State) (p : RdmaPacket) (va n : Nat) (bytes : List Byte) (o : Owner), s.platform.stage = 6 → s.hostReachable = true → s.owner? p.owner = some o → o.id = p.owner →
       let inWindow := fun (n right : Nat) => ∃ w ∈ o.windows, w.2.1 ≤ va ∧ va + n ≤ w.2.1 + w.2.2.1 ∧ w.2.2.2 / 2 ^ right % 2 = 1
       let allowed := fun (right : Nat) (a : Nat) => ∃ l, s.walk a = some l ∧ l.cls ≠ clsMigrating ∧ s.switchingAt a = false ∧ l.cls ≠ clsPoisoned ∧ l.p = true
         ∧ l.frame < 2 ^ 51 ∧ (l.rightsOf o.domain &&& right) = right
       let good := fun (n right bit : Nat) => inWindow n right ∧ ∀ x ∈ packetParts va n, allowed bit x.1
       let waits := fun (n : Nat) => ∃ x ∈ packetParts va n, ∃ l, s.walk x.1 = some l ∧ (l.cls = clsMigrating ∨ s.switchingAt x.1 = true)
       let logged := (s.domains.filter (·.owner == p.owner)).foldl (fun (u : State) d => u.logInput d.id (.rdma p.owner va bytes)) s
       let known := (s.rdma.find? fun x => x.owner == p.owner && x.op == p.op).getD { owner := p.owner, op := p.op, failed := false, data := [] }
       let others := s.rdma.filter fun x => !(x.owner == p.owner && x.op == p.op)
       (good bytes.length 1 2 → exec (.rdmaWrite p va bytes) s = .next (((packetParts va bytes.length).foldl (fun (u : State) x =>
           u.foreignWrite 0 p.owner (u.rdmaLoc x.1) (x.1 / 128) ((bytes.drop (x.1 - va)).take x.2)) logged).rdmaStep p false []).wakeRetries)
       ∧ (¬ good bytes.length 1 2 → ¬ waits bytes.length → exec (.rdmaWrite p va bytes) s = .next (s.rdmaStep p true []))
       ∧ (good n 0 4 → s.openAt o.domain va n = none → exec (.rdmaRead p va n) s =
           .next (s.rdmaStep p false ((List.range n).map fun i => s.byteAt (s.rdmaLoc (va + i)))))
       ∧ (¬ good n 0 4 → ¬ waits n → exec (.rdmaRead p va n) s = .next (s.rdmaStep p true []))
       ∧ (inWindow n 0 → waits n → (∀ x ∈ packetParts va n, allowed 4 x.1 ∨ ∃ l, s.walk x.1 = some l ∧ (l.cls = clsMigrating ∨ s.switchingAt x.1 = true)) →
           exec (.rdmaRead p va n) s = .next s)
       ∧ (∀ failed data, let t := s.askUe p.owner
           let x : RdmaOp := { known with failed := known.failed || failed, data := known.data ++ data }
           (p.last = false → s.rdmaStep p failed data = { t with rdma := others ++ [x] })
           ∧ (p.last = true → s.rdmaStep p failed data = { t with rdma := others, outputs := t.outputs ++
               [{ endpoint := 2 ^ 16 + p.owner, bytes := if x.failed then [1] else 0 :: x.data, domain := 0, held := false }] })))

/-- R244 to R246, R407, R426: an administrator's OWNER_CREATE is refused in its order or makes a CREATED owner with its fault log; PARTITION_READY zeroes its
partition and makes it ACTIVE; OWNER_RETIRE ends its kernels first and then gives all back; SEAMJOIN adds a peer module to a founded domain; an attestation is
answered with the signed report.
The model's own choices in it: log 131, 133, 134, 135, 159, 160, 164, 200, 213. -/
def Obligations.OwnersAreAdministered : Prop :=
  ∀ (s : State) (r : Request) (ep : Nat) (b : List Byte) (o : Owner) (k : Kernel) (d : SeamDomain), r.source = .host ep →
    let ack := fun (u : State) (st : Nat) => u.answer r.source r.chand 0 (u.replyBytes 0x81 st r.owner 0 r.rcb r.tag 0 0 0)
    let new := ownerOf b
    let create := exec (.ownerCreate r b) s
    let retire := exec (.ownerRetire r) s
    let join := exec (.seamjoin r) s
    (r.cred ≠ Config.adminCred → (taken s r 16 → create = .next (ack s 1)) ∧ (taken s r 17 → retire = .next (ack s 1)) ∧ (taken s r 18 → join = .next (ack s 1)))
    ∧ (r.cred = Config.adminCred → taken s r 16 →
        ((recordBad b = true ∨ r.rcb ≠ 0) → create = .next (ack s 2))
        ∧ (recordBad b = false → r.rcb = 0 →
          let used := ∃ x ∈ s.allOwners, x.id = new.id ∨ x.domain = new.domain
          let clash := (∃ x ∈ s.allOwners, x.overlaps new = true) ∨ s.namesSpared new = true ∨ oversharing (s.allOwners ++ [new]) = true
          (used → create = .next (ack s 6)) ∧ (¬ used → clash → create = .next (ack s 3)) ∧ (¬ used → ¬ clash → s.allocLysa (2 ^ 22) = none → create = .next (ack s 3))
          ∧ (∀ log u, ¬ used → ¬ clash → s.allocLysa (2 ^ 22) = some (log, u) → ∃ v : State, create = .next (ack v 0)
              ∧ v.owner? new.id = some { new with flogBase := log } ∧ new.state = .created ∧ v.kernels = s.kernels ∧ v.cores = s.cores)))
    ∧ (s.owner? o.id = some o →
        (o.state = .created → ∃ v : State, exec (.partitionReady o.id) s = .next (v.putOwner { o with state := .active }) ∧ v.owners = s.owners ∧ v.cores = s.cores)
        ∧ (o.state ≠ .created → exec (.partitionReady o.id) s = .next s))
    ∧ (r.cred = Config.adminCred → taken s r 17 →
        (s.owner? r.owner = none → retire = .next (ack s 4))
        ∧ (s.owner? r.owner = some o → o.retire = some r → s.liveKernels o.id = [] → s.domainHolds o.domain = false → retire = .next ((ack (s.retireOwner o) 0).wakeRetries))
        ∧ (s.owner? r.owner = some o → o.retire = none →
          let u := ((s.liveKernels o.id).foldl (fun (u : State) k => u.orderAbort k) (s.putOwner { o with retire := some r })).endKernels
          retire = .next (if u.liveKernels o.id = [] ∧ u.domainHolds o.domain = false then (ack (u.retireOwner o) 0).wakeRetries else u)))
    ∧ (r.cred = Config.adminCred → taken s r 18 →
        (s.tagged r.owner r.tag = none → join = .next (ack s 4))
        ∧ (s.tagged r.owner r.tag = some k → s.domains.find? (fun d => d.owner == k.owner && d.root == k.knum) = none → join = .next (s.ackKernel r 0x81 5 k))
        ∧ (s.tagged r.owner r.tag = some k → s.domains.find? (fun d => d.owner == k.owner && d.root == k.knum) = some d → r.rcb % 2 ^ 16 ∉ d.peers →
          (d.peers.length < 7 → let theirs := Config.peerSeq s.fresh
            join = .next ((({ s with fresh := s.fresh + 1 } : State).mapDomain d.id fun d => { d with
              peers := d.peers ++ [r.rcb % 2 ^ 16], seq := if d.seq.toNat < theirs.toNat then theirs else d.seq }).ackKernel r 0x81 0 k))
          ∧ (7 ≤ d.peers.length → join = .next (s.ackKernel r 0x81 3 k))))
    ∧ (taken s r 19 →
        let report := leBytes 8 0x84 ++ (leBytes 8 r.rcb ++ leBytes 8 r.tag) ++ leBytes 8 (s.links.moduleId % 2 ^ 16) ++ sha512 Config.firmwareImage
          ++ sha512 s.platform.lysaImage ++ sha512 s.slotImages ++ List.replicate 352 0
        let sent := fun (u : State) (x : List Byte) =>
          ({ u.askUe r.owner with outputs := (u.askUe r.owner).outputs ++ [{ endpoint := ep, bytes := x, domain := 0, held := false }] } : State)
        exec (.attestationRequest r) s = .next (sent (sent s (report ++ (Config.identitySignature report).toList)) Config.certificate))

/-- R133, R162, R164 to R166, R168, R149: a queued kernel whose turn it is, whose cores are there and whose budget allows it, is placed: its seed is
latched, its cores, threads and registers start as R133 says; one whose chain has no SEAMDOM is in no seam domain, and one that finds no domain id waits for it. Lysa pre-empts kernels of lower priority for it, spills them once their engines are idle, and
resumes them on their own cores in the order of their numbers, unless these cores are released to a queued kernel they would serve.
The model's own choices in it: log 11, 121, 124, 127, 128, 158, 200. -/
def Obligations.KernelsArePlacedAndPreempted : Prop :=
  ∀ (s : State) (k : Kernel) (o : Owner) (gs : List Group) (held : List Nat), s.kernel? k.owner k.knum = some k → s.owner? k.owner = some o →
    let ready := k.state = .queued ∧ o.state = .active ∧ s.turn k o = true
    let place := exec (.kernelPlacement k.owner k.knum) s
    (¬ ready → place = .next s)
    ∧ (ready → s.placement k o = none → place = .next s)
    ∧ (ready → s.placement k o = some (gs, held) → s.withinBudget k held.length = false → place = .next s)
    ∧ (∀ dom t tcm spad, ready → s.placement k o = some (gs, held) → s.withinBudget k held.length = true → s.imageOpen k o = none →
        s.enterDomain k = some (dom, t) →
        t.readImage o.domain k.tcmLen k.tcmImg = .ok tcm → t.readImage o.domain k.spadLen k.spadImg = .ok spad →
        let seed := (k.seed.map (BitVec.ofNat 64)).getD o.seed
        let u := ((t.takeCores k o seed gs held).loadImages held tcm spad).putKernel
          { k with state := .running, kseed := seed, held := held, groups := gs, seamDomain := dom, idWait := false }
        let v := gs.foldl (fun (u : State) g => (List.range k.threads).foldl (fun (u : State) r =>
          u.setCtxAt (g.cores.getD (r % k.gcores) 0) (r / k.gcores) (k.thread o (k.regs o seed) g.index r)) u) u
        (v.kernel? k.owner k.knum).map (·.state) = some .running →
          place = .next (if dom ≠ 0 ∧ (s.domain? dom).isNone then v.mapDomain dom fun d => { d with checkpoint := v.checkpoint dom } else v))
    ∧ (ready → s.placement k o = some (gs, held) → s.withinBudget k held.length = true → s.imageOpen k o = none → s.enterDomain k = none →
        place = .next (s.putKernel { k with idWait := true }))
    ∧ ((∀ n ∈ k.chain, n.seamDom = false) → s.joins k = none → s.enterDomain k = some (0, s))
    ∧ (∀ kr g r, let c := k.thread o kr g r
        c.life = .ready ∧ c.arch.pc = BitVec.ofNat 64 k.entry ∧ c.arch.regs[1] = BitVec.ofNat 64 r ∧ c.arch.regs[2] = BitVec.ofNat 64 k.threads
        ∧ c.arch.regs[3] = BitVec.ofNat 64 g ∧ (k.args.length = 8 → ∀ i : Fin 8, c.arch.regs[4 + i.val]? = some (BitVec.ofNat 64 (k.args.getD i.val 0)))
        ∧ (k.args.length = 8 → c.arch.regs[12] = BitVec.ofNat 64 k.node ∧ c.arch.regs[13] = BitVec.ofNat 64 (tcmWindow + tcmBytes k.cgran)
            ∧ c.arch.regs[14] = 0 ∧ c.arch.regs[15] = 0) ∧ c.arch.regs[0] = 0 ∧ c.rank = r ∧ c.group = g)
    ∧ (∀ vs, ready → (∀ j ∈ s.allKernels, ¬ (j.owner = k.owner ∧ j.state = .preempted ∧ j.forPriority = true ∧ j.held ≠ [])) → s.lockStands = false →
        s.stopWaits k.owner = false → s.faultPends k.owner = false → s.victims k o = some vs →
        exec (.priorityPreemption k.owner k.knum) s = .next (if ∃ v ∈ vs, s.seamBars v = true then s
          else (vs.foldl (fun (u : State) v => u.preemptKernel v true) s).endKernels)
        ∧ ∀ v ∈ vs, v ∈ s.allKernels ∧ v.owner = k.owner ∧ v.state = .running ∧ v.prio < k.prio)
    ∧ (k.state = .preempted → k.forPriority = true → k.held ≠ [] →
        exec (.gangPreemption k.owner k.knum) s = .next (if s.enginesBusy k then s else s.spillKernel k))
    ∧ (k.state = .preempted → k.forPriority = true → k.held = [] → s.canFill k = true → s.firstSpilled k = true → s.claimed k = false →
        exec (.kernelResume k.owner k.knum) s = .next (((((s.fillKernel k).kernel? k.owner k.knum).map (s.fillKernel k).resumeKernel).getD (s.fillKernel k)).endKernels))

/-! ### Homes and dies (10 R227 to R237, 13 R270) -/

/-- What one event at the home of a free line does, by the action word w of its table (R234): the directory entry it leaves, the messages it sends, the
answer to the requester with the class it is granted, and the answers it waits for. -/
def homeAnswer (before : State) (t : ProtoTable) (ev line core : Nat) : State :=
  let s := before.askHome line core
  let old := (getT none s.coh.dir line).getD { state := t.init, sharers := 0, owner := none }
  let w := t.action.getD (32 * old.state + ev) 0
  let on := fun (k : Nat) => decide (w / 2 ^ k % 2 = 1)
  let die := core / 128
  let asks := decide (ev ≠ 7 ∧ ev ≠ 8 ∧ ev ≠ 9)
  let m0 := if on 18 then 0 else old.sharers
  let m1 := if on 17 ∧ m0 / 2 ^ die % 2 = 0 then m0 + 2 ^ die else m0
  let mask := if on 14 ∧ m1 / 2 ^ die % 2 = 1 then m1 - 2 ^ die else m1
  let next : DirEntry := { state := w % 16, sharers := mask, owner := if on 16 then some die else if on 15 then none else old.owner }
  let next := if old.sharers ≠ 0 ∧ mask = 0 ∧ t.attr.getD (w % 16) 0 / 2 % 2 = 0 then { state := t.init, sharers := 0, owner := none } else next
  let others := [0, 1, 2, 3].filter fun d => old.sharers / 2 ^ d % 2 == 1 && !(asks && d == die)
  let to' := match w / 2 ^ 11 % 8 with
    | 1 => if asks then [die] else []
    | 2 => old.owner.toList
    | 3 => others
    | 4 => [0, 1, 2, 3].filter fun d => !(asks && d == die)
    | _ => []
  let msg := w / 2 ^ 7 % 16
  let attr := t.attr.getD (w % 16) 0
  let grant := if attr / 4 % 2 = 1 then 2 else if attr / 8 % 2 = 1 then 1 else 0
  let message := fun (kind d : Nat) => ({ kind := kind, line := line, die := d, req := core, grant := grant } : ProtoMsg)
  let sent := if msg = 0 then [] else to'.map fun d => { message msg d with toOwner := decide ((msg = 2 ∨ msg = 3) ∧ old.owner = some d) }
  let updates := if on 20 ∧ msg ≠ 4 then others.map fun d => { message 4 d with grant := 0 } else []
  let data := decide ((ev = 0 ∨ ev = 1 ∨ ev = 5) ∧ msg ≠ 2 ∧ msg ≠ 3)
  let answer := if ev = 2 then [message 18 die] else if data then [message 16 die] else []
  let owed := if w / 2 ^ 4 % 8 = 1 then (sent ++ updates).length else 0
  let awaits := decide (w / 2 ^ 4 % 8 = 2) && data
  { s with coh := { s.coh with
      dir := setT none s.coh.dir line (if next = { state := t.init, sharers := 0, owner := none } then none else some next)
      behind := if on 19 then setT none s.coh.behind line none else s.coh.behind
      msgs := s.coh.msgs ++ (sent ++ updates) ++ answer
      busy := if owed = 0 ∧ awaits = false then s.coh.busy else { line := line, answers := owed, data := awaits, req := core } :: s.coh.busy } }

/-- A die's copies of a line are gone. -/
def withoutDie (s : State) (line die : Nat) : State :=
  { s with coh := { s.coh with
      holders := setT [] s.coh.holders line ((getT [] s.coh.holders line).filter fun k => k / 128 != die)
      l1 := dropTags s.coh.l1 fun k l => k / 128 == die && l == line, filters := dropFilters s.coh.filters fun d l => d == die && l == line } }

/-- R227, R233 to R236, R270: an event at a free line does what its table's action word says, and one at a busy line queues, as does
one whose action has LEASE while leases stand; a die that drops its last
copy reports PUTS, or PUTM where it owns the line in a DIRTY state; a die answers each message that asks it to; and with the last answer the line frees and its oldest queued
event runs. A read that has become final consumes a forward mark, and an expired lease is dropped (R229, R237); an access that conflicts with the class of its CLS
page makes the page SHARED. The words of INV are those that the spec
prints.
The model's own choices in it: log 11, 30, 31, 32, 34. -/
def Obligations.HomesAndDiesAnswerEvents : Prop :=
  (∀ (s : State) (core line : Nat) (t : ProtoTable), s.tableOf core line = some t →
    let state := ((getT none s.coh.dir line).map (·.state)).getD t.init
    let holds := fun (d : Nat) => ∃ k ∈ getT [] s.coh.holders line, k / 128 = d
    let dirty := ∃ e, getT none s.coh.dir line = some e ∧ e.owner = some (core / 128) ∧ t.attr.getD e.state 0 / 2 % 2 = 1
    let clean := { s with coh := { s.coh with behind := setT none s.coh.behind line none } }
    let does := fun (ins : Instr) (u : State) (ev : Nat) =>
      let w := t.action.getD (32 * state + ev) 0
      let v := u.askHome line core
      let later := { v.coh with queue := v.coh.queue ++ [{ event := ev, line := line, req := core }] }
      let free := ∀ b ∈ s.coh.busy, b.line ≠ line
      (free → w / 2 ^ 23 % 2 = 1 → ¬ (w / 2 ^ 21 % 2 = 1 ∧ s.leased line = true) → exec ins s = .next (homeAnswer u t ev line core))
      ∧ (free → w / 2 ^ 23 % 2 = 1 → w / 2 ^ 21 % 2 = 1 → s.leased line = true → exec ins s = .next { v with coh := { later with
          busy := { line := line, answers := 0, data := false, req := core, lease := true } :: v.coh.busy } })
      ∧ (¬ free → exec ins s = .next { v with coh := later })
    does (.gets core line) s 0 ∧ does (.getm core line) s 1 ∧ does (.atomic core line) s 5 ∧ does (.write core line) s 6
    ∧ (holds (core / 128) → does (.upgrade core line) s 2
        ∧ (¬ dirty → does (.puts core line) (withoutDie s line (core / 128)) 3 ∧ exec (.putm core line) s = .next s)
        ∧ (dirty → does (.putm core line) (withoutDie clean line (core / 128)) 4 ∧ exec (.puts core line) s = .next s))
    ∧ (¬ holds (core / 128) → exec (.upgrade core line) s = .next s ∧ exec (.puts core line) s = .next s ∧ exec (.putm core line) s = .next s)
    ∧ ((getT [] s.coh.holders line).headD 0 = core → does (.recallLine line) s 8 ∧ ((getT none s.coh.dir line).isSome → does (.dirEvict line) s 7)
        ∧ (s.coh.marks = [] → s.coh.stale = [] → does (.flush line) s 9)))
  ∧ (∀ (s : State) (die line kind : Nat) (m : ProtoMsg), m.die = die → m.line = line → m.kind = kind →
      let ins := match kind with
        | 1 => Instr.inv die line | 2 => .fwdS die line | 3 => .fwdM die line | 4 => .update die line | 5 => .dieRecall die line | 16 => .data die line
        | 18 => .data die line | 19 => .data die line | _ => .ack die line
      let kinds := if kind = 6 ∨ kind = 17 then [6, 17] else if kind = 16 ∨ kind = 18 ∨ kind = 19 then [16, 18, 19] else [kind]
      s.coh.msgs.find? (fun x => kinds.contains x.kind && x.die == die && x.line == line) = some m →
      let u := { s with coh := { s.coh with msgs := s.coh.msgs.erase m } }
      let answers := fun (v : State) => { v with coh := { v.coh with msgs := v.coh.msgs
        ++ (if m.toOwner then [{ kind := 19, line := line, die := m.req / 128, req := m.req, grant := m.grant }] else [])
        ++ [{ kind := 17, line := line, die := die, req := m.req }] } }
      ((kind = 1 ∨ kind = 3 ∨ kind = 5) → exec ins s = .next (answers (withoutDie u line die)))
      ∧ ((kind = 2 ∨ kind = 4) → exec ins s = .next (answers u)) ∧ ((kind = 6 ∨ kind = 18 ∨ kind = 19) → exec ins s = .next u)
      ∧ (∀ b, u.coh.busy = [b] → b.line = line → ((kind = 17 ∧ 1 ≤ b.answers) ∨ (kind = 16 ∧ b.data = true)) →
          let left : Busy := if kind = 16 then { b with data := false } else { b with answers := b.answers - 1 }
          let free := { u with coh := { u.coh with busy := [] } }
          ((left.answers ≠ 0 ∨ left.data = true ∨ left.lease = true) → exec ins s = .next { u with coh := { u.coh with busy := [left] } })
          ∧ (left.answers = 0 → left.data = false → left.lease = false →
            (u.coh.queue = [] → exec ins s = .next free)
            ∧ (∀ q rest, u.coh.queue = q :: rest → q.line = line →
                exec ins s = .next (({ free with coh := { free.coh with queue := rest } } : State).homeEvent q.event line q.req)))))
  ∧ (∀ (s : State) (core line : Nat) (m : FwdMark), getT none s.coh.marks line = some m → m.core ≠ core → exec (.fwdtagConsume core line) s = .next s)
  ∧ (∀ (s : State) (core line loc : Nat) (m : FwdMark) (bs : List Byte), getT none s.coh.marks line = some m → m.core = core →
      getT none s.coh.stale line = some bs → Memory.wf s.mem = true → ∃ t, exec (.fwdtagConsume core line) s = .next t
        ∧ t.byteAt loc = (if 128 * line ≤ loc ∧ loc < 128 * line + bs.length then bs.getD (loc - 128 * line) 0 else s.byteAt loc))
  ∧ (∀ (s : State) (core line t : Nat), getT none s.coh.leases (core * 2 ^ 64 + line) = some t →
      ((s.die (core / 128)).gct < t → exec (.leaseExpiry core line) s = .next s)
      ∧ (t ≤ (s.die (core / 128)).gct →
          let u : State := { s with coh := { s.coh with
            leases := setT none s.coh.leases (core * 2 ^ 64 + line) none, l1 := dropTags s.coh.l1 fun k l => k == core && l == line } }
          ((∀ b ∈ s.coh.busy, b.line = line → b.lease = false) → exec (.leaseExpiry core line) s = .next u.wakeRetries)
          ∧ (u.leased line = true → exec (.leaseExpiry core line) s = .next u.wakeRetries)
          ∧ (∀ b, u.leased line = false → s.coh.busy = [b] → b.line = line → b.lease = true → exec (.leaseExpiry core line) s =
              .next ((({ u with coh := { u.coh with busy := [{ b with lease := false }] } } : State).unbusy line).wakeRetries))))
  ∧ (∀ (s : State) (core va : Nat) (write : Bool) (l : Leaf), s.walk va = some l →
      let conflict := (s.governs core (s.core core).owner va).1 = kindCls ∧ ((l.cls = 1 ∧ l.pcore ≠ core) ∨ (l.cls = 2 ∧ write = true))
      (conflict →
          let v := (s.flushExtent l.va l.size).setClass l 0
          let w : State := { v with coh := { v.coh with
            dir := setT none v.coh.dir (va / 128) (some { state := if l.cls = 1 then 5 else 6, sharers := 0, owner := none }) } }
          exec (.reclassify { core := core, va := va, write := write }) s = .next ((w.transact 10 (va / 128) core).wakeRetries))
      ∧ (¬ conflict → exec (.reclassify { core := core, va := va, write := write }) s = .next s))
  ∧ tableInv.action.getD 0 0 = 0x00830022 ∧ tableInv.action.getD 1 0 = 0x00830024 ∧ tableInv.action.getD 128 0 = 0x00821113
  ∧ tableInv.action.getD 99 0 = 0x00804003 ∧ tableInv.action.getD 97 0 = 0x00872194 ∧ tableInv.attr.take 5 = [0x01, 0x19, 0x15, 0x1B, 0x17]

/-! ### Seams, errors and rollback (23 R396 to R406, R411) -/

/-- A domain after a trigger: the first one gives the seam its tag and, unless a pre-emption is under way, takes an OPEN domain to COMMITTING. -/
def triggering (s : State) (dom : Nat) (tag : Word) (x : SeamDomain) : SeamDomain :=
  if x.triggered = true then x
  else { x with triggered := true, nextTag := tag, state := if x.state = .opened ∧ s.stoppingIn dom = false then .committing else x.state }

/-- R398, R399, R402 to R405, R411: SEAM, the end of the interval and a full log give a domain its trigger; a triggered seam commits, and its held outputs
leave; a peer of a joined domain triggers the seam with its own part of it, and the seam waits for all of them; an error stops the domain, undoes what it wrote, newest first, and its threads take the ROLLBACK notice or hold it. A directory entry in error is
rebuilt in INIT.
The model's own choices in it: log 11, 150, 155, 156, 157, 159, 228. -/
def Obligations.SeamsCommitAndRollBack : Prop :=
  ∀ (s : State) (rs1 : Reg) (dom : Nat) (d : SeamDomain),
    (s.plain → s.canCommit = true →
      let c := s.commitCur
      let tagged := c.mapDomain c.mySeam fun x => triggering c c.mySeam (s.x rs1) x
      (c.domain? c.mySeam = none → exec (.seam rs1) s = .next ((c.retired 4).rebase))
      ∧ (c.domain? c.mySeam ≠ none → c.plain → exec (.seam rs1) s =
          .next { tagged with ctx := { c.ctx with life := .waiting, wait := { kind := .seam, ins := some (.seam rs1), a := c.mySeam } } }))
    ∧ (s.domain? dom = some d →
      let trigger := s.mapDomain dom fun x => triggering s dom 0 x
      let timed := d.interval ≠ 0 ∧ d.began + d.interval ≤ (s.die 0).gct
      let filled := d.undo ≠ [] ∧ d.capacity * (if d.logFull = 0 then 192 else d.logFull) ≤ 256 * d.undo.length
      let busy := ∃ k ∈ s.domainKernels dom, k.state = .preempted ∧ (s.enginesBusy k = true ∨ (k.forPriority = true ∧ k.held ≠ []))
      (s.stoppingIn dom = true ↔ busy)
      ∧ (timed → exec (.seamIntervalExpiry dom) s = .next trigger) ∧ (¬ timed → exec (.seamIntervalExpiry dom) s = .next s)
      ∧ (filled → exec (.logFull dom) s = .next trigger) ∧ (¬ filled → exec (.logFull dom) s = .next s)
      ∧ (d.triggered = true → d.state ≠ .rollingBack → ¬ busy → s.lockStands = false → exec (.seamCommit { domain := dom }) s = .next (s.takeSeam dom))
      ∧ (d.triggered = false → exec (.seamCommit { domain := dom }) s = .next s) ∧ (busy → exec (.seamCommit { domain := dom }) s = .next s)
      ∧ (s.lockStands = true → exec (.seamCommit { domain := dom }) s = .next s)
      ∧ (∀ (m : Nat) (tag : Word), let noted := s.mapDomain dom fun x => { x with ready := m :: x.ready }
          (d.state ≠ .rollingBack → m ∈ d.peers → m ∉ d.ready → exec (.seamCommit { domain := dom, member := some m, tag := tag }) s = .next (noted.mapDomain dom fun x => triggering noted dom tag x))
          ∧ (d.state = .rollingBack ∨ m ∉ d.peers ∨ m ∈ d.ready → exec (.seamCommit { domain := dom, member := some m, tag := tag }) s = .next s))
      ∧ (d.pending = none → s.domainKernels dom = [] → s.domainCtxs dom = [] →
          let written := s.writeSeam dom
          let w : SeamWrite := { checkpoint := s.checkpoint dom, undo := d.undo.length, inputs := d.inputs.length }
          written.domain? dom = some { d with state := .committing, pending := some w }
          ∧ ((∃ m ∈ d.peers, m ∉ d.ready) → s.takeSeam dom = written) ∧ ((∀ m ∈ d.peers, m ∈ d.ready) → s.takeSeam dom = (written.sealSeam dom w).endKernels))
      ∧ (d.state ≠ .rollingBack → exec (.rollback dom) s = .next s)
      ∧ (d.state = .rollingBack → s.away d = [] → exec (.rollback dom) s = .next ((s.rollback d).endKernels))
      ∧ (let u := s.stopDomain dom
         u.domain? dom = some { d with state := .rollingBack } ∧ u.mem = s.mem
         ∧ u.outputs = s.outputs.filter (fun o => !(o.domain == dom && o.held))
         ∧ u.links.writes = s.links.writes.filter (fun w => !(w.domain == dom && w.state == .held))
         ∧ (s.keysRise → ∀ c ∈ s.domainCores dom, (u.core c).transfers = [] ∧ (u.core c).window = [] ∧ ∀ q ∈ (u.cluster (clusterOf c)).queue, q.core ≠ c))
      ∧ (∀ w : SeamWrite, s.domainKernels dom = [] → s.domainCtxs dom = [] → s.delayed = [] → (∀ v ∈ s.links.writes, v.domain = dom → v.state ≠ .held) →
          ∃ x, (s.sealSeam dom w).domain? dom = some x
          ∧ x.seq = d.seq + 1 ∧ x.lastTag = d.nextTag ∧ x.nextTag = 0 ∧ x.undo = d.undo.drop w.undo ∧ x.inputs = d.inputs.drop w.inputs ∧ x.triggered = false
          ∧ x.state = .opened ∧ x.began = (s.die 0).gct ∧ x.pending = none ∧ x.ready = [] ∧ x.peers = d.peers
          ∧ (∀ k ∈ x.checkpoint.kernels, k ∈ w.checkpoint.kernels)
          ∧ (s.sealSeam dom w).outputs = s.outputs.map fun o => if o.domain = dom then { o with held := false } else o))
    ∧ (∀ core, exec (.uncorrectableError (.core core)) s = .next ((if s.seamAt core = 0 then s.abortCore core
        else if s.domain? (s.seamAt core) = none then s else s.stopDomain (s.seamAt core)).endKernels))
    ∧ (∀ loc, (s.domains.find? fun x => x.undo.any fun u => u.line == loc / 128) = some d → s.domain? d.id = some d →
        ∀ cached, exec (.uncorrectableError (.line loc cached)) s = .next ((s.stopDomain d.id).endKernels))
    ∧ (∀ loc l (cached : Bool), (∀ x ∈ s.domains, ∀ u ∈ x.undo, u.line ≠ loc / 128) → loc < 2 ^ 60 → s.leafAt loc = some l →
        let line := (l.va + (loc - l.frame)) / 128
        let cores := getT [] s.coh.holders line
        let clean := getT none s.coh.behind line = none ∧ getT none s.coh.stale (loc / 128) = none
          ∧ ∀ p ∈ s.coh.swm, ∀ c, p.1 % 2 ^ 64 = loc / 128 → p.2 = some c → c.dirty = []
        let copy := if cached = true then 2 ≤ cores.length ∨ clean else cores ≠ [] ∨ s.coh.inSlice line = true
        (copy → exec (.uncorrectableError (.line loc cached)) s = .next s.endKernels)
        ∧ (¬ copy → exec (.uncorrectableError (.line loc cached)) s =
            .next ((((s.flushAll l.va l.size).setClass l 3).dropTranslations l.va l.size true).endKernels)))
    ∧ (∀ core off (cached : Bool), core < 512 → off < 2 ^ 20 → let loc := 2 ^ 60 + core * 2 ^ 20 + off
        (∀ x ∈ s.domains, ∀ u ∈ x.undo, u.line ≠ loc / 128) → exec (.uncorrectableError (.line loc cached)) s =
          .next ((if s.seamAt core = 0 then s.abortCore core else s.abortDomain (s.seamAt core)).endKernels))
    ∧ (∀ p, (∀ w ∈ s.links.writes, w.port = p → w.domain = 0) → exec (.uncorrectableError (.flit p)) s = .next s.endKernels)
    ∧ (∀ w, s.links.writes = [w] → w.domain ≠ 0 → s.domain? w.domain = some d → exec (.uncorrectableError (.flit w.port)) s = .next ((s.stopDomain w.domain).endKernels))
    ∧ (exec (.uncorrectableError (.record dom)) s = .next ((s.abortDomain dom).endKernels))
    ∧ (s.domain? dom = some d → exec (.uncorrectableError (.member dom)) s = .next ((if d.peers = [] then s else s.stopDomain dom).endKernels))
    ∧ (∀ line, ∃ t, exec (.directoryEntryError line false) s = .next t ∧ (s.keysRise → getT none t.coh.dir line = none)
        ∧ ((t.coh.msgs.filter fun m => m.line == line).map fun m => (m.kind, m.die)) = [(5, 0), (5, 1), (5, 2), (5, 3)]
        ∧ ((t.coh.busy.filter fun b => b.line == line).map fun b => (b.answers, b.data, b.lease)) = [(4, false, false)] ∧ t.mem = s.mem ∧ t.ctx = s.ctx)
    ∧ (∀ m : ProtoMsg, m.kind = 5 → s.keysRise → ∀ k ∈ getT [] (s.takeMsg m).coh.holders m.line, dieOf k ≠ m.die)
    ∧ (∀ (log : List UndoEntry) (loc : Nat), Memory.wf s.mem = true → (∀ u ∈ log, u.va = none ∧ u.old.length = 128) →
        (log.reverse.foldl (fun t u => t.applyUndo [] u) s).byteAt loc = match log.find? fun u => u.line == loc / 128 with
          | some u => u.old.getD (loc % 128) 0
          | none => s.byteAt loc)
    ∧ (∀ tag : Nat, s.ctx.rollbackNotice = some tag →
        (s.ctx.arch.status.getLsbD 4 = true → s.takeNotice = s)
        ∧ (s.ctx.arch.status.getLsbD 4 = false → s.ctx.arch.status.toNat % 4 = 0 → s.myCore.k.tdeleg.getLsbD 19 = true →
            let a := s.takeNotice.ctx.arch
            a.cause = 19 ∧ a.tval = BitVec.ofNat 64 tag ∧ a.epc = s.ctx.arch.pc &&& ~~~1 ∧ a.pc = s.myCore.k.tvec ∧ a.status.getLsbD 5 = false
              ∧ a.status.getLsbD 4 = true ∧ a.regs = s.ctx.arch.regs ∧ s.takeNotice.ctx.rollbackNotice = none)
        ∧ (s.ctx.arch.status.getLsbD 4 = false → s.myCore.k.tdeleg.getLsbD 19 = false →
            s.takeNotice = { s with ctx := { s.ctx with rollbackNotice := none } }))

/-! ### Repair in service (23 R408, R409, 10 R226) -/

/-- R226, R408, R409: every domain that uses a part takes a seam before it is spared; the spare core of a cluster takes over once, a slice and a
pseudo-channel are recorded as spared, with the frames of the channel moved; scrubbing counts the errors that it
corrects and changes nothing else, refreshes are counted, and lysa's new image
takes over where it passes its checks.
The model's own choices in it: log 161, 162, 163. -/
def Obligations.PartsAreRepaired : Prop :=
  ∀ (s : State) (core loc stack bank die slice pc version : Nat) (image : List Byte),
    let ready := fun (uses : SeamDomain → Bool) => ∀ d ∈ s.domains, uses d = true → d.state ≠ .rollingBack ∧ s.stoppingIn d.id = false
      ∧ s.lockStands = false ∧ ∀ m ∈ d.peers, m ∈ d.ready
    let sealed := fun (uses : SeamDomain → Bool) => (s.domains.filter uses).foldl (fun u d => u.takeSeam d.id) s
    let asked := fun (uses : SeamDomain → Bool) => (s.domains.filter uses).foldl (fun u d => u.mapDomain d.id fun x => triggering u d.id 0 x) s
    let reaches := fun (d : SeamDomain) (l : Leaf) => l.domain = s.domainOf d.owner ∨ (l.gdom = s.domainOf d.owner ∧ l.grights ≠ 0)
    (Memory.wf s.mem = true → exec (.patrolScrub loc) s = .next { s with
        fresh := s.fresh + 1, platform := { s.platform with corrected := s.platform.corrected + (if Config.scrubFinds s.fresh = true then 1 else 0) } })
    ∧ (stack < 8 → ∃ t, exec (.refreshManagement stack bank) s = .next t ∧ t = { s with platform := { s.platform with refreshes := t.platform.refreshes } }
        ∧ getT 0 t.platform.refreshes (stack * 65536 + bank) = getT 0 s.platform.refreshes (stack * 65536 + bank) + 1)
    ∧ (let uses := fun (d : SeamDomain) => decide (s.seamAt core = d.id)
       let spare := ∀ i, i < 8 → (s.core (core / 8 * 8 + i)).spared = false
       (core < 512 → spare → ready uses → exec (.coreSparing core) s =
          .next ((((sealed uses).flushCores [core]).mapCore core fun c => { c with spared := true, plb := [] }).endKernels))
       ∧ (core < 512 → spare → ¬ ready uses → exec (.coreSparing core) s = .next (asked uses))
       ∧ (core < 512 → ¬ spare → exec (.coreSparing core) s = .next s))
    ∧ (let holds := fun (o : Owner) => o.slices.getD die 0 / 2 ^ slice % 2 == 1
       let free := die < 4 ∧ slice < 64 ∧ (die, slice) ∉ s.platform.sparedSlices ∧ (s.platform.sparedSlices.filter fun x => x.1 == die).length < 2
       (die < 4 → slice < 64 → (die, slice) ∉ s.platform.sparedSlices → (s.platform.sparedSlices.filter fun x => x.1 == die).length < 2 → s.coh.marks = [] → s.domains = [] → s.kernels = [] →
          ∃ t, exec (.sliceSparing die slice) s = .next t ∧ t.platform.sparedSlices = (die, slice) :: s.platform.sparedSlices ∧ t.mem = s.mem ∧ t.ctx = s.ctx)
       ∧ ((die, slice) ∈ s.platform.sparedSlices → exec (.sliceSparing die slice) s = .next s)
       ∧ (2 ≤ (s.platform.sparedSlices.filter fun x => x.1 == die).length → exec (.sliceSparing die slice) s = .next s)
       ∧ (∀ (d : SeamDomain) (o p : Owner) (l : Leaf), free → s.domains = [d] → d.state = .rollingBack → s.owner? d.owner = some o →
          (holds o = true ∨ (s.allOwners.find? holds = some p ∧ l ∈ s.leavesBelow 4 0 s.ptRoot 0 ∧ reaches d l ∧ l.home = die ∧ l.domain = p.domain)) →
          exec (.sliceSparing die slice) s = .next (s.mapDomain d.id fun x => triggering s d.id 0 x)))
    ∧ (pc ∈ s.platform.sparedPcs → exec (.pseudoChannelSparing pc) s = .next s)
    ∧ (∀ o h, pc < 512 → pc ∉ s.platform.sparedPcs → s.domains = [] → s.allOwners.find? (fun o => o.channels.contains pc) = some o →
        s.unheldChannel pc = some h →
        let u := s.putOwner (o.swapChannel pc (some h))
        let moved := (s.leavesIn pc).foldl (fun t l => t.migrate l (l.frame - pc * 2 ^ 30 + h * 2 ^ 30) l.home) u
        h / 64 = pc / 64 ∧ h ≠ pc ∧ (∀ x ∈ s.allOwners, h ∉ x.channels)
        ∧ exec (.pseudoChannelSparing pc) s = .next (({ moved with platform := { moved.platform with sparedPcs := pc :: moved.platform.sparedPcs } } : State).endKernels))
    ∧ (∀ (d : SeamDomain) (l : Leaf), pc < 512 → pc ∉ s.platform.sparedPcs → s.domains = [d] → d.state = .rollingBack →
        ((∃ o, s.allOwners.find? (fun o => o.channels.contains pc) = some o ∧ o.id = d.owner)
          ∨ (l ∈ s.leavesBelow 4 0 s.ptRoot 0 ∧ reaches d l ∧ l.p = true ∧ pc * 2 ^ 30 ≤ l.frame ∧ l.frame < (pc + 1) * 2 ^ 30)) →
        exec (.pseudoChannelSparing pc) s = .next (s.mapDomain d.id fun x => triggering s d.id 0 x))
    ∧ (let good := s.platform.stage = 6 ∧ signatureValid image = true ∧ s.platform.fusedVersion ≤ version ∧ version < 2 ^ 32
       (good → exec (.lysaUpdate image version) s = .next { s with platform := { s.platform with lysaImage := image } })
       ∧ (¬ good → exec (.lysaUpdate image version) s = .next s))

/-! ### Ports and flits (24 R412 to R417) -/

/-- One port in a state of its own. -/
def withPort (s : State) (p : Nat) (x : Port) : State := { s with links := { s.links with ports := setT Port.reset s.links.ports p x } }

/-- R412, R413, R417: the states of a port and what moves it between them: a partner found or lost, its lanes trained, a fault, the end of RTLIMIT, a
spare bound, a peer that is not the one expected, and a repair.

R415, R416: a good data flit is passed on once, in SEQ order, and answered ACK; a gap or a bad CRC is answered NAK with the last SEQ received in
order; an ACK frees the kept flits up to its ASEQ, a NAK resends those after it; CREDIT comes back, and a training flit names the peer. The flits sent
carry the fields and the CRC of R415.
The model's own choices in it: log 6, 11, 109, 110, 111, 112, 161, 165. -/
def Obligations.PortsAndFlitsFollowTheirRules : Prop :=
  (∀ (s : State) (p lanes : Nat) (physical : Bool),
     let x := s.port p
     let now := (s.die 0).gct
     let first := flitOf 4 0 0 0 (leBytes 2 s.links.moduleId ++ leBytes 1 p)
     let trains := fun (y : Port) (st : PortState) => withPort s p { y with state := st, deadline := now + s.links.rtlimit, replies := y.replies ++ [first] }
     let ueTrains := withPort s p { x with state := .training, deadline := now + s.links.rtlimit }
     let used := s.usesPort p
     let sealed := s.seamAll used
     let bound := fun (j : Nat) (y : Port) => { y with
       spares := j :: y.spares, state := .retraining, deadline := (sealed.die 0).gct + sealed.links.rtlimit
       replies := y.replies ++ [flitOf 4 0 0 0 (leBytes 2 sealed.links.moduleId ++ leBytes 1 p)] }
     let onSpare := fun (j : Nat) => (withPort sealed p (bound j (sealed.port p))).endKernels
     let asked := (s.domains.filter used).foldl (fun u d => u.mapDomain d.id fun y => triggering u d.id 0 y) s
     let reported := { s with links := { s.links with mismatches := s.links.mismatches ++ [(p, x.peer.getD 0, x.peerPort)] } }
     let spare := s.freeSpare p
     let goes := fun (st : PortState) => withPort s p { x with state := st }
     let sends := fun (st : PortState) => withPort s p (({ x with state := st, buffer := x.buffer.map fun k => { k with resent := 0 } } : Port).pump x.pending.length)
     let carried := s.links.writes.filter fun w => w.port == p && (w.state == .sent || w.state == .busy || w.state == .behind)
     let failedOf := fun (u : State) => (carried.foldl State.followWrite (carried.foldl State.loseWrite
       (withPort u p { x with state := .failed, buffer := [], pending := [] }))).wakeRetries
     let failed := failedOf s
     let busy := x.state = .training ∨ x.state = .retraining
     let carries := x.state = .up ∨ x.state = .degraded
     (p < 96 →
       (x.state = .down → s.platform.stage = 6 → exec (.partnerDetected p) s = .next (trains x .training))
       ∧ (x.state ≠ .down ∨ s.platform.stage ≠ 6 → exec (.partnerDetected p) s = .next s)
       ∧ (x.state = .training → exec (.partnerLost p) s = .next (goes .down).wakeRetries) ∧ (x.state ≠ .training → exec (.partnerLost p) s = .next s)
       ∧ (busy → lanes ≠ 0 → x.peer ≠ none →
           ((∀ e, x.expected = some e → x.peer = some e) → exec (.linkTrained p lanes) s = .next (sends (if lanes = 1 then .degraded else .up)).wakeRetries)
           ∧ (∀ e, x.expected = some e → x.peer ≠ some e → exec (.linkTrained p lanes) s = .next (failedOf reported)))
       ∧ ((lanes = 0 ∨ ¬ busy) → exec (.linkTrained p lanes) s = .next s)
       ∧ ((carries ∧ (physical = false ∨ spare = none)) → exec (.linkFault p physical) s = .next (trains x .retraining))
       ∧ (∀ j, (carries ∨ x.state = .retraining) → spare = some j → s.canSeam used = true → exec (.linkFault p true) s = .next (onSpare j))
       ∧ (∀ j, spare = some j → s.canSeam used = false →
           (carries → exec (.linkFault p true) s = .next (asked.train p .retraining)) ∧ (x.state = .retraining → exec (.linkFault p true) s = .next asked))
       ∧ (∀ j, spare = some j → j < 4 ∧ j / 2 = p / 48 ∧ (∃ q, x.peer = some q ∧ (j, q) ∈ s.links.spareCables) ∧ ∀ q, q < 96 → j ∉ (s.port q).spares)
       ∧ (now < x.deadline → exec (.rtlimitExpiry p) s = .next s)
       ∧ (x.deadline ≤ now →
           (x.state = .training → exec (.rtlimitExpiry p) s = .next (goes .down).wakeRetries)
           ∧ (∀ j, x.state = .retraining → spare = some j → s.canSeam used = true → exec (.rtlimitExpiry p) s = .next (onSpare j))
           ∧ (∀ j, x.state = .retraining → spare = some j → s.canSeam used = false → exec (.rtlimitExpiry p) s = .next asked)
           ∧ (x.state = .retraining → spare = none → exec (.rtlimitExpiry p) s = .next failed))
       ∧ (x.state = .failed → risesT s.links.ports = true → exec (.linkRepair p) s = .next (trains { Port.reset with expected := x.expected, spares := x.spares } .training))
       ∧ (x.state ≠ .failed → exec (.linkRepair p) s = .next s)
       ∧ (carries → (∃ k ∈ x.buffer, 8 ≤ k.resent) → exec (.flitResendLimit p) s = .next (trains x .retraining))
       ∧ ((∀ k ∈ x.buffer, k.resent < 8) → exec (.flitResendLimit p) s = .next s))
     ∧ (∀ u, u < 4 → p = 96 + u →
         (x.state = .up → exec (.uePortFault u) s = .next (goes .down) ∧ exec (.linkFault p physical) s = .next (goes .down))
         ∧ (x.state ≠ .up → exec (.uePortFault u) s = .next s) ∧ (x.state = .down → s.platform.stage = 6 → exec (.partnerDetected p) s = .next ueTrains)
         ∧ (busy → lanes ≠ 0 → exec (.linkTrained p lanes) s = .next (goes .up))))
  ∧ (∀ (s : State) (p : Nat) (f : List Byte),
       let x := s.port p
       let field := fun (at' n : Nat) => ofLeBytes ((f.drop at').take n)
       let carries := x.state = .up ∨ x.state = .degraded
       let trains := x.state = .training ∨ x.state = .retraining
       let good := f.length = 256 ∧ field 0 1 ≤ 4 ∧ field 248 8 = (crc64 (f.take 248)).toNat
       let reply := fun (y : Port) (kind seq credit : Nat) => { y with replies := y.replies ++ [flitOf kind 0 seq credit []] }
       let paid := { x with credit := x.credit + field 6 2 }
       let q := BitVec.ofNat 16 (field 2 2)
       let a := BitVec.ofNat 16 (field 4 2)
       let gone := fun (y : Port) => { y with buffer := y.buffer.filter fun k => decide (32768 ≤ (a - k.seq).toNat) }
       let ins := [(0, Instr.idleFlit p f), (1, .dataFlit p f), (2, .ackFlit p f), (3, .nakFlit p f), (4, .trainingFlit p f)]
       p < 96 →
         (∀ i ∈ ins, carries ∨ trains → ¬ good → exec i.2 s = .next (withPort s p (reply x 3 x.recvSeq.toNat 0)))
         ∧ (∀ i ∈ ins, ¬ carries → ¬ trains → exec i.2 s = .next s)
         ∧ (∀ i ∈ ins, good → field 0 1 ≠ i.1 → exec i.2 s = .next s)
         ∧ (carries → good → field 0 1 = 1 →
             (q = x.recvSeq + 1 → exec (.dataFlit p f) s = .next (withPort s p
               (reply { paid with recvSeq := q, received := x.received ++ (f.drop 8).take 240 } 2 q.toNat 1)))
             ∧ (q ≠ x.recvSeq + 1 → (x.recvSeq - q).toNat < 32768 → exec (.dataFlit p f) s = .next (withPort s p (reply paid 2 x.recvSeq.toNat 0)))
             ∧ (q ≠ x.recvSeq + 1 → 32768 ≤ (x.recvSeq - q).toNat → exec (.dataFlit p f) s = .next (withPort s p (reply paid 3 x.recvSeq.toNat 0))))
         ∧ (carries → good → field 0 1 = 2 → exec (.ackFlit p f) s = .next (withPort s p ((gone paid).pump x.pending.length)))
         ∧ (carries → good → field 0 1 = 3 →
             let y := gone paid
             exec (.nakFlit p f) s = .next (withPort s p (({ y with buffer := y.buffer.map fun k => { k with resent := k.resent + 1 } } : Port).pump x.pending.length)))
         ∧ (trains → good → field 0 1 = 4 →
             exec (.trainingFlit p f) s = .next (withPort s p { paid with peer := some (field 8 2), peerPort := field 10 1 }))
         ∧ (carries → good → field 0 1 = 0 → exec (.idleFlit p f) s = .next (withPort s p (paid.pump x.pending.length)))
         ∧ (∀ kind seq aseq credit payload, kind ≤ 4 → payload.length ≤ 240 →
             let g := flitOf kind seq aseq credit payload
             let part := fun (at' n : Nat) => ofLeBytes ((g.drop at').take n)
             g.length = 256 ∧ part 0 1 = kind ∧ part 2 2 = seq % 2 ^ 16 ∧ part 4 2 = aseq % 2 ^ 16 ∧ part 6 2 = credit % 2 ^ 16
               ∧ (g.drop 8).take payload.length = payload ∧ part 248 8 = (crc64 (g.take 248)).toNat)
         ∧ (∀ y : Port, y.buffer.length ≤ 256 → (y.pump y.pending.length).buffer.length ≤ 256)
         ∧ crc64 [] = 0 ∧ crc64 [0x31, 0x32, 0x33, 0x34, 0x35, 0x36, 0x37, 0x38, 0x39] = 0x62EC59E3F1A4F00A)

/-! ### Reset, bring-up, power, watchdogs and test (26 R429 to R436) -/

/-- The module in reset: every field as after reset but outputs that have left, the parts that have failed with the spares that took over
(the model's choice, log 165), what the board management controller reads of
the stop, and the model's own fields. -/
def heldInReset (s t : State) (rails : Nat) (trip wdog : Bool) : Prop :=
  t.platform.stage = 0 ∧ t.platform.bootFail = false ∧ t.platform.rails = rails ∧ t.platform.trip = trip ∧ t.platform.wdog = wdog
    ∧ t.platform.bad = s.platform.bad ∧ t.platform.sparedSlices = s.platform.sparedSlices ∧ t.platform.sparedPcs = s.platform.sparedPcs ∧ t.platform.lysaImage = []
    ∧ t.outputs = s.outputs.filter (fun o => o.held == false)
    ∧ t.cores = (s.cores.filter fun x => x.2.spared).map (fun x => (x.1, { Core.reset with spared := true }))
    ∧ t.links.ports = (s.links.ports.filter fun x => x.2.spares != []).map (fun x => (x.1, { Port.reset with spares := x.2.spares }))
    ∧ { t with platform := State.reset.platform, outputs := [], agenda := [], fresh := 0, cores := [], links := { t.links with ports := [] } } = State.reset

/-- R433: bring-up from a stopped module clears memory, arms the watchdogs, loads the seven protocol tables, turns translation on and starts lysa, with
every port DOWN, on the reserved core of each die, whose contexts wait (the model's choice, log 224); a rail that does not report good
holds the module in reset; an image that fails its check leaves it in step 2 or step 5. A running module is not brought up again.
The model's own choices in it: log 165, 167, 168, 223, 224. -/
def Obligations.BringUpFollowsItsSteps : Prop :=
  ∀ (s : State) (p c die : Nat), p < 96 → c < 512 → die < 4 →
    let passes := fun (image : List Byte) (version : Nat) => signatureValid image = true ∧ Config.fusedVersion ≤ version ∧ version < 2 ^ 32
    let firmware := passes Config.firmwareImage Config.firmwareVersion
    let lysa := passes Config.bootImage Config.bootVersion
    (s.platform.stage ≠ 0 → exec .powerOn s = .next s)
    ∧ (∀ n, s.platform.stage = 0 → n < 5 → n + 1 ∈ s.platform.bad → (∀ m, 1 ≤ m → m ≤ n → m ∉ s.platform.bad) →
        ∃ t, exec .powerOn s = .next t ∧ heldInReset s t n s.platform.trip s.platform.wdog)
    ∧ (s.platform.stage = 0 → (∀ m, 1 ≤ m → m ≤ 5 → m ∉ s.platform.bad) → ∃ t, exec .powerOn s = .next t
        ∧ t.mem = [] ∧ t.kernels = [] ∧ t.owners = [] ∧ (t.port p).state = .down ∧ (t.die die).gct = 0 ∧ (t.die die).wdogPeriod = 10000 ∧ t.platform.rails = 5
        ∧ t.outputs = s.outputs.filter (fun o => o.held == false) ∧ t.ctx = State.reset.ctx
        ∧ (¬ firmware → t.platform.stage = 1 ∧ t.platform.bootFail = true) ∧ (firmware → ¬ lysa → t.platform.stage = 4 ∧ t.platform.bootFail = true)
        ∧ (firmware → lysa → t.platform.stage = 6 ∧ t.platform.bootFail = false ∧ t.platform.lysaImage = Config.bootImage
            ∧ (let x := t.ctxAt (128 * die + 127) 0
               x.life = .waiting ∧ x.wait.kind = .wfi ∧ x.arch.status = 1 ∧ x.arch.pc = Config.lysaEntry ∧ x.knum = 0)
            ∧ (s.keysRise → (t.core c).plbEn = true)
            ∧ t.links.rtlimit = Config.bootRtlimit.toNat ∧ (s.keysRise → (t.port p).expected = Config.expectedPeer p)
            ∧ getT none t.slots 0 = some tableInv ∧ getT none t.slots 1 = some tableLse ∧ getT none t.slots 2 = some tableUpd
            ∧ getT none t.slots 3 = some tableMig ∧ getT none t.slots 4 = some tableWo ∧ getT none t.slots 5 = some tableCls
            ∧ getT none t.slots 6 = some tableSwm ∧ ∀ n, 7 ≤ n → getT none t.slots n = none))

/-- R429, R430, R432, R434 to R436: what stops the module puts it into reset; the clock of every die follows power and temperature by steps of 100 MHz
between 1.2 and 2.1 GHz; a kick restarts a watchdog and keeps PERIOD; BM_STATUS is laid out as R435 gives it.
The model's own choices in it: log 11, 165, 166, 170, 227. -/
def Obligations.PlatformEventsActAsStated : Prop :=
  ∀ (s : State) (rail die core value temp : Nat) (cells : List Bool),
    let P := s.platform
    let on := P.stage ≠ 0
    let clocks := fun (t : State) (f : Nat → Nat) => ∀ d, d < 4 → (t.die d).clock = f (s.die d).clock ∧ (t.die d).gct = (s.die d).gct
    let down := fun (n : Nat) => max 1200 (n - 100)
    let up := fun (n : Nat) => min 2100 (n + 100)
    let set := fun (ins : Instr) (Q : Platform) (f : Nat → Nat) =>
      ∃ t, exec ins s = .next t ∧ t = { s with platform := Q, dies := t.dies } ∧ (risesT s.dies = true → clocks t f)
    let stops := fun (ins : Instr) (rails : Nat) (trip wdog : Bool) => ∃ t, exec ins s = .next t ∧ heldInReset s t rails trip wdog
    let scans := fun (ins : Instr) (idcode : Nat) (cells : List Bool) =>
      (on → ∃ t, exec ins s = .next t ∧ heldInReset s t P.rails false false ∧ t.platform.jtag = idcode ∧ t.platform.cells = cells)
      ∧ (¬ on → exec ins s = .next { s with platform := { P with jtag := idcode, cells := cells } })
    let d := s.die die
    let ran := d.wdogKick + d.wdogPeriod.toNat * 1000000 ≤ d.gct
    let b := fun (k n : Nat) => s.bmStatus / 2 ^ k % 2 ^ n
    let struck := { s with platform := { P with bad := insertN rail P.bad } }
    (1 ≤ rail → rail ≤ 5 → rail ≤ P.rails → ∃ t, exec (.railFault rail) s = .next t ∧ heldInReset struck t (rail - 1) false false)
    ∧ (1 ≤ rail → rail ≤ 5 → P.rails < rail → exec (.railFault rail) s = .next struck) ∧ (rail = 0 ∨ 5 < rail → exec (.railFault rail) s = .next s)
    ∧ (2 ≤ P.rails → 105 < temp → stops (.thermalTrip temp) 1 true false) ∧ (temp ≤ 105 ∨ P.rails < 2 → exec (.thermalTrip temp) s = .next s)
    ∧ (on → set .powerLimit { P with power := 2000, limited := true } down)
    ∧ (on → set .powerRecovery { P with power := 1899, limited := false } (if P.hot then id else up))
    ∧ (on → 95 < temp → temp ≤ 105 → set (.thermalThrottle temp) { P with temp := temp, hot := true } down)
    ∧ (temp ≤ 95 → exec (.thermalThrottle temp) s = .next s)
    ∧ (on → temp < 92 → set (.thermalRecovery temp) { P with temp := temp, hot := false } (if P.limited then id else up))
    ∧ (92 ≤ temp → exec (.thermalRecovery temp) s = .next s)
    ∧ (die < 4 → on → d.wdogPeriod ≠ 0 → ran → stops (.watchdogExpiry die) P.rails false true)
    ∧ ((d.wdogPeriod = 0 ∨ ¬ ran) → exec (.watchdogExpiry die) s = .next s)
    ∧ stops .bmReset P.rails false false
    ∧ (core < 512 → value / 2 ^ 32 % 2 = 1 → ∃ t, exec (.wdogKick core value) s = .next t ∧ t = { s with dies := t.dies }
        ∧ (risesT s.dies = true → t.die (core / 128) = { s.die (core / 128) with wdogKick := (s.die (core / 128)).gct }))
    ∧ (value / 2 ^ 32 % 2 = 0 → exec (.wdogKick core value) s = .next s)
    ∧ (core < 512 → ∃ t, exec (.plbFlush core) s = .next t ∧ t = { s with cores := t.cores }
        ∧ (risesT s.cores = true → t.core core = { s.core core with plb := [] } ∧ ∀ k, k ≠ core → t.core k = s.core k))
    ∧ scans .bypass 0 P.cells ∧ scans .idcode 0x1A512D3F P.cells ∧ scans (.samplePreload cells) 0 cells ∧ scans (.extest cells) 0 cells
    ∧ (P.temp < 256 → P.power < 4096 → P.stage ≤ 6 →
        b 24 8 = P.temp ∧ b 12 12 = P.power ∧ b 9 3 = 0 ∧ b 8 1 = (if P.wdog then 1 else 0) ∧ b 5 3 = P.stage ∧ b 4 1 = (if P.bootFail then 1 else 0)
          ∧ b 3 1 = (if P.trip then 1 else 0) ∧ (b 2 1 = 1 ↔ ∃ d, d < 4 ∧ (s.die d).clock < 2100) ∧ b 1 1 = 0 ∧ b 0 1 = (if P.stage = 6 then 1 else 0))

/-! ### Encodings, reset and the form of memory (02, 06, 26) -/

/-- R41, R42, R106, R124, R188, R278, R312, R338, R360, R411, R421: words of several families that these rules write out, and the instructions they stand for. -/
def Obligations.PrintedWordsDecode : Prop :=
  let reads := fun (w : Nat) (i : Instr) => decode (wordBytes 4 w) = .ok (i, [])
  reads 0x01131283 (.ld 5 2 2 2 false) ∧ reads 0xFFF4120B (.addi 4 2 (BitVec.ofInt 14 (-3))) ∧ reads 0x01710B0F (.mulhu 6 1 2)
    ∧ reads 0x019A213F (.vfma 2 0 1 2 0 3) ∧ reads 0x101B81BB (.hset 3 7 3) ∧ reads 0x0000804B (.mctx 0 4 0)
    ∧ reads 0x400004CF (.xgo 9 0) ∧ reads 0x0013B2D7 (.send 5 6 7 2) ∧ reads 0x0300005B .gsync ∧ reads 0x00182837 (.seam 5)
    ∧ reads 0x18054C57 (.carryw 8 9 10 0)
    ∧ decode (wordBytes 2 0x06E6 ++ [0x55]) = .ok (.cAdd 3 7, [0x55])

/-- R24 to R41: decoding reads an instruction from bytes exactly where those bytes are the encoding of that well-formed instruction: every operand at
every value comes back, and no bits stand for two instructions. -/
def Obligations.DecodingInvertsEncoding : Prop :=
  ∀ (i : Instr) (bytes rest : List Byte),
    decode bytes = .ok (i, rest) ↔ i.wellFormed = true ∧ encode i ≠ [] ∧ bytes = encode i ++ rest

/-- R137, R140, R410, R412, R414, R431, R433, R434, R435: the values that the spec gives for reset; and the accumulation slots FREE, and memory reading as 0, which are
the model's choice (log 5 and log 1).
The model's own choices in it: log 1, 5. -/
def Obligations.ResetLeavesTheStatedValues : Prop :=
  ∀ (core slot unit die p n loc : Nat),
    let s := State.reset
    let k := (s.core core).k
    let a := (s.ctxAt core slot).arch
    (s.ctxAt core slot).life = .free ∧ a.cause = 0 ∧ a.epc = 0 ∧ a.tval = 0 ∧ a.scratch = 0 ∧ a.fcsr = 0 ∧ a.fwdTag = 0 ∧ a.mcast = 0 ∧ a.chunkStat = 0
    ∧ k.chunkCtl.toNat % 1024 = 512 ∧ k.chunkCtl.toNat / 65536 % 128 = 64
    ∧ (s.core core).plbEn = false ∧ (s.core core).rangeBase = 0 ∧ (s.core core).seamCtl.toNat % 2 ^ 32 = 1000000
    ∧ (s.core core).seamCtl.toNat / 2 ^ 32 % 2 ^ 8 = 192 ∧ (s.die die).capKey = 0 ∧ (s.die die).gct = 0 ∧ (s.die die).wdogPeriod = 0
    ∧ (s.port p).state = .down ∧ s.links.rtlimit = 50000 ∧ getT none s.slots n = none ∧ s.bmStatus = 0
    ∧ s.kernels = [] ∧ s.domains = [] ∧ s.byteAt loc = 0 ∧ Memory.wf s.mem = true ∧ s.keysRise
    ∧ (∀ i : Fin 4, (s.cluster unit).acc[i].state = .free)

/-- The model's own form of memory (log 1): every step keeps its addresses rising and its list free of bytes that read so unlisted,
so that equal memories are equal data. -/
def Obligations.StepsKeepMemoryCanonical : Prop :=
  ∀ s t : State, Memory.wf s.mem = true → step s = .next t → Memory.wf t.mem = true
end

