-- ==== Sys2Proof/Laws/State.lean ====
section
/-!
SUPPORT. Sys2Proof/Laws/State.lean: what each update of the machine does to each field: one lemma per update and field, so that no proof unfolds
a record update.
-/

set_option Elab.async false

namespace Sys2Proof.Machine

/-! ### State.setArch -/

@[simp] theorem State.setArch_cur (s : State) (a : Arch) : (s.setArch a).cur = s.cur := rfl
@[simp] theorem State.setArch_ctx (s : State) (a : Arch) : (s.setArch a).ctx = { s.ctx with arch := a } := rfl
@[simp] theorem State.setArch_ctxs (s : State) (a : Arch) : (s.setArch a).ctxs = s.ctxs := rfl
@[simp] theorem State.setArch_ir (s : State) (a : Arch) : (s.setArch a).ir = s.ir := rfl
@[simp] theorem State.setArch_regSeq (s : State) (a : Arch) : (s.setArch a).regSeq = s.regSeq := rfl
@[simp] theorem State.setArch_mem (s : State) (a : Arch) : (s.setArch a).mem = s.mem := rfl
@[simp] theorem State.setArch_cores (s : State) (a : Arch) : (s.setArch a).cores = s.cores := rfl
@[simp] theorem State.setArch_clusters (s : State) (a : Arch) : (s.setArch a).clusters = s.clusters := rfl
@[simp] theorem State.setArch_dies (s : State) (a : Arch) : (s.setArch a).dies = s.dies := rfl
@[simp] theorem State.setArch_ptRoot (s : State) (a : Arch) : (s.setArch a).ptRoot = s.ptRoot := rfl
@[simp] theorem State.setArch_generation (s : State) (a : Arch) : (s.setArch a).generation = s.generation := rfl
@[simp] theorem State.setArch_locked (s : State) (a : Arch) : (s.setArch a).locked = s.locked := rfl
@[simp] theorem State.setArch_blocks (s : State) (a : Arch) : (s.setArch a).blocks = s.blocks := rfl
@[simp] theorem State.setArch_slots (s : State) (a : Arch) : (s.setArch a).slots = s.slots := rfl
@[simp] theorem State.setArch_coh (s : State) (a : Arch) : (s.setArch a).coh = s.coh := rfl
@[simp] theorem State.setArch_batches (s : State) (a : Arch) : (s.setArch a).batches = s.batches := rfl
@[simp] theorem State.setArch_batchIds (s : State) (a : Arch) : (s.setArch a).batchIds = s.batchIds := rfl
@[simp] theorem State.setArch_owners (s : State) (a : Arch) : (s.setArch a).owners = s.owners := rfl
@[simp] theorem State.setArch_kernels (s : State) (a : Arch) : (s.setArch a).kernels = s.kernels := rfl
@[simp] theorem State.setArch_streams (s : State) (a : Arch) : (s.setArch a).streams = s.streams := rfl
@[simp] theorem State.setArch_arbRequests (s : State) (a : Arch) : (s.setArch a).arbRequests = s.arbRequests := rfl
@[simp] theorem State.setArch_arbServed (s : State) (a : Arch) : (s.setArch a).arbServed = s.arbServed := rfl
@[simp] theorem State.setArch_domains (s : State) (a : Arch) : (s.setArch a).domains = s.domains := rfl
@[simp] theorem State.setArch_links (s : State) (a : Arch) : (s.setArch a).links = s.links := rfl
@[simp] theorem State.setArch_platform (s : State) (a : Arch) : (s.setArch a).platform = s.platform := rfl
@[simp] theorem State.setArch_requests (s : State) (a : Arch) : (s.setArch a).requests = s.requests := rfl
@[simp] theorem State.setArch_replies (s : State) (a : Arch) : (s.setArch a).replies = s.replies := rfl
@[simp] theorem State.setArch_delayed (s : State) (a : Arch) : (s.setArch a).delayed = s.delayed := rfl
@[simp] theorem State.setArch_rdma (s : State) (a : Arch) : (s.setArch a).rdma = s.rdma := rfl
@[simp] theorem State.setArch_outputs (s : State) (a : Arch) : (s.setArch a).outputs = s.outputs := rfl
@[simp] theorem State.setArch_frames (s : State) (a : Arch) : (s.setArch a).frames = s.frames := rfl
@[simp] theorem State.setArch_packed (s : State) (a : Arch) : (s.setArch a).packed = s.packed := rfl
@[simp] theorem State.setArch_agenda (s : State) (a : Arch) : (s.setArch a).agenda = s.agenda := rfl
@[simp] theorem State.setArch_fresh (s : State) (a : Arch) : (s.setArch a).fresh = s.fresh := rfl

/-! ### State.mapArch -/

@[simp] theorem State.mapArch_cur (s : State) (f : Arch → Arch) : (s.mapArch f).cur = s.cur := rfl
@[simp] theorem State.mapArch_ctx (s : State) (f : Arch → Arch) : (s.mapArch f).ctx = { s.ctx with arch := f s.ctx.arch } := rfl
@[simp] theorem State.mapArch_ctxs (s : State) (f : Arch → Arch) : (s.mapArch f).ctxs = s.ctxs := rfl
@[simp] theorem State.mapArch_ir (s : State) (f : Arch → Arch) : (s.mapArch f).ir = s.ir := rfl
@[simp] theorem State.mapArch_regSeq (s : State) (f : Arch → Arch) : (s.mapArch f).regSeq = s.regSeq := rfl
@[simp] theorem State.mapArch_mem (s : State) (f : Arch → Arch) : (s.mapArch f).mem = s.mem := rfl
@[simp] theorem State.mapArch_cores (s : State) (f : Arch → Arch) : (s.mapArch f).cores = s.cores := rfl
@[simp] theorem State.mapArch_clusters (s : State) (f : Arch → Arch) : (s.mapArch f).clusters = s.clusters := rfl
@[simp] theorem State.mapArch_dies (s : State) (f : Arch → Arch) : (s.mapArch f).dies = s.dies := rfl
@[simp] theorem State.mapArch_ptRoot (s : State) (f : Arch → Arch) : (s.mapArch f).ptRoot = s.ptRoot := rfl
@[simp] theorem State.mapArch_generation (s : State) (f : Arch → Arch) : (s.mapArch f).generation = s.generation := rfl
@[simp] theorem State.mapArch_locked (s : State) (f : Arch → Arch) : (s.mapArch f).locked = s.locked := rfl
@[simp] theorem State.mapArch_blocks (s : State) (f : Arch → Arch) : (s.mapArch f).blocks = s.blocks := rfl
@[simp] theorem State.mapArch_slots (s : State) (f : Arch → Arch) : (s.mapArch f).slots = s.slots := rfl
@[simp] theorem State.mapArch_coh (s : State) (f : Arch → Arch) : (s.mapArch f).coh = s.coh := rfl
@[simp] theorem State.mapArch_batches (s : State) (f : Arch → Arch) : (s.mapArch f).batches = s.batches := rfl
@[simp] theorem State.mapArch_batchIds (s : State) (f : Arch → Arch) : (s.mapArch f).batchIds = s.batchIds := rfl
@[simp] theorem State.mapArch_owners (s : State) (f : Arch → Arch) : (s.mapArch f).owners = s.owners := rfl
@[simp] theorem State.mapArch_kernels (s : State) (f : Arch → Arch) : (s.mapArch f).kernels = s.kernels := rfl
@[simp] theorem State.mapArch_streams (s : State) (f : Arch → Arch) : (s.mapArch f).streams = s.streams := rfl
@[simp] theorem State.mapArch_arbRequests (s : State) (f : Arch → Arch) : (s.mapArch f).arbRequests = s.arbRequests := rfl
@[simp] theorem State.mapArch_arbServed (s : State) (f : Arch → Arch) : (s.mapArch f).arbServed = s.arbServed := rfl
@[simp] theorem State.mapArch_domains (s : State) (f : Arch → Arch) : (s.mapArch f).domains = s.domains := rfl
@[simp] theorem State.mapArch_links (s : State) (f : Arch → Arch) : (s.mapArch f).links = s.links := rfl
@[simp] theorem State.mapArch_platform (s : State) (f : Arch → Arch) : (s.mapArch f).platform = s.platform := rfl
@[simp] theorem State.mapArch_requests (s : State) (f : Arch → Arch) : (s.mapArch f).requests = s.requests := rfl
@[simp] theorem State.mapArch_replies (s : State) (f : Arch → Arch) : (s.mapArch f).replies = s.replies := rfl
@[simp] theorem State.mapArch_delayed (s : State) (f : Arch → Arch) : (s.mapArch f).delayed = s.delayed := rfl
@[simp] theorem State.mapArch_rdma (s : State) (f : Arch → Arch) : (s.mapArch f).rdma = s.rdma := rfl
@[simp] theorem State.mapArch_outputs (s : State) (f : Arch → Arch) : (s.mapArch f).outputs = s.outputs := rfl
@[simp] theorem State.mapArch_frames (s : State) (f : Arch → Arch) : (s.mapArch f).frames = s.frames := rfl
@[simp] theorem State.mapArch_packed (s : State) (f : Arch → Arch) : (s.mapArch f).packed = s.packed := rfl
@[simp] theorem State.mapArch_agenda (s : State) (f : Arch → Arch) : (s.mapArch f).agenda = s.agenda := rfl
@[simp] theorem State.mapArch_fresh (s : State) (f : Arch → Arch) : (s.mapArch f).fresh = s.fresh := rfl

/-! ### State.setChunk -/

@[simp] theorem State.setChunk_cur (s : State) (c : Chunk) : (s.setChunk c).cur = s.cur := rfl
@[simp] theorem State.setChunk_ctx (s : State) (c : Chunk) : (s.setChunk c).ctx = { s.ctx with chunk := c } := rfl
@[simp] theorem State.setChunk_ctxs (s : State) (c : Chunk) : (s.setChunk c).ctxs = s.ctxs := rfl
@[simp] theorem State.setChunk_ir (s : State) (c : Chunk) : (s.setChunk c).ir = s.ir := rfl
@[simp] theorem State.setChunk_regSeq (s : State) (c : Chunk) : (s.setChunk c).regSeq = s.regSeq := rfl
@[simp] theorem State.setChunk_mem (s : State) (c : Chunk) : (s.setChunk c).mem = s.mem := rfl
@[simp] theorem State.setChunk_cores (s : State) (c : Chunk) : (s.setChunk c).cores = s.cores := rfl
@[simp] theorem State.setChunk_clusters (s : State) (c : Chunk) : (s.setChunk c).clusters = s.clusters := rfl
@[simp] theorem State.setChunk_dies (s : State) (c : Chunk) : (s.setChunk c).dies = s.dies := rfl
@[simp] theorem State.setChunk_ptRoot (s : State) (c : Chunk) : (s.setChunk c).ptRoot = s.ptRoot := rfl
@[simp] theorem State.setChunk_generation (s : State) (c : Chunk) : (s.setChunk c).generation = s.generation := rfl
@[simp] theorem State.setChunk_locked (s : State) (c : Chunk) : (s.setChunk c).locked = s.locked := rfl
@[simp] theorem State.setChunk_blocks (s : State) (c : Chunk) : (s.setChunk c).blocks = s.blocks := rfl
@[simp] theorem State.setChunk_slots (s : State) (c : Chunk) : (s.setChunk c).slots = s.slots := rfl
@[simp] theorem State.setChunk_coh (s : State) (c : Chunk) : (s.setChunk c).coh = s.coh := rfl
@[simp] theorem State.setChunk_batches (s : State) (c : Chunk) : (s.setChunk c).batches = s.batches := rfl
@[simp] theorem State.setChunk_batchIds (s : State) (c : Chunk) : (s.setChunk c).batchIds = s.batchIds := rfl
@[simp] theorem State.setChunk_owners (s : State) (c : Chunk) : (s.setChunk c).owners = s.owners := rfl
@[simp] theorem State.setChunk_kernels (s : State) (c : Chunk) : (s.setChunk c).kernels = s.kernels := rfl
@[simp] theorem State.setChunk_streams (s : State) (c : Chunk) : (s.setChunk c).streams = s.streams := rfl
@[simp] theorem State.setChunk_arbRequests (s : State) (c : Chunk) : (s.setChunk c).arbRequests = s.arbRequests := rfl
@[simp] theorem State.setChunk_arbServed (s : State) (c : Chunk) : (s.setChunk c).arbServed = s.arbServed := rfl
@[simp] theorem State.setChunk_domains (s : State) (c : Chunk) : (s.setChunk c).domains = s.domains := rfl
@[simp] theorem State.setChunk_links (s : State) (c : Chunk) : (s.setChunk c).links = s.links := rfl
@[simp] theorem State.setChunk_platform (s : State) (c : Chunk) : (s.setChunk c).platform = s.platform := rfl
@[simp] theorem State.setChunk_requests (s : State) (c : Chunk) : (s.setChunk c).requests = s.requests := rfl
@[simp] theorem State.setChunk_replies (s : State) (c : Chunk) : (s.setChunk c).replies = s.replies := rfl
@[simp] theorem State.setChunk_delayed (s : State) (c : Chunk) : (s.setChunk c).delayed = s.delayed := rfl
@[simp] theorem State.setChunk_rdma (s : State) (c : Chunk) : (s.setChunk c).rdma = s.rdma := rfl
@[simp] theorem State.setChunk_outputs (s : State) (c : Chunk) : (s.setChunk c).outputs = s.outputs := rfl
@[simp] theorem State.setChunk_frames (s : State) (c : Chunk) : (s.setChunk c).frames = s.frames := rfl
@[simp] theorem State.setChunk_packed (s : State) (c : Chunk) : (s.setChunk c).packed = s.packed := rfl
@[simp] theorem State.setChunk_agenda (s : State) (c : Chunk) : (s.setChunk c).agenda = s.agenda := rfl
@[simp] theorem State.setChunk_fresh (s : State) (c : Chunk) : (s.setChunk c).fresh = s.fresh := rfl

/-! ### State.mapChunk -/

@[simp] theorem State.mapChunk_cur (s : State) (f : Chunk → Chunk) : (s.mapChunk f).cur = s.cur := rfl
@[simp] theorem State.mapChunk_ctx (s : State) (f : Chunk → Chunk) : (s.mapChunk f).ctx = { s.ctx with chunk := f s.ctx.chunk } := rfl
@[simp] theorem State.mapChunk_ctxs (s : State) (f : Chunk → Chunk) : (s.mapChunk f).ctxs = s.ctxs := rfl
@[simp] theorem State.mapChunk_ir (s : State) (f : Chunk → Chunk) : (s.mapChunk f).ir = s.ir := rfl
@[simp] theorem State.mapChunk_regSeq (s : State) (f : Chunk → Chunk) : (s.mapChunk f).regSeq = s.regSeq := rfl
@[simp] theorem State.mapChunk_mem (s : State) (f : Chunk → Chunk) : (s.mapChunk f).mem = s.mem := rfl
@[simp] theorem State.mapChunk_cores (s : State) (f : Chunk → Chunk) : (s.mapChunk f).cores = s.cores := rfl
@[simp] theorem State.mapChunk_clusters (s : State) (f : Chunk → Chunk) : (s.mapChunk f).clusters = s.clusters := rfl
@[simp] theorem State.mapChunk_dies (s : State) (f : Chunk → Chunk) : (s.mapChunk f).dies = s.dies := rfl
@[simp] theorem State.mapChunk_ptRoot (s : State) (f : Chunk → Chunk) : (s.mapChunk f).ptRoot = s.ptRoot := rfl
@[simp] theorem State.mapChunk_generation (s : State) (f : Chunk → Chunk) : (s.mapChunk f).generation = s.generation := rfl
@[simp] theorem State.mapChunk_locked (s : State) (f : Chunk → Chunk) : (s.mapChunk f).locked = s.locked := rfl
@[simp] theorem State.mapChunk_blocks (s : State) (f : Chunk → Chunk) : (s.mapChunk f).blocks = s.blocks := rfl
@[simp] theorem State.mapChunk_slots (s : State) (f : Chunk → Chunk) : (s.mapChunk f).slots = s.slots := rfl
@[simp] theorem State.mapChunk_coh (s : State) (f : Chunk → Chunk) : (s.mapChunk f).coh = s.coh := rfl
@[simp] theorem State.mapChunk_batches (s : State) (f : Chunk → Chunk) : (s.mapChunk f).batches = s.batches := rfl
@[simp] theorem State.mapChunk_batchIds (s : State) (f : Chunk → Chunk) : (s.mapChunk f).batchIds = s.batchIds := rfl
@[simp] theorem State.mapChunk_owners (s : State) (f : Chunk → Chunk) : (s.mapChunk f).owners = s.owners := rfl
@[simp] theorem State.mapChunk_kernels (s : State) (f : Chunk → Chunk) : (s.mapChunk f).kernels = s.kernels := rfl
@[simp] theorem State.mapChunk_streams (s : State) (f : Chunk → Chunk) : (s.mapChunk f).streams = s.streams := rfl
@[simp] theorem State.mapChunk_arbRequests (s : State) (f : Chunk → Chunk) : (s.mapChunk f).arbRequests = s.arbRequests := rfl
@[simp] theorem State.mapChunk_arbServed (s : State) (f : Chunk → Chunk) : (s.mapChunk f).arbServed = s.arbServed := rfl
@[simp] theorem State.mapChunk_domains (s : State) (f : Chunk → Chunk) : (s.mapChunk f).domains = s.domains := rfl
@[simp] theorem State.mapChunk_links (s : State) (f : Chunk → Chunk) : (s.mapChunk f).links = s.links := rfl
@[simp] theorem State.mapChunk_platform (s : State) (f : Chunk → Chunk) : (s.mapChunk f).platform = s.platform := rfl
@[simp] theorem State.mapChunk_requests (s : State) (f : Chunk → Chunk) : (s.mapChunk f).requests = s.requests := rfl
@[simp] theorem State.mapChunk_replies (s : State) (f : Chunk → Chunk) : (s.mapChunk f).replies = s.replies := rfl
@[simp] theorem State.mapChunk_delayed (s : State) (f : Chunk → Chunk) : (s.mapChunk f).delayed = s.delayed := rfl
@[simp] theorem State.mapChunk_rdma (s : State) (f : Chunk → Chunk) : (s.mapChunk f).rdma = s.rdma := rfl
@[simp] theorem State.mapChunk_outputs (s : State) (f : Chunk → Chunk) : (s.mapChunk f).outputs = s.outputs := rfl
@[simp] theorem State.mapChunk_frames (s : State) (f : Chunk → Chunk) : (s.mapChunk f).frames = s.frames := rfl
@[simp] theorem State.mapChunk_packed (s : State) (f : Chunk → Chunk) : (s.mapChunk f).packed = s.packed := rfl
@[simp] theorem State.mapChunk_agenda (s : State) (f : Chunk → Chunk) : (s.mapChunk f).agenda = s.agenda := rfl
@[simp] theorem State.mapChunk_fresh (s : State) (f : Chunk → Chunk) : (s.mapChunk f).fresh = s.fresh := rfl

/-! ### State.rebase -/

@[simp] theorem State.rebase_cur (s : State) : (s.rebase).cur = s.cur := rfl
@[simp] theorem State.rebase_ctx (s : State) : (s.rebase).ctx = { s.ctx with chunk := { s.ctx.chunk with start := s.ctx.arch, startIns := s.ctx.chunk.ins, kUndo := [] } } := rfl
@[simp] theorem State.rebase_ctxs (s : State) : (s.rebase).ctxs = s.ctxs := rfl
@[simp] theorem State.rebase_ir (s : State) : (s.rebase).ir = s.ir := rfl
@[simp] theorem State.rebase_regSeq (s : State) : (s.rebase).regSeq = s.regSeq := rfl
@[simp] theorem State.rebase_mem (s : State) : (s.rebase).mem = s.mem := rfl
@[simp] theorem State.rebase_cores (s : State) : (s.rebase).cores = s.cores := rfl
@[simp] theorem State.rebase_clusters (s : State) : (s.rebase).clusters = s.clusters := rfl
@[simp] theorem State.rebase_dies (s : State) : (s.rebase).dies = s.dies := rfl
@[simp] theorem State.rebase_ptRoot (s : State) : (s.rebase).ptRoot = s.ptRoot := rfl
@[simp] theorem State.rebase_generation (s : State) : (s.rebase).generation = s.generation := rfl
@[simp] theorem State.rebase_locked (s : State) : (s.rebase).locked = s.locked := rfl
@[simp] theorem State.rebase_blocks (s : State) : (s.rebase).blocks = s.blocks := rfl
@[simp] theorem State.rebase_slots (s : State) : (s.rebase).slots = s.slots := rfl
@[simp] theorem State.rebase_coh (s : State) : (s.rebase).coh = s.coh := rfl
@[simp] theorem State.rebase_batches (s : State) : (s.rebase).batches = s.batches := rfl
@[simp] theorem State.rebase_batchIds (s : State) : (s.rebase).batchIds = s.batchIds := rfl
@[simp] theorem State.rebase_owners (s : State) : (s.rebase).owners = s.owners := rfl
@[simp] theorem State.rebase_kernels (s : State) : (s.rebase).kernels = s.kernels := rfl
@[simp] theorem State.rebase_streams (s : State) : (s.rebase).streams = s.streams := rfl
@[simp] theorem State.rebase_arbRequests (s : State) : (s.rebase).arbRequests = s.arbRequests := rfl
@[simp] theorem State.rebase_arbServed (s : State) : (s.rebase).arbServed = s.arbServed := rfl
@[simp] theorem State.rebase_domains (s : State) : (s.rebase).domains = s.domains := rfl
@[simp] theorem State.rebase_links (s : State) : (s.rebase).links = s.links := rfl
@[simp] theorem State.rebase_platform (s : State) : (s.rebase).platform = s.platform := rfl
@[simp] theorem State.rebase_requests (s : State) : (s.rebase).requests = s.requests := rfl
@[simp] theorem State.rebase_replies (s : State) : (s.rebase).replies = s.replies := rfl
@[simp] theorem State.rebase_delayed (s : State) : (s.rebase).delayed = s.delayed := rfl
@[simp] theorem State.rebase_rdma (s : State) : (s.rebase).rdma = s.rdma := rfl
@[simp] theorem State.rebase_outputs (s : State) : (s.rebase).outputs = s.outputs := rfl
@[simp] theorem State.rebase_frames (s : State) : (s.rebase).frames = s.frames := rfl
@[simp] theorem State.rebase_packed (s : State) : (s.rebase).packed = s.packed := rfl
@[simp] theorem State.rebase_agenda (s : State) : (s.rebase).agenda = s.agenda := rfl
@[simp] theorem State.rebase_fresh (s : State) : (s.rebase).fresh = s.fresh := rfl

/-! ### State.released -/

@[simp] theorem State.released_cur (s : State) : (s.released).cur = s.cur := rfl
@[simp] theorem State.released_ctx (s : State) : (s.released).ctx = { s.ctx with chunk := { s.ctx.chunk with releases := true } } := rfl
@[simp] theorem State.released_ctxs (s : State) : (s.released).ctxs = s.ctxs := rfl
@[simp] theorem State.released_ir (s : State) : (s.released).ir = s.ir := rfl
@[simp] theorem State.released_regSeq (s : State) : (s.released).regSeq = s.regSeq := rfl
@[simp] theorem State.released_mem (s : State) : (s.released).mem = s.mem := rfl
@[simp] theorem State.released_cores (s : State) : (s.released).cores = s.cores := rfl
@[simp] theorem State.released_clusters (s : State) : (s.released).clusters = s.clusters := rfl
@[simp] theorem State.released_dies (s : State) : (s.released).dies = s.dies := rfl
@[simp] theorem State.released_ptRoot (s : State) : (s.released).ptRoot = s.ptRoot := rfl
@[simp] theorem State.released_generation (s : State) : (s.released).generation = s.generation := rfl
@[simp] theorem State.released_locked (s : State) : (s.released).locked = s.locked := rfl
@[simp] theorem State.released_blocks (s : State) : (s.released).blocks = s.blocks := rfl
@[simp] theorem State.released_slots (s : State) : (s.released).slots = s.slots := rfl
@[simp] theorem State.released_coh (s : State) : (s.released).coh = s.coh := rfl
@[simp] theorem State.released_batches (s : State) : (s.released).batches = s.batches := rfl
@[simp] theorem State.released_batchIds (s : State) : (s.released).batchIds = s.batchIds := rfl
@[simp] theorem State.released_owners (s : State) : (s.released).owners = s.owners := rfl
@[simp] theorem State.released_kernels (s : State) : (s.released).kernels = s.kernels := rfl
@[simp] theorem State.released_streams (s : State) : (s.released).streams = s.streams := rfl
@[simp] theorem State.released_arbRequests (s : State) : (s.released).arbRequests = s.arbRequests := rfl
@[simp] theorem State.released_arbServed (s : State) : (s.released).arbServed = s.arbServed := rfl
@[simp] theorem State.released_domains (s : State) : (s.released).domains = s.domains := rfl
@[simp] theorem State.released_links (s : State) : (s.released).links = s.links := rfl
@[simp] theorem State.released_platform (s : State) : (s.released).platform = s.platform := rfl
@[simp] theorem State.released_requests (s : State) : (s.released).requests = s.requests := rfl
@[simp] theorem State.released_replies (s : State) : (s.released).replies = s.replies := rfl
@[simp] theorem State.released_delayed (s : State) : (s.released).delayed = s.delayed := rfl
@[simp] theorem State.released_rdma (s : State) : (s.released).rdma = s.rdma := rfl
@[simp] theorem State.released_outputs (s : State) : (s.released).outputs = s.outputs := rfl
@[simp] theorem State.released_frames (s : State) : (s.released).frames = s.frames := rfl
@[simp] theorem State.released_packed (s : State) : (s.released).packed = s.packed := rfl
@[simp] theorem State.released_agenda (s : State) : (s.released).agenda = s.agenda := rfl
@[simp] theorem State.released_fresh (s : State) : (s.released).fresh = s.fresh := rfl

/-! ### State.setReg -/

@[simp] theorem State.setReg_cur (s : State) (r : Reg) (v : Word) : (s.setReg r v).cur = s.cur := rfl
@[simp] theorem State.setReg_ctx (s : State) (r : Reg) (v : Word) : (s.setReg r v).ctx = { s.ctx with arch := s.ctx.arch.setReg r v, runahead := s.ctx.runahead.map (Runahead.good r) } := rfl
@[simp] theorem State.setReg_ctxs (s : State) (r : Reg) (v : Word) : (s.setReg r v).ctxs = s.ctxs := rfl
@[simp] theorem State.setReg_ir (s : State) (r : Reg) (v : Word) : (s.setReg r v).ir = s.ir := rfl
@[simp] theorem State.setReg_regSeq (s : State) (r : Reg) (v : Word) : (s.setReg r v).regSeq = s.regSeq := rfl
@[simp] theorem State.setReg_mem (s : State) (r : Reg) (v : Word) : (s.setReg r v).mem = s.mem := rfl
@[simp] theorem State.setReg_cores (s : State) (r : Reg) (v : Word) : (s.setReg r v).cores = s.cores := rfl
@[simp] theorem State.setReg_clusters (s : State) (r : Reg) (v : Word) : (s.setReg r v).clusters = s.clusters := rfl
@[simp] theorem State.setReg_dies (s : State) (r : Reg) (v : Word) : (s.setReg r v).dies = s.dies := rfl
@[simp] theorem State.setReg_ptRoot (s : State) (r : Reg) (v : Word) : (s.setReg r v).ptRoot = s.ptRoot := rfl
@[simp] theorem State.setReg_generation (s : State) (r : Reg) (v : Word) : (s.setReg r v).generation = s.generation := rfl
@[simp] theorem State.setReg_locked (s : State) (r : Reg) (v : Word) : (s.setReg r v).locked = s.locked := rfl
@[simp] theorem State.setReg_blocks (s : State) (r : Reg) (v : Word) : (s.setReg r v).blocks = s.blocks := rfl
@[simp] theorem State.setReg_slots (s : State) (r : Reg) (v : Word) : (s.setReg r v).slots = s.slots := rfl
@[simp] theorem State.setReg_coh (s : State) (r : Reg) (v : Word) : (s.setReg r v).coh = s.coh := rfl
@[simp] theorem State.setReg_batches (s : State) (r : Reg) (v : Word) : (s.setReg r v).batches = s.batches := rfl
@[simp] theorem State.setReg_batchIds (s : State) (r : Reg) (v : Word) : (s.setReg r v).batchIds = s.batchIds := rfl
@[simp] theorem State.setReg_owners (s : State) (r : Reg) (v : Word) : (s.setReg r v).owners = s.owners := rfl
@[simp] theorem State.setReg_kernels (s : State) (r : Reg) (v : Word) : (s.setReg r v).kernels = s.kernels := rfl
@[simp] theorem State.setReg_streams (s : State) (r : Reg) (v : Word) : (s.setReg r v).streams = s.streams := rfl
@[simp] theorem State.setReg_arbRequests (s : State) (r : Reg) (v : Word) : (s.setReg r v).arbRequests = s.arbRequests := rfl
@[simp] theorem State.setReg_arbServed (s : State) (r : Reg) (v : Word) : (s.setReg r v).arbServed = s.arbServed := rfl
@[simp] theorem State.setReg_domains (s : State) (r : Reg) (v : Word) : (s.setReg r v).domains = s.domains := rfl
@[simp] theorem State.setReg_links (s : State) (r : Reg) (v : Word) : (s.setReg r v).links = s.links := rfl
@[simp] theorem State.setReg_platform (s : State) (r : Reg) (v : Word) : (s.setReg r v).platform = s.platform := rfl
@[simp] theorem State.setReg_requests (s : State) (r : Reg) (v : Word) : (s.setReg r v).requests = s.requests := rfl
@[simp] theorem State.setReg_replies (s : State) (r : Reg) (v : Word) : (s.setReg r v).replies = s.replies := rfl
@[simp] theorem State.setReg_delayed (s : State) (r : Reg) (v : Word) : (s.setReg r v).delayed = s.delayed := rfl
@[simp] theorem State.setReg_rdma (s : State) (r : Reg) (v : Word) : (s.setReg r v).rdma = s.rdma := rfl
@[simp] theorem State.setReg_outputs (s : State) (r : Reg) (v : Word) : (s.setReg r v).outputs = s.outputs := rfl
@[simp] theorem State.setReg_frames (s : State) (r : Reg) (v : Word) : (s.setReg r v).frames = s.frames := rfl
@[simp] theorem State.setReg_packed (s : State) (r : Reg) (v : Word) : (s.setReg r v).packed = s.packed := rfl
@[simp] theorem State.setReg_agenda (s : State) (r : Reg) (v : Word) : (s.setReg r v).agenda = s.agenda := rfl
@[simp] theorem State.setReg_fresh (s : State) (r : Reg) (v : Word) : (s.setReg r v).fresh = s.fresh := rfl

/-! ### State.setHandle -/

@[simp] theorem State.setHandle_cur (s : State) (h : HReg) (v : HWord) : (s.setHandle h v).cur = s.cur := rfl
@[simp] theorem State.setHandle_ctxs (s : State) (h : HReg) (v : HWord) : (s.setHandle h v).ctxs = s.ctxs := rfl
@[simp] theorem State.setHandle_ir (s : State) (h : HReg) (v : HWord) : (s.setHandle h v).ir = s.ir := rfl
@[simp] theorem State.setHandle_regSeq (s : State) (h : HReg) (v : HWord) : (s.setHandle h v).regSeq = s.regSeq := rfl
@[simp] theorem State.setHandle_mem (s : State) (h : HReg) (v : HWord) : (s.setHandle h v).mem = s.mem := rfl
@[simp] theorem State.setHandle_cores (s : State) (h : HReg) (v : HWord) : (s.setHandle h v).cores = s.cores := rfl
@[simp] theorem State.setHandle_clusters (s : State) (h : HReg) (v : HWord) : (s.setHandle h v).clusters = s.clusters := rfl
@[simp] theorem State.setHandle_dies (s : State) (h : HReg) (v : HWord) : (s.setHandle h v).dies = s.dies := rfl
@[simp] theorem State.setHandle_ptRoot (s : State) (h : HReg) (v : HWord) : (s.setHandle h v).ptRoot = s.ptRoot := rfl
@[simp] theorem State.setHandle_generation (s : State) (h : HReg) (v : HWord) : (s.setHandle h v).generation = s.generation := rfl
@[simp] theorem State.setHandle_locked (s : State) (h : HReg) (v : HWord) : (s.setHandle h v).locked = s.locked := rfl
@[simp] theorem State.setHandle_blocks (s : State) (h : HReg) (v : HWord) : (s.setHandle h v).blocks = s.blocks := rfl
@[simp] theorem State.setHandle_slots (s : State) (h : HReg) (v : HWord) : (s.setHandle h v).slots = s.slots := rfl
@[simp] theorem State.setHandle_coh (s : State) (h : HReg) (v : HWord) : (s.setHandle h v).coh = s.coh := rfl
@[simp] theorem State.setHandle_batches (s : State) (h : HReg) (v : HWord) : (s.setHandle h v).batches = s.batches := rfl
@[simp] theorem State.setHandle_batchIds (s : State) (h : HReg) (v : HWord) : (s.setHandle h v).batchIds = s.batchIds := rfl
@[simp] theorem State.setHandle_owners (s : State) (h : HReg) (v : HWord) : (s.setHandle h v).owners = s.owners := rfl
@[simp] theorem State.setHandle_kernels (s : State) (h : HReg) (v : HWord) : (s.setHandle h v).kernels = s.kernels := rfl
@[simp] theorem State.setHandle_streams (s : State) (h : HReg) (v : HWord) : (s.setHandle h v).streams = s.streams := rfl
@[simp] theorem State.setHandle_arbRequests (s : State) (h : HReg) (v : HWord) : (s.setHandle h v).arbRequests = s.arbRequests := rfl
@[simp] theorem State.setHandle_arbServed (s : State) (h : HReg) (v : HWord) : (s.setHandle h v).arbServed = s.arbServed := rfl
@[simp] theorem State.setHandle_domains (s : State) (h : HReg) (v : HWord) : (s.setHandle h v).domains = s.domains := rfl
@[simp] theorem State.setHandle_links (s : State) (h : HReg) (v : HWord) : (s.setHandle h v).links = s.links := rfl
@[simp] theorem State.setHandle_platform (s : State) (h : HReg) (v : HWord) : (s.setHandle h v).platform = s.platform := rfl
@[simp] theorem State.setHandle_requests (s : State) (h : HReg) (v : HWord) : (s.setHandle h v).requests = s.requests := rfl
@[simp] theorem State.setHandle_replies (s : State) (h : HReg) (v : HWord) : (s.setHandle h v).replies = s.replies := rfl
@[simp] theorem State.setHandle_delayed (s : State) (h : HReg) (v : HWord) : (s.setHandle h v).delayed = s.delayed := rfl
@[simp] theorem State.setHandle_rdma (s : State) (h : HReg) (v : HWord) : (s.setHandle h v).rdma = s.rdma := rfl
@[simp] theorem State.setHandle_outputs (s : State) (h : HReg) (v : HWord) : (s.setHandle h v).outputs = s.outputs := rfl
@[simp] theorem State.setHandle_frames (s : State) (h : HReg) (v : HWord) : (s.setHandle h v).frames = s.frames := rfl
@[simp] theorem State.setHandle_packed (s : State) (h : HReg) (v : HWord) : (s.setHandle h v).packed = s.packed := rfl
@[simp] theorem State.setHandle_agenda (s : State) (h : HReg) (v : HWord) : (s.setHandle h v).agenda = s.agenda := rfl
@[simp] theorem State.setHandle_fresh (s : State) (h : HReg) (v : HWord) : (s.setHandle h v).fresh = s.fresh := rfl

/-! ### State.mapCore -/

@[simp] theorem State.mapCore_cur (s : State) (c : Nat) (f : Core → Core) : (s.mapCore c f).cur = s.cur := rfl
@[simp] theorem State.mapCore_ctx (s : State) (c : Nat) (f : Core → Core) : (s.mapCore c f).ctx = s.ctx := rfl
@[simp] theorem State.mapCore_ctxs (s : State) (c : Nat) (f : Core → Core) : (s.mapCore c f).ctxs = s.ctxs := rfl
@[simp] theorem State.mapCore_ir (s : State) (c : Nat) (f : Core → Core) : (s.mapCore c f).ir = s.ir := rfl
@[simp] theorem State.mapCore_regSeq (s : State) (c : Nat) (f : Core → Core) : (s.mapCore c f).regSeq = s.regSeq := rfl
@[simp] theorem State.mapCore_mem (s : State) (c : Nat) (f : Core → Core) : (s.mapCore c f).mem = s.mem := rfl
@[simp] theorem State.mapCore_cores (s : State) (c : Nat) (f : Core → Core) : (s.mapCore c f).cores = modT Core.reset s.cores c f := rfl
@[simp] theorem State.mapCore_clusters (s : State) (c : Nat) (f : Core → Core) : (s.mapCore c f).clusters = s.clusters := rfl
@[simp] theorem State.mapCore_dies (s : State) (c : Nat) (f : Core → Core) : (s.mapCore c f).dies = s.dies := rfl
@[simp] theorem State.mapCore_ptRoot (s : State) (c : Nat) (f : Core → Core) : (s.mapCore c f).ptRoot = s.ptRoot := rfl
@[simp] theorem State.mapCore_generation (s : State) (c : Nat) (f : Core → Core) : (s.mapCore c f).generation = s.generation := rfl
@[simp] theorem State.mapCore_locked (s : State) (c : Nat) (f : Core → Core) : (s.mapCore c f).locked = s.locked := rfl
@[simp] theorem State.mapCore_blocks (s : State) (c : Nat) (f : Core → Core) : (s.mapCore c f).blocks = s.blocks := rfl
@[simp] theorem State.mapCore_slots (s : State) (c : Nat) (f : Core → Core) : (s.mapCore c f).slots = s.slots := rfl
@[simp] theorem State.mapCore_coh (s : State) (c : Nat) (f : Core → Core) : (s.mapCore c f).coh = s.coh := rfl
@[simp] theorem State.mapCore_batches (s : State) (c : Nat) (f : Core → Core) : (s.mapCore c f).batches = s.batches := rfl
@[simp] theorem State.mapCore_batchIds (s : State) (c : Nat) (f : Core → Core) : (s.mapCore c f).batchIds = s.batchIds := rfl
@[simp] theorem State.mapCore_owners (s : State) (c : Nat) (f : Core → Core) : (s.mapCore c f).owners = s.owners := rfl
@[simp] theorem State.mapCore_kernels (s : State) (c : Nat) (f : Core → Core) : (s.mapCore c f).kernels = s.kernels := rfl
@[simp] theorem State.mapCore_streams (s : State) (c : Nat) (f : Core → Core) : (s.mapCore c f).streams = s.streams := rfl
@[simp] theorem State.mapCore_arbRequests (s : State) (c : Nat) (f : Core → Core) : (s.mapCore c f).arbRequests = s.arbRequests := rfl
@[simp] theorem State.mapCore_arbServed (s : State) (c : Nat) (f : Core → Core) : (s.mapCore c f).arbServed = s.arbServed := rfl
@[simp] theorem State.mapCore_domains (s : State) (c : Nat) (f : Core → Core) : (s.mapCore c f).domains = s.domains := rfl
@[simp] theorem State.mapCore_links (s : State) (c : Nat) (f : Core → Core) : (s.mapCore c f).links = s.links := rfl
@[simp] theorem State.mapCore_platform (s : State) (c : Nat) (f : Core → Core) : (s.mapCore c f).platform = s.platform := rfl
@[simp] theorem State.mapCore_requests (s : State) (c : Nat) (f : Core → Core) : (s.mapCore c f).requests = s.requests := rfl
@[simp] theorem State.mapCore_replies (s : State) (c : Nat) (f : Core → Core) : (s.mapCore c f).replies = s.replies := rfl
@[simp] theorem State.mapCore_delayed (s : State) (c : Nat) (f : Core → Core) : (s.mapCore c f).delayed = s.delayed := rfl
@[simp] theorem State.mapCore_rdma (s : State) (c : Nat) (f : Core → Core) : (s.mapCore c f).rdma = s.rdma := rfl
@[simp] theorem State.mapCore_outputs (s : State) (c : Nat) (f : Core → Core) : (s.mapCore c f).outputs = s.outputs := rfl
@[simp] theorem State.mapCore_frames (s : State) (c : Nat) (f : Core → Core) : (s.mapCore c f).frames = s.frames := rfl
@[simp] theorem State.mapCore_packed (s : State) (c : Nat) (f : Core → Core) : (s.mapCore c f).packed = s.packed := rfl
@[simp] theorem State.mapCore_agenda (s : State) (c : Nat) (f : Core → Core) : (s.mapCore c f).agenda = s.agenda := rfl
@[simp] theorem State.mapCore_fresh (s : State) (c : Nat) (f : Core → Core) : (s.mapCore c f).fresh = s.fresh := rfl

/-! ### State.mapDie -/

@[simp] theorem State.mapDie_cur (s : State) (d : Nat) (f : Die → Die) : (s.mapDie d f).cur = s.cur := rfl
@[simp] theorem State.mapDie_ctx (s : State) (d : Nat) (f : Die → Die) : (s.mapDie d f).ctx = s.ctx := rfl
@[simp] theorem State.mapDie_ctxs (s : State) (d : Nat) (f : Die → Die) : (s.mapDie d f).ctxs = s.ctxs := rfl
@[simp] theorem State.mapDie_ir (s : State) (d : Nat) (f : Die → Die) : (s.mapDie d f).ir = s.ir := rfl
@[simp] theorem State.mapDie_regSeq (s : State) (d : Nat) (f : Die → Die) : (s.mapDie d f).regSeq = s.regSeq := rfl
@[simp] theorem State.mapDie_mem (s : State) (d : Nat) (f : Die → Die) : (s.mapDie d f).mem = s.mem := rfl
@[simp] theorem State.mapDie_cores (s : State) (d : Nat) (f : Die → Die) : (s.mapDie d f).cores = s.cores := rfl
@[simp] theorem State.mapDie_clusters (s : State) (d : Nat) (f : Die → Die) : (s.mapDie d f).clusters = s.clusters := rfl
@[simp] theorem State.mapDie_dies (s : State) (d : Nat) (f : Die → Die) : (s.mapDie d f).dies = modT Die.reset s.dies d f := rfl
@[simp] theorem State.mapDie_ptRoot (s : State) (d : Nat) (f : Die → Die) : (s.mapDie d f).ptRoot = s.ptRoot := rfl
@[simp] theorem State.mapDie_generation (s : State) (d : Nat) (f : Die → Die) : (s.mapDie d f).generation = s.generation := rfl
@[simp] theorem State.mapDie_locked (s : State) (d : Nat) (f : Die → Die) : (s.mapDie d f).locked = s.locked := rfl
@[simp] theorem State.mapDie_blocks (s : State) (d : Nat) (f : Die → Die) : (s.mapDie d f).blocks = s.blocks := rfl
@[simp] theorem State.mapDie_slots (s : State) (d : Nat) (f : Die → Die) : (s.mapDie d f).slots = s.slots := rfl
@[simp] theorem State.mapDie_coh (s : State) (d : Nat) (f : Die → Die) : (s.mapDie d f).coh = s.coh := rfl
@[simp] theorem State.mapDie_batches (s : State) (d : Nat) (f : Die → Die) : (s.mapDie d f).batches = s.batches := rfl
@[simp] theorem State.mapDie_batchIds (s : State) (d : Nat) (f : Die → Die) : (s.mapDie d f).batchIds = s.batchIds := rfl
@[simp] theorem State.mapDie_owners (s : State) (d : Nat) (f : Die → Die) : (s.mapDie d f).owners = s.owners := rfl
@[simp] theorem State.mapDie_kernels (s : State) (d : Nat) (f : Die → Die) : (s.mapDie d f).kernels = s.kernels := rfl
@[simp] theorem State.mapDie_streams (s : State) (d : Nat) (f : Die → Die) : (s.mapDie d f).streams = s.streams := rfl
@[simp] theorem State.mapDie_arbRequests (s : State) (d : Nat) (f : Die → Die) : (s.mapDie d f).arbRequests = s.arbRequests := rfl
@[simp] theorem State.mapDie_arbServed (s : State) (d : Nat) (f : Die → Die) : (s.mapDie d f).arbServed = s.arbServed := rfl
@[simp] theorem State.mapDie_domains (s : State) (d : Nat) (f : Die → Die) : (s.mapDie d f).domains = s.domains := rfl
@[simp] theorem State.mapDie_links (s : State) (d : Nat) (f : Die → Die) : (s.mapDie d f).links = s.links := rfl
@[simp] theorem State.mapDie_platform (s : State) (d : Nat) (f : Die → Die) : (s.mapDie d f).platform = s.platform := rfl
@[simp] theorem State.mapDie_requests (s : State) (d : Nat) (f : Die → Die) : (s.mapDie d f).requests = s.requests := rfl
@[simp] theorem State.mapDie_replies (s : State) (d : Nat) (f : Die → Die) : (s.mapDie d f).replies = s.replies := rfl
@[simp] theorem State.mapDie_delayed (s : State) (d : Nat) (f : Die → Die) : (s.mapDie d f).delayed = s.delayed := rfl
@[simp] theorem State.mapDie_rdma (s : State) (d : Nat) (f : Die → Die) : (s.mapDie d f).rdma = s.rdma := rfl
@[simp] theorem State.mapDie_outputs (s : State) (d : Nat) (f : Die → Die) : (s.mapDie d f).outputs = s.outputs := rfl
@[simp] theorem State.mapDie_frames (s : State) (d : Nat) (f : Die → Die) : (s.mapDie d f).frames = s.frames := rfl
@[simp] theorem State.mapDie_packed (s : State) (d : Nat) (f : Die → Die) : (s.mapDie d f).packed = s.packed := rfl
@[simp] theorem State.mapDie_agenda (s : State) (d : Nat) (f : Die → Die) : (s.mapDie d f).agenda = s.agenda := rfl
@[simp] theorem State.mapDie_fresh (s : State) (d : Nat) (f : Die → Die) : (s.mapDie d f).fresh = s.fresh := rfl

/-! ### State.mapCluster -/

@[simp] theorem State.mapCluster_cur (s : State) (c : Nat) (f : Cluster → Cluster) : (s.mapCluster c f).cur = s.cur := rfl
@[simp] theorem State.mapCluster_ctx (s : State) (c : Nat) (f : Cluster → Cluster) : (s.mapCluster c f).ctx = s.ctx := rfl
@[simp] theorem State.mapCluster_ctxs (s : State) (c : Nat) (f : Cluster → Cluster) : (s.mapCluster c f).ctxs = s.ctxs := rfl
@[simp] theorem State.mapCluster_ir (s : State) (c : Nat) (f : Cluster → Cluster) : (s.mapCluster c f).ir = s.ir := rfl
@[simp] theorem State.mapCluster_regSeq (s : State) (c : Nat) (f : Cluster → Cluster) : (s.mapCluster c f).regSeq = s.regSeq := rfl
@[simp] theorem State.mapCluster_mem (s : State) (c : Nat) (f : Cluster → Cluster) : (s.mapCluster c f).mem = s.mem := rfl
@[simp] theorem State.mapCluster_cores (s : State) (c : Nat) (f : Cluster → Cluster) : (s.mapCluster c f).cores = s.cores := rfl
@[simp] theorem State.mapCluster_clusters (s : State) (c : Nat) (f : Cluster → Cluster) : (s.mapCluster c f).clusters = modT Cluster.reset s.clusters c f := rfl
@[simp] theorem State.mapCluster_dies (s : State) (c : Nat) (f : Cluster → Cluster) : (s.mapCluster c f).dies = s.dies := rfl
@[simp] theorem State.mapCluster_ptRoot (s : State) (c : Nat) (f : Cluster → Cluster) : (s.mapCluster c f).ptRoot = s.ptRoot := rfl
@[simp] theorem State.mapCluster_generation (s : State) (c : Nat) (f : Cluster → Cluster) : (s.mapCluster c f).generation = s.generation := rfl
@[simp] theorem State.mapCluster_locked (s : State) (c : Nat) (f : Cluster → Cluster) : (s.mapCluster c f).locked = s.locked := rfl
@[simp] theorem State.mapCluster_blocks (s : State) (c : Nat) (f : Cluster → Cluster) : (s.mapCluster c f).blocks = s.blocks := rfl
@[simp] theorem State.mapCluster_slots (s : State) (c : Nat) (f : Cluster → Cluster) : (s.mapCluster c f).slots = s.slots := rfl
@[simp] theorem State.mapCluster_coh (s : State) (c : Nat) (f : Cluster → Cluster) : (s.mapCluster c f).coh = s.coh := rfl
@[simp] theorem State.mapCluster_batches (s : State) (c : Nat) (f : Cluster → Cluster) : (s.mapCluster c f).batches = s.batches := rfl
@[simp] theorem State.mapCluster_batchIds (s : State) (c : Nat) (f : Cluster → Cluster) : (s.mapCluster c f).batchIds = s.batchIds := rfl
@[simp] theorem State.mapCluster_owners (s : State) (c : Nat) (f : Cluster → Cluster) : (s.mapCluster c f).owners = s.owners := rfl
@[simp] theorem State.mapCluster_kernels (s : State) (c : Nat) (f : Cluster → Cluster) : (s.mapCluster c f).kernels = s.kernels := rfl
@[simp] theorem State.mapCluster_streams (s : State) (c : Nat) (f : Cluster → Cluster) : (s.mapCluster c f).streams = s.streams := rfl
@[simp] theorem State.mapCluster_arbRequests (s : State) (c : Nat) (f : Cluster → Cluster) : (s.mapCluster c f).arbRequests = s.arbRequests := rfl
@[simp] theorem State.mapCluster_arbServed (s : State) (c : Nat) (f : Cluster → Cluster) : (s.mapCluster c f).arbServed = s.arbServed := rfl
@[simp] theorem State.mapCluster_domains (s : State) (c : Nat) (f : Cluster → Cluster) : (s.mapCluster c f).domains = s.domains := rfl
@[simp] theorem State.mapCluster_links (s : State) (c : Nat) (f : Cluster → Cluster) : (s.mapCluster c f).links = s.links := rfl
@[simp] theorem State.mapCluster_platform (s : State) (c : Nat) (f : Cluster → Cluster) : (s.mapCluster c f).platform = s.platform := rfl
@[simp] theorem State.mapCluster_requests (s : State) (c : Nat) (f : Cluster → Cluster) : (s.mapCluster c f).requests = s.requests := rfl
@[simp] theorem State.mapCluster_replies (s : State) (c : Nat) (f : Cluster → Cluster) : (s.mapCluster c f).replies = s.replies := rfl
@[simp] theorem State.mapCluster_delayed (s : State) (c : Nat) (f : Cluster → Cluster) : (s.mapCluster c f).delayed = s.delayed := rfl
@[simp] theorem State.mapCluster_rdma (s : State) (c : Nat) (f : Cluster → Cluster) : (s.mapCluster c f).rdma = s.rdma := rfl
@[simp] theorem State.mapCluster_outputs (s : State) (c : Nat) (f : Cluster → Cluster) : (s.mapCluster c f).outputs = s.outputs := rfl
@[simp] theorem State.mapCluster_frames (s : State) (c : Nat) (f : Cluster → Cluster) : (s.mapCluster c f).frames = s.frames := rfl
@[simp] theorem State.mapCluster_packed (s : State) (c : Nat) (f : Cluster → Cluster) : (s.mapCluster c f).packed = s.packed := rfl
@[simp] theorem State.mapCluster_agenda (s : State) (c : Nat) (f : Cluster → Cluster) : (s.mapCluster c f).agenda = s.agenda := rfl
@[simp] theorem State.mapCluster_fresh (s : State) (c : Nat) (f : Cluster → Cluster) : (s.mapCluster c f).fresh = s.fresh := rfl

/-! ### State.mapOthers -/

@[simp] theorem State.mapOthers_cur (s : State) (f : Nat → Nat → Context → Context) : (s.mapOthers f).cur = s.cur := rfl
@[simp] theorem State.mapOthers_ctx (s : State) (f : Nat → Nat → Context → Context) : (s.mapOthers f).ctx = s.ctx := rfl
@[simp] theorem State.mapOthers_ir (s : State) (f : Nat → Nat → Context → Context) : (s.mapOthers f).ir = s.ir := rfl
@[simp] theorem State.mapOthers_regSeq (s : State) (f : Nat → Nat → Context → Context) : (s.mapOthers f).regSeq = s.regSeq := rfl
@[simp] theorem State.mapOthers_mem (s : State) (f : Nat → Nat → Context → Context) : (s.mapOthers f).mem = s.mem := rfl
@[simp] theorem State.mapOthers_cores (s : State) (f : Nat → Nat → Context → Context) : (s.mapOthers f).cores = s.cores := rfl
@[simp] theorem State.mapOthers_clusters (s : State) (f : Nat → Nat → Context → Context) : (s.mapOthers f).clusters = s.clusters := rfl
@[simp] theorem State.mapOthers_dies (s : State) (f : Nat → Nat → Context → Context) : (s.mapOthers f).dies = s.dies := rfl
@[simp] theorem State.mapOthers_ptRoot (s : State) (f : Nat → Nat → Context → Context) : (s.mapOthers f).ptRoot = s.ptRoot := rfl
@[simp] theorem State.mapOthers_generation (s : State) (f : Nat → Nat → Context → Context) : (s.mapOthers f).generation = s.generation := rfl
@[simp] theorem State.mapOthers_locked (s : State) (f : Nat → Nat → Context → Context) : (s.mapOthers f).locked = s.locked := rfl
@[simp] theorem State.mapOthers_blocks (s : State) (f : Nat → Nat → Context → Context) : (s.mapOthers f).blocks = s.blocks := rfl
@[simp] theorem State.mapOthers_slots (s : State) (f : Nat → Nat → Context → Context) : (s.mapOthers f).slots = s.slots := rfl
@[simp] theorem State.mapOthers_coh (s : State) (f : Nat → Nat → Context → Context) : (s.mapOthers f).coh = s.coh := rfl
@[simp] theorem State.mapOthers_batches (s : State) (f : Nat → Nat → Context → Context) : (s.mapOthers f).batches = s.batches := rfl
@[simp] theorem State.mapOthers_batchIds (s : State) (f : Nat → Nat → Context → Context) : (s.mapOthers f).batchIds = s.batchIds := rfl
@[simp] theorem State.mapOthers_owners (s : State) (f : Nat → Nat → Context → Context) : (s.mapOthers f).owners = s.owners := rfl
@[simp] theorem State.mapOthers_kernels (s : State) (f : Nat → Nat → Context → Context) : (s.mapOthers f).kernels = s.kernels := rfl
@[simp] theorem State.mapOthers_streams (s : State) (f : Nat → Nat → Context → Context) : (s.mapOthers f).streams = s.streams := rfl
@[simp] theorem State.mapOthers_arbRequests (s : State) (f : Nat → Nat → Context → Context) : (s.mapOthers f).arbRequests = s.arbRequests := rfl
@[simp] theorem State.mapOthers_arbServed (s : State) (f : Nat → Nat → Context → Context) : (s.mapOthers f).arbServed = s.arbServed := rfl
@[simp] theorem State.mapOthers_domains (s : State) (f : Nat → Nat → Context → Context) : (s.mapOthers f).domains = s.domains := rfl
@[simp] theorem State.mapOthers_links (s : State) (f : Nat → Nat → Context → Context) : (s.mapOthers f).links = s.links := rfl
@[simp] theorem State.mapOthers_platform (s : State) (f : Nat → Nat → Context → Context) : (s.mapOthers f).platform = s.platform := rfl
@[simp] theorem State.mapOthers_requests (s : State) (f : Nat → Nat → Context → Context) : (s.mapOthers f).requests = s.requests := rfl
@[simp] theorem State.mapOthers_replies (s : State) (f : Nat → Nat → Context → Context) : (s.mapOthers f).replies = s.replies := rfl
@[simp] theorem State.mapOthers_delayed (s : State) (f : Nat → Nat → Context → Context) : (s.mapOthers f).delayed = s.delayed := rfl
@[simp] theorem State.mapOthers_rdma (s : State) (f : Nat → Nat → Context → Context) : (s.mapOthers f).rdma = s.rdma := rfl
@[simp] theorem State.mapOthers_outputs (s : State) (f : Nat → Nat → Context → Context) : (s.mapOthers f).outputs = s.outputs := rfl
@[simp] theorem State.mapOthers_frames (s : State) (f : Nat → Nat → Context → Context) : (s.mapOthers f).frames = s.frames := rfl
@[simp] theorem State.mapOthers_packed (s : State) (f : Nat → Nat → Context → Context) : (s.mapOthers f).packed = s.packed := rfl
@[simp] theorem State.mapOthers_agenda (s : State) (f : Nat → Nat → Context → Context) : (s.mapOthers f).agenda = s.agenda := rfl
@[simp] theorem State.mapOthers_fresh (s : State) (f : Nat → Nat → Context → Context) : (s.mapOthers f).fresh = s.fresh := rfl

/-! ### State.mapCtxs -/

@[simp] theorem State.mapCtxs_cur (s : State) (f : Nat → Nat → Context → Context) : (s.mapCtxs f).cur = s.cur := rfl
@[simp] theorem State.mapCtxs_ctx (s : State) (f : Nat → Nat → Context → Context) : (s.mapCtxs f).ctx = f s.cur.1 s.cur.2 s.ctx := rfl
@[simp] theorem State.mapCtxs_ir (s : State) (f : Nat → Nat → Context → Context) : (s.mapCtxs f).ir = s.ir := rfl
@[simp] theorem State.mapCtxs_regSeq (s : State) (f : Nat → Nat → Context → Context) : (s.mapCtxs f).regSeq = s.regSeq := rfl
@[simp] theorem State.mapCtxs_mem (s : State) (f : Nat → Nat → Context → Context) : (s.mapCtxs f).mem = s.mem := rfl
@[simp] theorem State.mapCtxs_cores (s : State) (f : Nat → Nat → Context → Context) : (s.mapCtxs f).cores = s.cores := rfl
@[simp] theorem State.mapCtxs_clusters (s : State) (f : Nat → Nat → Context → Context) : (s.mapCtxs f).clusters = s.clusters := rfl
@[simp] theorem State.mapCtxs_dies (s : State) (f : Nat → Nat → Context → Context) : (s.mapCtxs f).dies = s.dies := rfl
@[simp] theorem State.mapCtxs_ptRoot (s : State) (f : Nat → Nat → Context → Context) : (s.mapCtxs f).ptRoot = s.ptRoot := rfl
@[simp] theorem State.mapCtxs_generation (s : State) (f : Nat → Nat → Context → Context) : (s.mapCtxs f).generation = s.generation := rfl
@[simp] theorem State.mapCtxs_locked (s : State) (f : Nat → Nat → Context → Context) : (s.mapCtxs f).locked = s.locked := rfl
@[simp] theorem State.mapCtxs_blocks (s : State) (f : Nat → Nat → Context → Context) : (s.mapCtxs f).blocks = s.blocks := rfl
@[simp] theorem State.mapCtxs_slots (s : State) (f : Nat → Nat → Context → Context) : (s.mapCtxs f).slots = s.slots := rfl
@[simp] theorem State.mapCtxs_coh (s : State) (f : Nat → Nat → Context → Context) : (s.mapCtxs f).coh = s.coh := rfl
@[simp] theorem State.mapCtxs_batches (s : State) (f : Nat → Nat → Context → Context) : (s.mapCtxs f).batches = s.batches := rfl
@[simp] theorem State.mapCtxs_batchIds (s : State) (f : Nat → Nat → Context → Context) : (s.mapCtxs f).batchIds = s.batchIds := rfl
@[simp] theorem State.mapCtxs_owners (s : State) (f : Nat → Nat → Context → Context) : (s.mapCtxs f).owners = s.owners := rfl
@[simp] theorem State.mapCtxs_kernels (s : State) (f : Nat → Nat → Context → Context) : (s.mapCtxs f).kernels = s.kernels := rfl
@[simp] theorem State.mapCtxs_streams (s : State) (f : Nat → Nat → Context → Context) : (s.mapCtxs f).streams = s.streams := rfl
@[simp] theorem State.mapCtxs_arbRequests (s : State) (f : Nat → Nat → Context → Context) : (s.mapCtxs f).arbRequests = s.arbRequests := rfl
@[simp] theorem State.mapCtxs_arbServed (s : State) (f : Nat → Nat → Context → Context) : (s.mapCtxs f).arbServed = s.arbServed := rfl
@[simp] theorem State.mapCtxs_domains (s : State) (f : Nat → Nat → Context → Context) : (s.mapCtxs f).domains = s.domains := rfl
@[simp] theorem State.mapCtxs_links (s : State) (f : Nat → Nat → Context → Context) : (s.mapCtxs f).links = s.links := rfl
@[simp] theorem State.mapCtxs_platform (s : State) (f : Nat → Nat → Context → Context) : (s.mapCtxs f).platform = s.platform := rfl
@[simp] theorem State.mapCtxs_requests (s : State) (f : Nat → Nat → Context → Context) : (s.mapCtxs f).requests = s.requests := rfl
@[simp] theorem State.mapCtxs_replies (s : State) (f : Nat → Nat → Context → Context) : (s.mapCtxs f).replies = s.replies := rfl
@[simp] theorem State.mapCtxs_delayed (s : State) (f : Nat → Nat → Context → Context) : (s.mapCtxs f).delayed = s.delayed := rfl
@[simp] theorem State.mapCtxs_rdma (s : State) (f : Nat → Nat → Context → Context) : (s.mapCtxs f).rdma = s.rdma := rfl
@[simp] theorem State.mapCtxs_outputs (s : State) (f : Nat → Nat → Context → Context) : (s.mapCtxs f).outputs = s.outputs := rfl
@[simp] theorem State.mapCtxs_frames (s : State) (f : Nat → Nat → Context → Context) : (s.mapCtxs f).frames = s.frames := rfl
@[simp] theorem State.mapCtxs_packed (s : State) (f : Nat → Nat → Context → Context) : (s.mapCtxs f).packed = s.packed := rfl
@[simp] theorem State.mapCtxs_agenda (s : State) (f : Nat → Nat → Context → Context) : (s.mapCtxs f).agenda = s.agenda := rfl
@[simp] theorem State.mapCtxs_fresh (s : State) (f : Nat → Nat → Context → Context) : (s.mapCtxs f).fresh = s.fresh := rfl

/-! ### State.putOwner -/

@[simp] theorem State.putOwner_cur (s : State) (o : Owner) : (s.putOwner o).cur = s.cur := rfl
@[simp] theorem State.putOwner_ctx (s : State) (o : Owner) : (s.putOwner o).ctx = s.ctx := rfl
@[simp] theorem State.putOwner_ctxs (s : State) (o : Owner) : (s.putOwner o).ctxs = s.ctxs := rfl
@[simp] theorem State.putOwner_ir (s : State) (o : Owner) : (s.putOwner o).ir = s.ir := rfl
@[simp] theorem State.putOwner_regSeq (s : State) (o : Owner) : (s.putOwner o).regSeq = s.regSeq := rfl
@[simp] theorem State.putOwner_mem (s : State) (o : Owner) : (s.putOwner o).mem = s.mem := rfl
@[simp] theorem State.putOwner_cores (s : State) (o : Owner) : (s.putOwner o).cores = s.cores := rfl
@[simp] theorem State.putOwner_clusters (s : State) (o : Owner) : (s.putOwner o).clusters = s.clusters := rfl
@[simp] theorem State.putOwner_dies (s : State) (o : Owner) : (s.putOwner o).dies = s.dies := rfl
@[simp] theorem State.putOwner_ptRoot (s : State) (o : Owner) : (s.putOwner o).ptRoot = s.ptRoot := rfl
@[simp] theorem State.putOwner_generation (s : State) (o : Owner) : (s.putOwner o).generation = s.generation := rfl
@[simp] theorem State.putOwner_locked (s : State) (o : Owner) : (s.putOwner o).locked = s.locked := rfl
@[simp] theorem State.putOwner_blocks (s : State) (o : Owner) : (s.putOwner o).blocks = s.blocks := rfl
@[simp] theorem State.putOwner_slots (s : State) (o : Owner) : (s.putOwner o).slots = s.slots := rfl
@[simp] theorem State.putOwner_coh (s : State) (o : Owner) : (s.putOwner o).coh = s.coh := rfl
@[simp] theorem State.putOwner_batches (s : State) (o : Owner) : (s.putOwner o).batches = s.batches := rfl
@[simp] theorem State.putOwner_batchIds (s : State) (o : Owner) : (s.putOwner o).batchIds = s.batchIds := rfl
@[simp] theorem State.putOwner_owners (s : State) (o : Owner) : (s.putOwner o).owners = setT none s.owners o.id (some o) := rfl
@[simp] theorem State.putOwner_kernels (s : State) (o : Owner) : (s.putOwner o).kernels = s.kernels := rfl
@[simp] theorem State.putOwner_streams (s : State) (o : Owner) : (s.putOwner o).streams = s.streams := rfl
@[simp] theorem State.putOwner_arbRequests (s : State) (o : Owner) : (s.putOwner o).arbRequests = s.arbRequests := rfl
@[simp] theorem State.putOwner_arbServed (s : State) (o : Owner) : (s.putOwner o).arbServed = s.arbServed := rfl
@[simp] theorem State.putOwner_domains (s : State) (o : Owner) : (s.putOwner o).domains = s.domains := rfl
@[simp] theorem State.putOwner_links (s : State) (o : Owner) : (s.putOwner o).links = s.links := rfl
@[simp] theorem State.putOwner_platform (s : State) (o : Owner) : (s.putOwner o).platform = s.platform := rfl
@[simp] theorem State.putOwner_requests (s : State) (o : Owner) : (s.putOwner o).requests = s.requests := rfl
@[simp] theorem State.putOwner_replies (s : State) (o : Owner) : (s.putOwner o).replies = s.replies := rfl
@[simp] theorem State.putOwner_delayed (s : State) (o : Owner) : (s.putOwner o).delayed = s.delayed := rfl
@[simp] theorem State.putOwner_rdma (s : State) (o : Owner) : (s.putOwner o).rdma = s.rdma := rfl
@[simp] theorem State.putOwner_outputs (s : State) (o : Owner) : (s.putOwner o).outputs = s.outputs := rfl
@[simp] theorem State.putOwner_frames (s : State) (o : Owner) : (s.putOwner o).frames = s.frames := rfl
@[simp] theorem State.putOwner_packed (s : State) (o : Owner) : (s.putOwner o).packed = s.packed := rfl
@[simp] theorem State.putOwner_agenda (s : State) (o : Owner) : (s.putOwner o).agenda = s.agenda := rfl
@[simp] theorem State.putOwner_fresh (s : State) (o : Owner) : (s.putOwner o).fresh = s.fresh := rfl

/-! ### State.putKernel -/

@[simp] theorem State.putKernel_cur (s : State) (k : Kernel) : (s.putKernel k).cur = s.cur := rfl
@[simp] theorem State.putKernel_ctx (s : State) (k : Kernel) : (s.putKernel k).ctx = s.ctx := rfl
@[simp] theorem State.putKernel_ctxs (s : State) (k : Kernel) : (s.putKernel k).ctxs = s.ctxs := rfl
@[simp] theorem State.putKernel_ir (s : State) (k : Kernel) : (s.putKernel k).ir = s.ir := rfl
@[simp] theorem State.putKernel_regSeq (s : State) (k : Kernel) : (s.putKernel k).regSeq = s.regSeq := rfl
@[simp] theorem State.putKernel_mem (s : State) (k : Kernel) : (s.putKernel k).mem = s.mem := rfl
@[simp] theorem State.putKernel_cores (s : State) (k : Kernel) : (s.putKernel k).cores = s.cores := rfl
@[simp] theorem State.putKernel_clusters (s : State) (k : Kernel) : (s.putKernel k).clusters = s.clusters := rfl
@[simp] theorem State.putKernel_dies (s : State) (k : Kernel) : (s.putKernel k).dies = s.dies := rfl
@[simp] theorem State.putKernel_ptRoot (s : State) (k : Kernel) : (s.putKernel k).ptRoot = s.ptRoot := rfl
@[simp] theorem State.putKernel_generation (s : State) (k : Kernel) : (s.putKernel k).generation = s.generation := rfl
@[simp] theorem State.putKernel_locked (s : State) (k : Kernel) : (s.putKernel k).locked = s.locked := rfl
@[simp] theorem State.putKernel_blocks (s : State) (k : Kernel) : (s.putKernel k).blocks = s.blocks := rfl
@[simp] theorem State.putKernel_slots (s : State) (k : Kernel) : (s.putKernel k).slots = s.slots := rfl
@[simp] theorem State.putKernel_coh (s : State) (k : Kernel) : (s.putKernel k).coh = s.coh := rfl
@[simp] theorem State.putKernel_batches (s : State) (k : Kernel) : (s.putKernel k).batches = s.batches := rfl
@[simp] theorem State.putKernel_batchIds (s : State) (k : Kernel) : (s.putKernel k).batchIds = s.batchIds := rfl
@[simp] theorem State.putKernel_owners (s : State) (k : Kernel) : (s.putKernel k).owners = s.owners := rfl
@[simp] theorem State.putKernel_kernels (s : State) (k : Kernel) : (s.putKernel k).kernels = setT none s.kernels (kernelKey k.owner k.knum) (some k) := rfl
@[simp] theorem State.putKernel_streams (s : State) (k : Kernel) : (s.putKernel k).streams = s.streams := rfl
@[simp] theorem State.putKernel_arbRequests (s : State) (k : Kernel) : (s.putKernel k).arbRequests = s.arbRequests := rfl
@[simp] theorem State.putKernel_arbServed (s : State) (k : Kernel) : (s.putKernel k).arbServed = s.arbServed := rfl
@[simp] theorem State.putKernel_domains (s : State) (k : Kernel) : (s.putKernel k).domains = s.domains := rfl
@[simp] theorem State.putKernel_links (s : State) (k : Kernel) : (s.putKernel k).links = s.links := rfl
@[simp] theorem State.putKernel_platform (s : State) (k : Kernel) : (s.putKernel k).platform = s.platform := rfl
@[simp] theorem State.putKernel_requests (s : State) (k : Kernel) : (s.putKernel k).requests = s.requests := rfl
@[simp] theorem State.putKernel_replies (s : State) (k : Kernel) : (s.putKernel k).replies = s.replies := rfl
@[simp] theorem State.putKernel_delayed (s : State) (k : Kernel) : (s.putKernel k).delayed = s.delayed := rfl
@[simp] theorem State.putKernel_rdma (s : State) (k : Kernel) : (s.putKernel k).rdma = s.rdma := rfl
@[simp] theorem State.putKernel_outputs (s : State) (k : Kernel) : (s.putKernel k).outputs = s.outputs := rfl
@[simp] theorem State.putKernel_frames (s : State) (k : Kernel) : (s.putKernel k).frames = s.frames := rfl
@[simp] theorem State.putKernel_packed (s : State) (k : Kernel) : (s.putKernel k).packed = s.packed := rfl
@[simp] theorem State.putKernel_agenda (s : State) (k : Kernel) : (s.putKernel k).agenda = s.agenda := rfl
@[simp] theorem State.putKernel_fresh (s : State) (k : Kernel) : (s.putKernel k).fresh = s.fresh := rfl

/-! ### State.mapDomain -/

@[simp] theorem State.mapDomain_cur (s : State) (i : Nat) (f : SeamDomain → SeamDomain) : (s.mapDomain i f).cur = s.cur := rfl
@[simp] theorem State.mapDomain_ctx (s : State) (i : Nat) (f : SeamDomain → SeamDomain) : (s.mapDomain i f).ctx = s.ctx := rfl
@[simp] theorem State.mapDomain_ctxs (s : State) (i : Nat) (f : SeamDomain → SeamDomain) : (s.mapDomain i f).ctxs = s.ctxs := rfl
@[simp] theorem State.mapDomain_ir (s : State) (i : Nat) (f : SeamDomain → SeamDomain) : (s.mapDomain i f).ir = s.ir := rfl
@[simp] theorem State.mapDomain_regSeq (s : State) (i : Nat) (f : SeamDomain → SeamDomain) : (s.mapDomain i f).regSeq = s.regSeq := rfl
@[simp] theorem State.mapDomain_mem (s : State) (i : Nat) (f : SeamDomain → SeamDomain) : (s.mapDomain i f).mem = s.mem := rfl
@[simp] theorem State.mapDomain_cores (s : State) (i : Nat) (f : SeamDomain → SeamDomain) : (s.mapDomain i f).cores = s.cores := rfl
@[simp] theorem State.mapDomain_clusters (s : State) (i : Nat) (f : SeamDomain → SeamDomain) : (s.mapDomain i f).clusters = s.clusters := rfl
@[simp] theorem State.mapDomain_dies (s : State) (i : Nat) (f : SeamDomain → SeamDomain) : (s.mapDomain i f).dies = s.dies := rfl
@[simp] theorem State.mapDomain_ptRoot (s : State) (i : Nat) (f : SeamDomain → SeamDomain) : (s.mapDomain i f).ptRoot = s.ptRoot := rfl
@[simp] theorem State.mapDomain_generation (s : State) (i : Nat) (f : SeamDomain → SeamDomain) : (s.mapDomain i f).generation = s.generation := rfl
@[simp] theorem State.mapDomain_locked (s : State) (i : Nat) (f : SeamDomain → SeamDomain) : (s.mapDomain i f).locked = s.locked := rfl
@[simp] theorem State.mapDomain_blocks (s : State) (i : Nat) (f : SeamDomain → SeamDomain) : (s.mapDomain i f).blocks = s.blocks := rfl
@[simp] theorem State.mapDomain_slots (s : State) (i : Nat) (f : SeamDomain → SeamDomain) : (s.mapDomain i f).slots = s.slots := rfl
@[simp] theorem State.mapDomain_coh (s : State) (i : Nat) (f : SeamDomain → SeamDomain) : (s.mapDomain i f).coh = s.coh := rfl
@[simp] theorem State.mapDomain_batches (s : State) (i : Nat) (f : SeamDomain → SeamDomain) : (s.mapDomain i f).batches = s.batches := rfl
@[simp] theorem State.mapDomain_batchIds (s : State) (i : Nat) (f : SeamDomain → SeamDomain) : (s.mapDomain i f).batchIds = s.batchIds := rfl
@[simp] theorem State.mapDomain_owners (s : State) (i : Nat) (f : SeamDomain → SeamDomain) : (s.mapDomain i f).owners = s.owners := rfl
@[simp] theorem State.mapDomain_kernels (s : State) (i : Nat) (f : SeamDomain → SeamDomain) : (s.mapDomain i f).kernels = s.kernels := rfl
@[simp] theorem State.mapDomain_streams (s : State) (i : Nat) (f : SeamDomain → SeamDomain) : (s.mapDomain i f).streams = s.streams := rfl
@[simp] theorem State.mapDomain_arbRequests (s : State) (i : Nat) (f : SeamDomain → SeamDomain) : (s.mapDomain i f).arbRequests = s.arbRequests := rfl
@[simp] theorem State.mapDomain_arbServed (s : State) (i : Nat) (f : SeamDomain → SeamDomain) : (s.mapDomain i f).arbServed = s.arbServed := rfl
@[simp] theorem State.mapDomain_domains (s : State) (i : Nat) (f : SeamDomain → SeamDomain) : (s.mapDomain i f).domains = s.domains.map fun d => if d.id = i then f d else d := rfl
@[simp] theorem State.mapDomain_links (s : State) (i : Nat) (f : SeamDomain → SeamDomain) : (s.mapDomain i f).links = s.links := rfl
@[simp] theorem State.mapDomain_platform (s : State) (i : Nat) (f : SeamDomain → SeamDomain) : (s.mapDomain i f).platform = s.platform := rfl
@[simp] theorem State.mapDomain_requests (s : State) (i : Nat) (f : SeamDomain → SeamDomain) : (s.mapDomain i f).requests = s.requests := rfl
@[simp] theorem State.mapDomain_replies (s : State) (i : Nat) (f : SeamDomain → SeamDomain) : (s.mapDomain i f).replies = s.replies := rfl
@[simp] theorem State.mapDomain_delayed (s : State) (i : Nat) (f : SeamDomain → SeamDomain) : (s.mapDomain i f).delayed = s.delayed := rfl
@[simp] theorem State.mapDomain_rdma (s : State) (i : Nat) (f : SeamDomain → SeamDomain) : (s.mapDomain i f).rdma = s.rdma := rfl
@[simp] theorem State.mapDomain_outputs (s : State) (i : Nat) (f : SeamDomain → SeamDomain) : (s.mapDomain i f).outputs = s.outputs := rfl
@[simp] theorem State.mapDomain_frames (s : State) (i : Nat) (f : SeamDomain → SeamDomain) : (s.mapDomain i f).frames = s.frames := rfl
@[simp] theorem State.mapDomain_packed (s : State) (i : Nat) (f : SeamDomain → SeamDomain) : (s.mapDomain i f).packed = s.packed := rfl
@[simp] theorem State.mapDomain_agenda (s : State) (i : Nat) (f : SeamDomain → SeamDomain) : (s.mapDomain i f).agenda = s.agenda := rfl
@[simp] theorem State.mapDomain_fresh (s : State) (i : Nat) (f : SeamDomain → SeamDomain) : (s.mapDomain i f).fresh = s.fresh := rfl

/-! ### State.setByte -/

@[simp] theorem State.setByte_cur (s : State) (l : Nat) (b : Byte) : (s.setByte l b).cur = s.cur := rfl
@[simp] theorem State.setByte_ctx (s : State) (l : Nat) (b : Byte) : (s.setByte l b).ctx = s.ctx := rfl
@[simp] theorem State.setByte_ctxs (s : State) (l : Nat) (b : Byte) : (s.setByte l b).ctxs = s.ctxs := rfl
@[simp] theorem State.setByte_ir (s : State) (l : Nat) (b : Byte) : (s.setByte l b).ir = s.ir := rfl
@[simp] theorem State.setByte_regSeq (s : State) (l : Nat) (b : Byte) : (s.setByte l b).regSeq = s.regSeq := rfl
@[simp] theorem State.setByte_mem (s : State) (l : Nat) (b : Byte) : (s.setByte l b).mem = setT unwritten s.mem l b := rfl
@[simp] theorem State.setByte_cores (s : State) (l : Nat) (b : Byte) : (s.setByte l b).cores = s.cores := rfl
@[simp] theorem State.setByte_clusters (s : State) (l : Nat) (b : Byte) : (s.setByte l b).clusters = s.clusters := rfl
@[simp] theorem State.setByte_dies (s : State) (l : Nat) (b : Byte) : (s.setByte l b).dies = s.dies := rfl
@[simp] theorem State.setByte_ptRoot (s : State) (l : Nat) (b : Byte) : (s.setByte l b).ptRoot = s.ptRoot := rfl
@[simp] theorem State.setByte_generation (s : State) (l : Nat) (b : Byte) : (s.setByte l b).generation = s.generation := rfl
@[simp] theorem State.setByte_locked (s : State) (l : Nat) (b : Byte) : (s.setByte l b).locked = s.locked := rfl
@[simp] theorem State.setByte_blocks (s : State) (l : Nat) (b : Byte) : (s.setByte l b).blocks = s.blocks := rfl
@[simp] theorem State.setByte_slots (s : State) (l : Nat) (b : Byte) : (s.setByte l b).slots = s.slots := rfl
@[simp] theorem State.setByte_coh (s : State) (l : Nat) (b : Byte) : (s.setByte l b).coh = s.coh := rfl
@[simp] theorem State.setByte_batches (s : State) (l : Nat) (b : Byte) : (s.setByte l b).batches = s.batches := rfl
@[simp] theorem State.setByte_batchIds (s : State) (l : Nat) (b : Byte) : (s.setByte l b).batchIds = s.batchIds := rfl
@[simp] theorem State.setByte_owners (s : State) (l : Nat) (b : Byte) : (s.setByte l b).owners = s.owners := rfl
@[simp] theorem State.setByte_kernels (s : State) (l : Nat) (b : Byte) : (s.setByte l b).kernels = s.kernels := rfl
@[simp] theorem State.setByte_streams (s : State) (l : Nat) (b : Byte) : (s.setByte l b).streams = s.streams := rfl
@[simp] theorem State.setByte_arbRequests (s : State) (l : Nat) (b : Byte) : (s.setByte l b).arbRequests = s.arbRequests := rfl
@[simp] theorem State.setByte_arbServed (s : State) (l : Nat) (b : Byte) : (s.setByte l b).arbServed = s.arbServed := rfl
@[simp] theorem State.setByte_domains (s : State) (l : Nat) (b : Byte) : (s.setByte l b).domains = s.domains := rfl
@[simp] theorem State.setByte_links (s : State) (l : Nat) (b : Byte) : (s.setByte l b).links = s.links := rfl
@[simp] theorem State.setByte_platform (s : State) (l : Nat) (b : Byte) : (s.setByte l b).platform = s.platform := rfl
@[simp] theorem State.setByte_requests (s : State) (l : Nat) (b : Byte) : (s.setByte l b).requests = s.requests := rfl
@[simp] theorem State.setByte_replies (s : State) (l : Nat) (b : Byte) : (s.setByte l b).replies = s.replies := rfl
@[simp] theorem State.setByte_delayed (s : State) (l : Nat) (b : Byte) : (s.setByte l b).delayed = s.delayed := rfl
@[simp] theorem State.setByte_rdma (s : State) (l : Nat) (b : Byte) : (s.setByte l b).rdma = s.rdma := rfl
@[simp] theorem State.setByte_outputs (s : State) (l : Nat) (b : Byte) : (s.setByte l b).outputs = s.outputs := rfl
@[simp] theorem State.setByte_frames (s : State) (l : Nat) (b : Byte) : (s.setByte l b).frames = s.frames := rfl
@[simp] theorem State.setByte_packed (s : State) (l : Nat) (b : Byte) : (s.setByte l b).packed = s.packed := rfl
@[simp] theorem State.setByte_agenda (s : State) (l : Nat) (b : Byte) : (s.setByte l b).agenda = s.agenda := rfl
@[simp] theorem State.setByte_fresh (s : State) (l : Nat) (b : Byte) : (s.setByte l b).fresh = s.fresh := rfl

/-! ### State.mapCoh -/

@[simp] theorem State.mapCoh_cur (s : State) (f : Coherence → Coherence) : (s.mapCoh f).cur = s.cur := rfl
@[simp] theorem State.mapCoh_ctx (s : State) (f : Coherence → Coherence) : (s.mapCoh f).ctx = s.ctx := rfl
@[simp] theorem State.mapCoh_ctxs (s : State) (f : Coherence → Coherence) : (s.mapCoh f).ctxs = s.ctxs := rfl
@[simp] theorem State.mapCoh_ir (s : State) (f : Coherence → Coherence) : (s.mapCoh f).ir = s.ir := rfl
@[simp] theorem State.mapCoh_regSeq (s : State) (f : Coherence → Coherence) : (s.mapCoh f).regSeq = s.regSeq := rfl
@[simp] theorem State.mapCoh_mem (s : State) (f : Coherence → Coherence) : (s.mapCoh f).mem = s.mem := rfl
@[simp] theorem State.mapCoh_cores (s : State) (f : Coherence → Coherence) : (s.mapCoh f).cores = s.cores := rfl
@[simp] theorem State.mapCoh_clusters (s : State) (f : Coherence → Coherence) : (s.mapCoh f).clusters = s.clusters := rfl
@[simp] theorem State.mapCoh_dies (s : State) (f : Coherence → Coherence) : (s.mapCoh f).dies = s.dies := rfl
@[simp] theorem State.mapCoh_ptRoot (s : State) (f : Coherence → Coherence) : (s.mapCoh f).ptRoot = s.ptRoot := rfl
@[simp] theorem State.mapCoh_generation (s : State) (f : Coherence → Coherence) : (s.mapCoh f).generation = s.generation := rfl
@[simp] theorem State.mapCoh_locked (s : State) (f : Coherence → Coherence) : (s.mapCoh f).locked = s.locked := rfl
@[simp] theorem State.mapCoh_blocks (s : State) (f : Coherence → Coherence) : (s.mapCoh f).blocks = s.blocks := rfl
@[simp] theorem State.mapCoh_slots (s : State) (f : Coherence → Coherence) : (s.mapCoh f).slots = s.slots := rfl
@[simp] theorem State.mapCoh_coh (s : State) (f : Coherence → Coherence) : (s.mapCoh f).coh = f s.coh := rfl
@[simp] theorem State.mapCoh_batches (s : State) (f : Coherence → Coherence) : (s.mapCoh f).batches = s.batches := rfl
@[simp] theorem State.mapCoh_batchIds (s : State) (f : Coherence → Coherence) : (s.mapCoh f).batchIds = s.batchIds := rfl
@[simp] theorem State.mapCoh_owners (s : State) (f : Coherence → Coherence) : (s.mapCoh f).owners = s.owners := rfl
@[simp] theorem State.mapCoh_kernels (s : State) (f : Coherence → Coherence) : (s.mapCoh f).kernels = s.kernels := rfl
@[simp] theorem State.mapCoh_streams (s : State) (f : Coherence → Coherence) : (s.mapCoh f).streams = s.streams := rfl
@[simp] theorem State.mapCoh_arbRequests (s : State) (f : Coherence → Coherence) : (s.mapCoh f).arbRequests = s.arbRequests := rfl
@[simp] theorem State.mapCoh_arbServed (s : State) (f : Coherence → Coherence) : (s.mapCoh f).arbServed = s.arbServed := rfl
@[simp] theorem State.mapCoh_domains (s : State) (f : Coherence → Coherence) : (s.mapCoh f).domains = s.domains := rfl
@[simp] theorem State.mapCoh_links (s : State) (f : Coherence → Coherence) : (s.mapCoh f).links = s.links := rfl
@[simp] theorem State.mapCoh_platform (s : State) (f : Coherence → Coherence) : (s.mapCoh f).platform = s.platform := rfl
@[simp] theorem State.mapCoh_requests (s : State) (f : Coherence → Coherence) : (s.mapCoh f).requests = s.requests := rfl
@[simp] theorem State.mapCoh_replies (s : State) (f : Coherence → Coherence) : (s.mapCoh f).replies = s.replies := rfl
@[simp] theorem State.mapCoh_delayed (s : State) (f : Coherence → Coherence) : (s.mapCoh f).delayed = s.delayed := rfl
@[simp] theorem State.mapCoh_rdma (s : State) (f : Coherence → Coherence) : (s.mapCoh f).rdma = s.rdma := rfl
@[simp] theorem State.mapCoh_outputs (s : State) (f : Coherence → Coherence) : (s.mapCoh f).outputs = s.outputs := rfl
@[simp] theorem State.mapCoh_frames (s : State) (f : Coherence → Coherence) : (s.mapCoh f).frames = s.frames := rfl
@[simp] theorem State.mapCoh_packed (s : State) (f : Coherence → Coherence) : (s.mapCoh f).packed = s.packed := rfl
@[simp] theorem State.mapCoh_agenda (s : State) (f : Coherence → Coherence) : (s.mapCoh f).agenda = s.agenda := rfl
@[simp] theorem State.mapCoh_fresh (s : State) (f : Coherence → Coherence) : (s.mapCoh f).fresh = s.fresh := rfl

/-! ### State.mapPort -/

@[simp] theorem State.mapPort_cur (s : State) (p : Nat) (f : Port → Port) : (s.mapPort p f).cur = s.cur := rfl
@[simp] theorem State.mapPort_ctx (s : State) (p : Nat) (f : Port → Port) : (s.mapPort p f).ctx = s.ctx := rfl
@[simp] theorem State.mapPort_ctxs (s : State) (p : Nat) (f : Port → Port) : (s.mapPort p f).ctxs = s.ctxs := rfl
@[simp] theorem State.mapPort_ir (s : State) (p : Nat) (f : Port → Port) : (s.mapPort p f).ir = s.ir := rfl
@[simp] theorem State.mapPort_regSeq (s : State) (p : Nat) (f : Port → Port) : (s.mapPort p f).regSeq = s.regSeq := rfl
@[simp] theorem State.mapPort_mem (s : State) (p : Nat) (f : Port → Port) : (s.mapPort p f).mem = s.mem := rfl
@[simp] theorem State.mapPort_cores (s : State) (p : Nat) (f : Port → Port) : (s.mapPort p f).cores = s.cores := rfl
@[simp] theorem State.mapPort_clusters (s : State) (p : Nat) (f : Port → Port) : (s.mapPort p f).clusters = s.clusters := rfl
@[simp] theorem State.mapPort_dies (s : State) (p : Nat) (f : Port → Port) : (s.mapPort p f).dies = s.dies := rfl
@[simp] theorem State.mapPort_ptRoot (s : State) (p : Nat) (f : Port → Port) : (s.mapPort p f).ptRoot = s.ptRoot := rfl
@[simp] theorem State.mapPort_generation (s : State) (p : Nat) (f : Port → Port) : (s.mapPort p f).generation = s.generation := rfl
@[simp] theorem State.mapPort_locked (s : State) (p : Nat) (f : Port → Port) : (s.mapPort p f).locked = s.locked := rfl
@[simp] theorem State.mapPort_blocks (s : State) (p : Nat) (f : Port → Port) : (s.mapPort p f).blocks = s.blocks := rfl
@[simp] theorem State.mapPort_slots (s : State) (p : Nat) (f : Port → Port) : (s.mapPort p f).slots = s.slots := rfl
@[simp] theorem State.mapPort_coh (s : State) (p : Nat) (f : Port → Port) : (s.mapPort p f).coh = s.coh := rfl
@[simp] theorem State.mapPort_batches (s : State) (p : Nat) (f : Port → Port) : (s.mapPort p f).batches = s.batches := rfl
@[simp] theorem State.mapPort_batchIds (s : State) (p : Nat) (f : Port → Port) : (s.mapPort p f).batchIds = s.batchIds := rfl
@[simp] theorem State.mapPort_owners (s : State) (p : Nat) (f : Port → Port) : (s.mapPort p f).owners = s.owners := rfl
@[simp] theorem State.mapPort_kernels (s : State) (p : Nat) (f : Port → Port) : (s.mapPort p f).kernels = s.kernels := rfl
@[simp] theorem State.mapPort_streams (s : State) (p : Nat) (f : Port → Port) : (s.mapPort p f).streams = s.streams := rfl
@[simp] theorem State.mapPort_arbRequests (s : State) (p : Nat) (f : Port → Port) : (s.mapPort p f).arbRequests = s.arbRequests := rfl
@[simp] theorem State.mapPort_arbServed (s : State) (p : Nat) (f : Port → Port) : (s.mapPort p f).arbServed = s.arbServed := rfl
@[simp] theorem State.mapPort_domains (s : State) (p : Nat) (f : Port → Port) : (s.mapPort p f).domains = s.domains := rfl
@[simp] theorem State.mapPort_links (s : State) (p : Nat) (f : Port → Port) : (s.mapPort p f).links = { s.links with ports := modT Port.reset s.links.ports p f } := rfl
@[simp] theorem State.mapPort_platform (s : State) (p : Nat) (f : Port → Port) : (s.mapPort p f).platform = s.platform := rfl
@[simp] theorem State.mapPort_requests (s : State) (p : Nat) (f : Port → Port) : (s.mapPort p f).requests = s.requests := rfl
@[simp] theorem State.mapPort_replies (s : State) (p : Nat) (f : Port → Port) : (s.mapPort p f).replies = s.replies := rfl
@[simp] theorem State.mapPort_delayed (s : State) (p : Nat) (f : Port → Port) : (s.mapPort p f).delayed = s.delayed := rfl
@[simp] theorem State.mapPort_rdma (s : State) (p : Nat) (f : Port → Port) : (s.mapPort p f).rdma = s.rdma := rfl
@[simp] theorem State.mapPort_outputs (s : State) (p : Nat) (f : Port → Port) : (s.mapPort p f).outputs = s.outputs := rfl
@[simp] theorem State.mapPort_frames (s : State) (p : Nat) (f : Port → Port) : (s.mapPort p f).frames = s.frames := rfl
@[simp] theorem State.mapPort_packed (s : State) (p : Nat) (f : Port → Port) : (s.mapPort p f).packed = s.packed := rfl
@[simp] theorem State.mapPort_agenda (s : State) (p : Nat) (f : Port → Port) : (s.mapPort p f).agenda = s.agenda := rfl
@[simp] theorem State.mapPort_fresh (s : State) (p : Nat) (f : Port → Port) : (s.mapPort p f).fresh = s.fresh := rfl

/-! ### State.mapWrites -/

@[simp] theorem State.mapWrites_cur (s : State) (f : LinkWrite → LinkWrite) : (s.mapWrites f).cur = s.cur := rfl
@[simp] theorem State.mapWrites_ctx (s : State) (f : LinkWrite → LinkWrite) : (s.mapWrites f).ctx = s.ctx := rfl
@[simp] theorem State.mapWrites_ctxs (s : State) (f : LinkWrite → LinkWrite) : (s.mapWrites f).ctxs = s.ctxs := rfl
@[simp] theorem State.mapWrites_ir (s : State) (f : LinkWrite → LinkWrite) : (s.mapWrites f).ir = s.ir := rfl
@[simp] theorem State.mapWrites_regSeq (s : State) (f : LinkWrite → LinkWrite) : (s.mapWrites f).regSeq = s.regSeq := rfl
@[simp] theorem State.mapWrites_mem (s : State) (f : LinkWrite → LinkWrite) : (s.mapWrites f).mem = s.mem := rfl
@[simp] theorem State.mapWrites_cores (s : State) (f : LinkWrite → LinkWrite) : (s.mapWrites f).cores = s.cores := rfl
@[simp] theorem State.mapWrites_clusters (s : State) (f : LinkWrite → LinkWrite) : (s.mapWrites f).clusters = s.clusters := rfl
@[simp] theorem State.mapWrites_dies (s : State) (f : LinkWrite → LinkWrite) : (s.mapWrites f).dies = s.dies := rfl
@[simp] theorem State.mapWrites_ptRoot (s : State) (f : LinkWrite → LinkWrite) : (s.mapWrites f).ptRoot = s.ptRoot := rfl
@[simp] theorem State.mapWrites_generation (s : State) (f : LinkWrite → LinkWrite) : (s.mapWrites f).generation = s.generation := rfl
@[simp] theorem State.mapWrites_locked (s : State) (f : LinkWrite → LinkWrite) : (s.mapWrites f).locked = s.locked := rfl
@[simp] theorem State.mapWrites_blocks (s : State) (f : LinkWrite → LinkWrite) : (s.mapWrites f).blocks = s.blocks := rfl
@[simp] theorem State.mapWrites_slots (s : State) (f : LinkWrite → LinkWrite) : (s.mapWrites f).slots = s.slots := rfl
@[simp] theorem State.mapWrites_coh (s : State) (f : LinkWrite → LinkWrite) : (s.mapWrites f).coh = s.coh := rfl
@[simp] theorem State.mapWrites_batches (s : State) (f : LinkWrite → LinkWrite) : (s.mapWrites f).batches = s.batches := rfl
@[simp] theorem State.mapWrites_batchIds (s : State) (f : LinkWrite → LinkWrite) : (s.mapWrites f).batchIds = s.batchIds := rfl
@[simp] theorem State.mapWrites_owners (s : State) (f : LinkWrite → LinkWrite) : (s.mapWrites f).owners = s.owners := rfl
@[simp] theorem State.mapWrites_kernels (s : State) (f : LinkWrite → LinkWrite) : (s.mapWrites f).kernels = s.kernels := rfl
@[simp] theorem State.mapWrites_streams (s : State) (f : LinkWrite → LinkWrite) : (s.mapWrites f).streams = s.streams := rfl
@[simp] theorem State.mapWrites_arbRequests (s : State) (f : LinkWrite → LinkWrite) : (s.mapWrites f).arbRequests = s.arbRequests := rfl
@[simp] theorem State.mapWrites_arbServed (s : State) (f : LinkWrite → LinkWrite) : (s.mapWrites f).arbServed = s.arbServed := rfl
@[simp] theorem State.mapWrites_domains (s : State) (f : LinkWrite → LinkWrite) : (s.mapWrites f).domains = s.domains := rfl
@[simp] theorem State.mapWrites_links (s : State) (f : LinkWrite → LinkWrite) : (s.mapWrites f).links = { s.links with writes := s.links.writes.map f } := rfl
@[simp] theorem State.mapWrites_platform (s : State) (f : LinkWrite → LinkWrite) : (s.mapWrites f).platform = s.platform := rfl
@[simp] theorem State.mapWrites_requests (s : State) (f : LinkWrite → LinkWrite) : (s.mapWrites f).requests = s.requests := rfl
@[simp] theorem State.mapWrites_replies (s : State) (f : LinkWrite → LinkWrite) : (s.mapWrites f).replies = s.replies := rfl
@[simp] theorem State.mapWrites_delayed (s : State) (f : LinkWrite → LinkWrite) : (s.mapWrites f).delayed = s.delayed := rfl
@[simp] theorem State.mapWrites_rdma (s : State) (f : LinkWrite → LinkWrite) : (s.mapWrites f).rdma = s.rdma := rfl
@[simp] theorem State.mapWrites_outputs (s : State) (f : LinkWrite → LinkWrite) : (s.mapWrites f).outputs = s.outputs := rfl
@[simp] theorem State.mapWrites_frames (s : State) (f : LinkWrite → LinkWrite) : (s.mapWrites f).frames = s.frames := rfl
@[simp] theorem State.mapWrites_packed (s : State) (f : LinkWrite → LinkWrite) : (s.mapWrites f).packed = s.packed := rfl
@[simp] theorem State.mapWrites_agenda (s : State) (f : LinkWrite → LinkWrite) : (s.mapWrites f).agenda = s.agenda := rfl
@[simp] theorem State.mapWrites_fresh (s : State) (f : LinkWrite → LinkWrite) : (s.mapWrites f).fresh = s.fresh := rfl

/-! ### A context slot -/

@[simp] theorem State.setCtxAt_mem (s : State) (core slot : Nat) (c : Context) : (s.setCtxAt core slot c).mem = s.mem := by
  unfold State.setCtxAt; split <;> rfl

@[simp] theorem State.setCtxAt_cores (s : State) (core slot : Nat) (c : Context) : (s.setCtxAt core slot c).cores = s.cores := by
  unfold State.setCtxAt; split <;> rfl

@[simp] theorem State.setCtxAt_cur (s : State) (core slot : Nat) (c : Context) : (s.setCtxAt core slot c).cur = s.cur := by
  unfold State.setCtxAt; split <;> rfl

@[simp] theorem State.setCtxAt_coh (s : State) (core slot : Nat) (c : Context) : (s.setCtxAt core slot c).coh = s.coh := by
  unfold State.setCtxAt; split <;> rfl

@[simp] theorem State.setCtxAt_domains (s : State) (core slot : Nat) (c : Context) : (s.setCtxAt core slot c).domains = s.domains := by
  unfold State.setCtxAt; split <;> rfl

@[simp] theorem State.setCtxAt_kernels (s : State) (core slot : Nat) (c : Context) : (s.setCtxAt core slot c).kernels = s.kernels := by
  unfold State.setCtxAt; split <;> rfl

end Sys2Proof.Machine
end

