-- ==== Sys2Proof/Laws/Table.lean ====
section
/-!
SUPPORT. Sys2Proof/Laws/Table.lean: reading after writing a table, and what keeps its canonical form.
-/

set_option Elab.async false

namespace Sys2Proof.Machine

variable {α : Type}

@[simp] theorem getT_nil (d : α) (k : Nat) : getT d ([] : Table α) k = d := rfl

/-- A canonical table is one whose keys rise. -/
theorem risesFrom_of_wfFrom [DecidableEq α] {d : α} {lo : Nat} {t : Table α} (h : wfFrom d lo t = true) : risesFrom lo t = true := by
  induction t generalizing lo with
  | nil => rfl
  | cons p rest ih =>
    obtain ⟨k, v⟩ := p
    simp only [wfFrom, Bool.and_eq_true, decide_eq_true_eq] at h
    simp only [risesFrom, Bool.and_eq_true, decide_eq_true_eq]
    exact ⟨h.1.1, ih h.2⟩

theorem risesT_of_wfT [DecidableEq α] {d : α} {t : Table α} (h : wfT d t = true) : risesT t = true := risesFrom_of_wfFrom h

theorem wfFrom_mono [DecidableEq α] {d : α} {lo lo' : Nat} (hl : lo' ≤ lo) {t : Table α} (h : wfFrom d lo t = true) : wfFrom d lo' t = true := by
  cases t with
  | nil => rfl
  | cons p rest =>
    obtain ⟨k, v⟩ := p
    simp only [wfFrom, Bool.and_eq_true, decide_eq_true_eq] at h ⊢
    exact ⟨⟨Nat.le_trans hl h.1.1, h.1.2⟩, h.2⟩

theorem risesFrom_mono {lo lo' : Nat} (hl : lo' ≤ lo) {t : Table α} (h : risesFrom lo t = true) : risesFrom lo' t = true := by
  cases t with
  | nil => rfl
  | cons p rest =>
    obtain ⟨k, v⟩ := p
    simp only [risesFrom, Bool.and_eq_true, decide_eq_true_eq] at h ⊢
    exact ⟨Nat.le_trans hl h.1, h.2⟩

/-- Nothing is listed below the least key. -/
theorem getT_below {d : α} {lo k : Nat} {t : Table α} (h : risesFrom lo t = true) (hk : k < lo) : getT d t k = d := by
  induction t generalizing lo with
  | nil => rfl
  | cons p rest ih =>
    obtain ⟨k', v⟩ := p
    simp only [risesFrom, Bool.and_eq_true, decide_eq_true_eq] at h
    have hne : k ≠ k' := fun e => absurd h.1 (by omega)
    simp only [getT, if_neg hne]
    exact ih h.2 (by omega)

/-- Writing another key changes nothing. -/
theorem getT_setT_other [DecidableEq α] {d : α} (t : Table α) {k j : Nat} (v : α) (hj : j ≠ k) : getT d (setT d t k v) j = getT d t j := by
  induction t with
  | nil => by_cases hv : v = d <;> simp [setT, hv, getT, hj]
  | cons p rest ih =>
    obtain ⟨k', v'⟩ := p
    simp only [setT]
    by_cases h1 : k < k'
    · by_cases hv : v = d <;> simp [h1, hv, getT, hj]
    · by_cases h2 : k = k'
      · subst h2
        by_cases hv : v = d <;> simp [hv, getT, hj]
      · simp only [if_neg h1, if_neg h2, getT, ih]

/-- A written key reads back, where the keys rise. -/
theorem getT_setT_from [DecidableEq α] {d : α} {lo : Nat} {t : Table α} (h : risesFrom lo t = true) (k : Nat) (v : α) :
    getT d (setT d t k v) k = v := by
  induction t generalizing lo with
  | nil => by_cases hv : v = d <;> simp [setT, hv, getT]
  | cons p rest ih =>
    obtain ⟨k', v'⟩ := p
    simp only [risesFrom, Bool.and_eq_true, decide_eq_true_eq] at h
    simp only [setT]
    by_cases h1 : k < k'
    · by_cases hv : v = d
      · have hne : k ≠ k' := by omega
        simp only [if_pos h1, if_pos hv, getT, if_neg hne]
        rw [getT_below h.2 (by omega), hv]
      · simp [h1, hv, getT]
    · by_cases h2 : k = k'
      · subst h2
        by_cases hv : v = d
        · simp only [if_neg h1, if_pos hv, if_true]
          rw [getT_below h.2 (by omega), hv]
        · simp [hv, getT]
      · simp only [if_neg h1, if_neg h2, getT]
        exact ih h.2

theorem getT_setT_same [DecidableEq α] {d : α} {t : Table α} (h : risesT t = true) (k : Nat) (v : α) : getT d (setT d t k v) k = v :=
  getT_setT_from h k v

/-- A written value that is not the default reads back from any table. -/
theorem getT_setT_new [DecidableEq α] {d : α} (t : Table α) (k : Nat) {v : α} (hv : v ≠ d) : getT d (setT d t k v) k = v := by
  induction t with
  | nil => simp [setT, hv, getT]
  | cons p rest ih =>
    obtain ⟨k', v'⟩ := p
    simp only [setT]
    by_cases h1 : k < k'
    · simp [h1, hv, getT]
    · by_cases h2 : k = k'
      · subst h2; simp [hv, getT]
      · simp only [if_neg h1, if_neg h2, getT, ih]

/-- What a table whose keys rise holds after a write. -/
theorem getT_setT [DecidableEq α] {d : α} {t : Table α} (h : risesT t = true) (k j : Nat) (v : α) :
    getT d (setT d t k v) j = if j = k then v else getT d t j := by
  by_cases hj : j = k
  · subst hj; rw [if_pos rfl, getT_setT_same h]
  · rw [if_neg hj, getT_setT_other t v hj]

theorem wfFrom_setT [DecidableEq α] {d : α} {lo : Nat} {t : Table α} (h : wfFrom d lo t = true) {k : Nat} (hk : lo ≤ k) (v : α) :
    wfFrom d lo (setT d t k v) = true := by
  induction t generalizing lo with
  | nil => by_cases hv : v = d <;> simp [setT, hv, wfFrom, hk]
  | cons p rest ih =>
    obtain ⟨k', v'⟩ := p
    simp only [wfFrom, Bool.and_eq_true, decide_eq_true_eq] at h
    simp only [setT]
    by_cases h1 : k < k'
    · by_cases hv : v = d
      · simp only [if_pos h1, if_pos hv, wfFrom, Bool.and_eq_true, decide_eq_true_eq]; exact h
      · simp only [if_pos h1, if_neg hv, wfFrom, Bool.and_eq_true, decide_eq_true_eq]
        exact ⟨⟨hk, hv⟩, ⟨by omega, h.1.2⟩, h.2⟩
    · by_cases h2 : k = k'
      · subst h2
        by_cases hv : v = d
        · simp only [if_neg h1, if_pos hv, if_true]
          exact wfFrom_mono (by omega) h.2
        · simp only [if_neg h1, if_neg hv, if_true, wfFrom, Bool.and_eq_true, decide_eq_true_eq]
          exact ⟨⟨hk, hv⟩, h.2⟩
      · simp only [if_neg h1, if_neg h2, wfFrom, Bool.and_eq_true, decide_eq_true_eq]
        exact ⟨h.1, ih h.2 (by omega)⟩

/-- A write keeps the canonical form. -/
theorem wfT_setT [DecidableEq α] {d : α} {t : Table α} (h : wfT d t = true) (k : Nat) (v : α) : wfT d (setT d t k v) = true :=
  wfFrom_setT h (Nat.zero_le k) v

theorem wfT_modT [DecidableEq α] {d : α} {t : Table α} (h : wfT d t = true) (k : Nat) (f : α → α) : wfT d (modT d t k f) = true :=
  wfT_setT h k _

theorem wfFrom_filter [DecidableEq α] {d : α} {lo : Nat} {t : Table α} (h : wfFrom d lo t = true) (p : Nat × α → Bool) :
    wfFrom d lo (t.filter p) = true := by
  induction t generalizing lo with
  | nil => rfl
  | cons x rest ih =>
    obtain ⟨k, v⟩ := x
    simp only [wfFrom, Bool.and_eq_true, decide_eq_true_eq] at h
    by_cases hp : p (k, v) = true
    · simp only [List.filter_cons, if_pos hp, wfFrom, Bool.and_eq_true, decide_eq_true_eq]
      exact ⟨h.1, ih h.2⟩
    · simp only [List.filter_cons, if_neg hp]
      exact wfFrom_mono (by omega) (ih h.2)

/-- Dropping entries keeps the canonical form. -/
theorem wfT_filter [DecidableEq α] {d : α} {t : Table α} (h : wfT d t = true) (p : Nat × α → Bool) : wfT d (t.filter p) = true :=
  wfFrom_filter h p

/-- Writing what a canonical table holds already changes nothing. -/
theorem setT_getT [DecidableEq α] {d : α} {lo : Nat} {t : Table α} (h : wfFrom d lo t = true) (k : Nat) : setT d t k (getT d t k) = t := by
  induction t generalizing lo with
  | nil => simp [setT, getT]
  | cons p rest ih =>
    obtain ⟨k', v'⟩ := p
    have hr := risesFrom_of_wfFrom h
    simp only [wfFrom, Bool.and_eq_true, decide_eq_true_eq] at h
    simp only [risesFrom, Bool.and_eq_true, decide_eq_true_eq] at hr
    simp only [setT]
    by_cases h1 : k < k'
    · have hne : k ≠ k' := by omega
      have hg : getT d rest k = d := getT_below hr.2 (by omega)
      simp [h1, getT, hne, hg]
    · by_cases h2 : k = k'
      · subst h2; simp [getT, h.1.2]
      · simp only [if_neg h1, if_neg h2, getT]; rw [ih h.2]

/-- The second of two writes to one key stands, where the first was no default. -/
theorem setT_setT [DecidableEq α] {d : α} (t : Table α) (k : Nat) {v : α} (w : α) (hv : v ≠ d) : setT d (setT d t k v) k w = setT d t k w := by
  induction t with
  | nil => simp [setT, hv]
  | cons p rest ih =>
    obtain ⟨k', v'⟩ := p
    simp only [setT]
    by_cases h1 : k < k'
    · by_cases hw : w = d <;> simp [h1, hv, hw, setT]
    · by_cases h2 : k = k'
      · subst h2; simp [hv, setT]
      · simp only [if_neg h1, if_neg h2, setT, ih]

end Sys2Proof.Machine
end

