-- ==== Sys2Proof/Laws/Memory.lean ====
section
/-!
SUPPORT. Sys2Proof/Laws/Memory.lean: memory reads back what was written, and every memory operation keeps its canonical form.
-/

set_option Elab.async false

namespace Sys2Proof.Machine

/-! ### Reading after writing -/

theorem State.byteAt_setByte {s : State} (h : Memory.wf s.mem = true) (l j : Nat) (b : Byte) :
    (s.setByte l b).byteAt j = if j = l then b else s.byteAt j :=
  getT_setT (risesT_of_wfT h) l j b

/-- Another byte's write changes nothing, whatever the form of memory. -/
theorem State.byteAt_setByte_other (s : State) {l j : Nat} (b : Byte) (hj : j ≠ l) : (s.setByte l b).byteAt j = s.byteAt j :=
  getT_setT_other s.mem b hj

/-- Writing a byte that memory holds already changes nothing. -/
theorem State.setByte_byteAt {s : State} (h : Memory.wf s.mem = true) (l : Nat) : s.setByte l (s.byteAt l) = s := by
  have : setT unwritten s.mem l (getT unwritten s.mem l) = s.mem := setT_getT h l
  simp only [State.setByte, State.byteAt, this]

theorem State.byteAt_setBytes_below (s : State) (bs : List Byte) {l j : Nat} (hj : j < l) : (s.setBytes l bs).byteAt j = s.byteAt j := by
  induction bs generalizing s l with
  | nil => rfl
  | cons b bs ih =>
    simp only [State.setBytes]
    rw [ih (s.setByte l b) (by omega), s.byteAt_setByte_other b (by omega)]

theorem State.byteAt_setBytes_above (s : State) (bs : List Byte) {l j : Nat} (hj : l + bs.length ≤ j) :
    (s.setBytes l bs).byteAt j = s.byteAt j := by
  induction bs generalizing s l with
  | nil => rfl
  | cons b bs ih =>
    simp only [List.length_cons] at hj
    simp only [State.setBytes]
    rw [ih (s.setByte l b) (by omega), s.byteAt_setByte_other b (by omega)]

/-! ### Canonical form -/

/-- The machine's memory is canonical. -/
abbrev State.formed (s : State) : Prop := Memory.wf s.mem = true

theorem reset_formed : State.reset.formed := rfl

theorem State.formed_setByte {s : State} (h : s.formed) (l : Nat) (b : Byte) : (s.setByte l b).formed := wfT_setT h l b

theorem State.formed_setBytes {s : State} (h : s.formed) (l : Nat) (bs : List Byte) : (s.setBytes l bs).formed := by
  induction bs generalizing s l with
  | nil => exact h
  | cons b bs ih => exact ih (formed_setByte h l b) (l + 1)

theorem State.formed_setNat {s : State} (h : s.formed) (l n v : Nat) : (s.setNat l n v).formed := formed_setBytes h l _

theorem State.formed_zeroBytes {s : State} (h : s.formed) (l n : Nat) : (s.zeroBytes l n).formed := wfT_filter h _

theorem State.formed_zeroChannel {s : State} (h : s.formed) (g : Nat) : (s.zeroChannel g).formed := wfT_filter h _

/-- The bytes of a run are the bytes written, and no other byte is changed. -/
theorem State.byteAt_setBytes {s : State} (h : s.formed) (bs : List Byte) (l j : Nat) :
    (s.setBytes l bs).byteAt j = if l ≤ j ∧ j < l + bs.length then bs.getD (j - l) 0 else s.byteAt j := by
  induction bs generalizing s l with
  | nil =>
    have : ¬ (l ≤ j ∧ j < l + ([] : List Byte).length) := by simp only [List.length_nil]; omega
    rw [if_neg this]; rfl
  | cons b bs ih =>
    simp only [State.setBytes]
    rw [ih (formed_setByte h l b) (l + 1), byteAt_setByte h]
    simp only [List.length_cons]
    by_cases h1 : j = l
    · subst h1
      have h2 : ¬ (j + 1 ≤ j ∧ j < j + 1 + bs.length) := by omega
      have h3 : j ≤ j ∧ j < j + (bs.length + 1) := by omega
      rw [if_neg h2, if_pos rfl, if_pos h3, Nat.sub_self]; rfl
    · by_cases h2 : l + 1 ≤ j ∧ j < l + 1 + bs.length
      · have h3 : l ≤ j ∧ j < l + (bs.length + 1) := by omega
        rw [if_pos h2, if_pos h3]
        have : j - l = (j - (l + 1)) + 1 := by omega
        rw [this]; rfl
      · have h3 : ¬ (l ≤ j ∧ j < l + (bs.length + 1)) := by omega
        rw [if_neg h2, if_neg h3, if_neg h1]

/-- What is kept at every step of a fold is kept by the fold. -/
theorem foldl_keeps {σ β : Type} (P : σ → Prop) (f : σ → β → σ) (hf : ∀ s b, P s → P (f s b)) (l : List β) {s : σ} (h : P s) : P (l.foldl f s) := by
  induction l generalizing s with
  | nil => exact h
  | cons b l ih => exact ih (hf s b h)

/-- The fields a fold never changes. -/
theorem foldl_same {σ β γ : Type} (g : σ → γ) (f : σ → β → σ) (hf : ∀ s b, g (f s b) = g s) (l : List β) (s : σ) : g (l.foldl f s) = g s := by
  induction l generalizing s with
  | nil => rfl
  | cons b l ih => exact (ih (f s b)).trans (hf s b)

theorem State.formed_performPacked {s : State} (h : s.formed) (p : PackedStore) : (s.performPacked p).formed := formed_setByte h _ _

theorem State.formed_drainPacked {s : State} (h : s.formed) : s.drainPacked.formed :=
  foldl_keeps State.formed State.performPacked (fun _ p hs => formed_performPacked hs p) _ h

@[simp] theorem State.putSwm_mem (s : State) (core line : Nat) (l : SwmLine) : (s.putSwm core line l).mem = s.mem := rfl

theorem State.formed_commitByte {s : State} (h : s.formed) (ls : List Nat) (part l : Nat) (b : Byte) : (s.commitByte ls part l b).formed := by
  unfold State.commitByte
  split
  · exact h
  · split
    · exact h
    · exact formed_setByte h _ _

@[simp] theorem State.logUndo_mem (s : State) (dom owner : Nat) (va : Option Nat) (line : Nat) : (s.logUndo dom owner va line).mem = s.mem := by
  unfold State.logUndo
  split
  · rfl
  · split <;> rfl

end Sys2Proof.Machine
end

