-- ==== Sys2Proof/Laws/Run.lean ====
section
/-!
SUPPORT. Sys2Proof/Laws/Run.lean: what running a piece of a meaning does, piece by piece, and what the shared shapes of the scalar
instructions answer for a thread that runs (Safety.lean, State.plain). Later proofs cite these and unfold no monad.
-/

set_option Elab.async false

namespace Sys2Proof.Machine

/-! ### Pieces of a meaning -/

@[simp] theorem run_bind {α β : Type} (m : M α) (f : α → M β) (s : State) :
    (m >>= f) s = (match m s with | .ok (a, t) => f a t | .error e => .error e) := by
  simp only [bind, StateT.bind, Except.bind]
  cases m s with
  | ok p => rfl
  | error e => rfl

@[simp] theorem run_pure {α : Type} (a : α) (s : State) : (pure a : M α) s = .ok (a, s) := rfl

@[simp] theorem run_modify (f : State → State) (s : State) : (modify f : M Unit) s = .ok ((), f s) := rfl

@[simp] theorem run_get (s : State) : (get : M State) s = .ok (s, s) := rfl

@[simp] theorem run_set (t s : State) : (set t : M Unit) s = .ok ((), t) := rfl

@[simp] theorem run_stop {α : Type} (e : Stop) (s : State) : (stop e : M α) s = .error e := rfl

@[simp] theorem run_raise {α : Type} (c v : Nat) (s : State) : (raise c v : M α) s = .error (.trap c (BitVec.ofNat 64 v)) := rfl

@[simp] theorem run_waitFor {α : Type} (k : WaitKind) (s : State) : (waitFor k : M α) s = .error (.wait { kind := k }) := rfl

@[simp] theorem run_illegal {α : Type} (s : State) : (illegal : M α) s = .error (.trap causeIllegal s.ir) := rfl

@[simp] theorem run_ite {α : Type} (c : Prop) [Decidable c] (m n : M α) (s : State) : (if c then m else n) s = if c then m s else n s := by
  split <;> rfl

@[simp] theorem run_wrReg (r : Reg) (v : Word) (s : State) : wrReg r v s = .ok ((), s.setReg r v) := rfl

@[simp] theorem run_wrHandle (h : HReg) (v : HWord) (s : State) : wrHandle h v s = .ok ((), s.setHandle h v) := rfl

@[simp] theorem run_retire (n : Nat) (s : State) : retire n s = .ok ((), s.retired n) := rfl

@[simp] theorem run_retireLong (n : Nat) (la : BitVec 4) (d : Dest) (s : State) : retireLong n la d s = .ok ((), s.retiredLong n la d) := rfl

@[simp] theorem run_retireHanded (n : Nat) (la : BitVec 4) (d : Dest) (s : State) :
    retireHanded n la d s = .ok ((), (s.retiredLong n la d).rebase) := rfl

@[simp] theorem run_retireDone (n : Nat) (s : State) : retireDone n s = .ok ((), (s.retired n).rebase) := rfl

/-! ### Threads that run -/

theorem State.plain.not_ahead {s : State} (h : s.plain) : s.ahead = false := by
  simp [State.ahead, h.1]

theorem State.plain.rdReg {s : State} (h : s.plain) (r : Reg) : rdReg r s = .ok (s.x r, s) := by
  simp [Machine.rdReg, h.2, State.x]

theorem State.plain.rdHandle {s : State} (h : s.plain) (r : HReg) : rdHandle r s = .ok (s.hreg r, s) := by
  simp [Machine.rdHandle, h.2, State.hreg]

/-- A chunk that may commit ends where the instruction asks for it (02 R49). -/
theorem State.plain.endChunk {s : State} (h : s.plain) (hc : s.canCommit = true) : endChunk s = .ok ((), s.commitCur) := by
  simp [Machine.endChunk, h.not_ahead, hc]

/-! ### Outcomes -/

theorem complete_ok {i : Instr} {m : M Unit} {s t : State} (h : m s = .ok ((), t)) : complete i m s = .next t := by
  simp [complete, h]

/-- A trap of a running thread is taken (06 R144). -/
theorem complete_trap {i : Instr} {m : M Unit} {s : State} {c : Nat} {v : Word} {k : Nat} (h : m s = .error (.trap c v k)) (hs : s.plain) :
    complete i m s = .next (s.trap i c v false k []) := by
  simp [complete, h, hs.not_ahead]

/-- An instruction that must wait keeps itself for its retry. -/
theorem complete_wait {i : Instr} {m : M Unit} {s : State} {w : Wait} (h : m s = .error (.wait w)) :
    complete i m s = .next (s.block { w with ins := some i }) := by
  simp [complete, h]

/-! ### The shared shapes of the scalar instructions -/

theorem unary_plain {s : State} (h : s.plain) (i : Instr) (rd a : Reg) (f : Word → Word) :
    unary i rd a f s = .next ((s.setReg rd (f (s.x a))).retired i.len) := by
  apply complete_ok; simp [h.rdReg]

theorem binary_plain {s : State} (h : s.plain) (i : Instr) (rd a b : Reg) (f : Word → Word → Word) :
    binary i rd a b f s = .next ((s.setReg rd (f (s.x a) (s.x b))).retired i.len) := by
  apply complete_ok; simp [h.rdReg]

theorem binaryLong_plain {s : State} (h : s.plain) (i : Instr) (rd a b : Reg) (la : BitVec 4) (f : Word → Word → Word) :
    binaryLong i rd a b la f s = .next ((s.setReg rd (f (s.x a) (s.x b))).retiredLong i.len la (.reg rd)) := by
  apply complete_ok; simp [h.rdReg]

/-- A target in the 56-bit space is gone to. -/
theorem jumpTo_near {t : Word} {s : State} (ht : t.toNat < 2 ^ 56) : jumpTo t s = .ok ((), s.jumped t) := by
  unfold jumpTo; rw [if_neg (Nat.not_le.mpr ht)]; rfl

/-- A target outside it traps, and nothing is written (02 R23). -/
theorem jumpTo_far {t : Word} {s : State} (ht : 2 ^ 56 ≤ t.toNat) : jumpTo t s = .error (.trap causePageFault (BitVec.ofNat 64 t.toNat)) := by
  unfold jumpTo; rw [if_pos ht]; rfl

/-- A jump that links: rd is written and the target is gone to. -/
theorem link_near {i : Instr} {rd : Reg} {m : M Word} {s : State} {t : Word} (hm : m s = .ok (t, s)) (ht : t.toNat < 2 ^ 56) :
    link i rd m s = .next ((s.setReg rd (s.ctx.arch.pc + BitVec.ofNat 64 i.len)).jumped t) := by
  apply complete_ok; simp [hm, jumpTo_near ht]

/-- A jump to a target outside the space traps at itself, rd unchanged. -/
theorem link_far {i : Instr} {rd : Reg} {m : M Word} {s : State} {t : Word} (h : s.plain) (hm : m s = .ok (t, s)) (ht : 2 ^ 56 ≤ t.toNat) :
    link i rd m s = .next (s.trap i causePageFault (BitVec.ofNat 64 t.toNat) false 0 []) := by
  refine complete_trap ?_ h; simp [hm, jumpTo_far ht]

/-- A branch that is not taken goes on. -/
theorem branch_not_taken {n : Nat} {s : State} (h : s.plain) (i : Instr) (a b : Reg) (off : BitVec n) (c : Word → Word → Bool)
    (hc : c (s.x a) (s.x b) = false) : branch i a b off c s = .next (s.retired i.len) := by
  apply complete_ok; simp [h.rdReg, hc]

/-- A branch that is taken to an address in the space continues there. -/
theorem branch_taken {n : Nat} {s : State} (h : s.plain) (i : Instr) (a b : Reg) (off : BitVec n) (c : Word → Word → Bool)
    (hc : c (s.x a) (s.x b) = true) (ht : (halfwords s.ctx.arch.pc off).toNat < 2 ^ 56) :
    branch i a b off c s = .next (s.jumped (halfwords s.ctx.arch.pc off)) := by
  apply complete_ok; simp [h.rdReg, hc, jumpTo_near ht]

/-! ### Memory accesses of a running thread -/

/-- A read whose address passes its checks delivers the bytes the core sees, little-endian. -/
theorem memRead_placed {va n : Nat} {a : Access} {s u : State} {p : Place} (h : placeOf va n a s = .ok (p, u)) :
    memRead va n a s = .ok (ofLeBytes ((u.noteRead p).seenBytes p.kind p.loc n), u.noteRead p) := by
  simp only [memRead, run_bind, h, run_modify]; rfl

/-- A write whose address passes its checks puts its bytes into the chunk; a line of a WO range is written once (10 R238). -/
theorem memWriteTag_placed {tag va n v : Nat} {a : Access} {s u : State} {p : Place} (ha : s.ahead = false) (h : placeOf va n a s = .ok (p, u))
    (hw : ¬ (p.kind = kindWo ∧ p.lineKey ∈ u.coh.written)) : memWriteTag tag va n v a s = .ok ((), u.noteWrite p (leBytes n v) tag) := by
  simp [memWriteTag, ha, h, hw]

/-- A refused address stops the access with nothing done. -/
theorem memRead_stopped {va n : Nat} {a : Access} {s : State} {e : Stop} (h : placeOf va n a s = .error e) : memRead va n a s = .error e := by
  simp [memRead, h]

theorem load_plain {s u : State} {p : Place} (h : s.plain) (i : Instr) (rd a : Reg) (la : BitVec 4) (n : Nat) (sg : Bool) (ea : Word → Nat)
    (hp : placeOf (ea (s.x a)) n .load s = .ok (p, u)) :
    load i rd a la n sg ea s = .next (((u.noteRead p).setReg rd (if sg then
      BitVec.ofInt 64 (signed (ofLeBytes ((u.noteRead p).seenBytes p.kind p.loc n)) (8 * n))
      else BitVec.ofNat 64 (ofLeBytes ((u.noteRead p).seenBytes p.kind p.loc n)))).retiredLong i.len la (.reg rd)) := by
  apply complete_ok; simp [h.rdReg, memRead_placed hp]

theorem loadAcq_plain {s u : State} {p : Place} (h : s.plain) (i : Instr) (rd a : Reg) (la : BitVec 4) (acq : Bool) (n : Nat) (sg : Bool) (imm : BitVec 9)
    (hp : placeOf (ea9 (s.x a) imm n) n .load s = .ok (p, u)) :
    loadAcq i rd a la acq n sg imm s = .next ((((u.noteRead p).acquired acq (ea9 (s.x a) imm n)).setReg rd (if sg then
      BitVec.ofInt 64 (signed (ofLeBytes ((u.noteRead p).seenBytes p.kind p.loc n)) (8 * n))
      else BitVec.ofNat 64 (ofLeBytes ((u.noteRead p).seenBytes p.kind p.loc n)))).retiredLong i.len la (.reg rd)) := by
  apply complete_ok; simp [h.rdReg, memRead_placed hp]

theorem store_plain {s r u : State} {p : Place} (h : s.plain) (i : Instr) (a b : Reg) (n : Nat) (ea : Word → Nat)
    (hr : reserveLines [s.lineKey s.coreId (ea (s.x a))] s = .ok ((), r)) (ha : r.ahead = false) (hp : placeOf (ea (s.x a)) n .store r = .ok (p, u))
    (hw : ¬ (p.kind = kindWo ∧ p.lineKey ∈ u.coh.written)) :
    store i a b n ea s = .next ((u.noteWrite p (leBytes n (s.x b).toNat) 512).retired i.len) := by
  apply complete_ok; simp [h.rdReg, lineOf, hr, memWrite, memWriteTag_placed ha hp hw]

/-- A release store is the store, in a chunk that is marked to write SWM lines back as it commits. -/
theorem storeRel_plain {s r u : State} {p : Place} (h : s.plain) (i : Instr) (a b : Reg) (n : Nat) (imm : BitVec 14)
    (hr : reserveLines [s.lineKey s.coreId (ea14 (s.x a) imm)] s = .ok ((), r)) (ha : r.ahead = false)
    (hp : placeOf (ea14 (s.x a) imm) n .store r = .ok (p, u)) (hw : ¬ (p.kind = kindWo ∧ p.lineKey ∈ u.coh.written)) :
    storeRel i a b n imm s = .next ((u.noteWrite p (leBytes n (s.x b).toNat) 512).released.retired i.len) := by
  apply complete_ok; simp [h.rdReg, lineOf, hr, memWrite, memWriteTag_placed ha hp hw]

/-- An atomic ends in its chunk, or, at the home slice, with a chunk of its own. -/
@[simp] theorem run_retireAtomic (home : Bool) (la : BitVec 4) (rd : Reg) (s : State) :
    retireAtomic home la rd s = .ok ((), if home then (s.retiredLong 4 la (.reg rd)).endedAlone s.ctx.arch.pc.toNat la (.reg rd)
      else s.retiredLong 4 la (.reg rd)) := by
  cases home <;> rfl

end Sys2Proof.Machine
end

