-- ==== Sys2Proof/Laws/Commit.lean ====
section
/-!
SUPPORT. Sys2Proof/Laws/Commit.lean: committing a chunk, and what it does, keep a running thread running, and keep memory canonical. Both follow from one
induction over what a commit is made of (`Kept`).
-/

set_option Elab.async false

namespace Sys2Proof.Machine

/-! ### What the homes do changes neither contexts nor memory (10 R233, R234) -/

/-- The two states differ neither in the executing context nor in memory. -/
def State.sameHold (s t : State) : Prop := t.ctx = s.ctx ∧ t.mem = s.mem

theorem State.sameHold.trans {s t u : State} (h : s.sameHold t) (k : t.sameHold u) : s.sameHold u := ⟨k.1.trans h.1, k.2.trans h.2⟩

theorem quiet_foldl {β : Type} (f : State → β → State) (hf : ∀ (s : State) b, s.sameHold (f s b)) (l : List β) (s : State) : s.sameHold (l.foldl f s) := by
  induction l generalizing s with
  | nil => exact ⟨rfl, rfl⟩
  | cons b l ih => exact (hf s b).trans (ih _)

theorem quiet_mapCore (s : State) (k : Nat) (f : Core → Core) : s.sameHold (s.mapCore k f) := ⟨rfl, rfl⟩

theorem quiet_mapCoh (s : State) (f : Coherence → Coherence) : s.sameHold (s.mapCoh f) := ⟨rfl, rfl⟩

/-- A request filed at an arbiter changes the list of requests alone. -/
theorem State.ask_eq (s : State) (structure_ die index owner : Nat) :
    s.ask structure_ die index owner = { s with arbRequests := (s.ask structure_ die index owner).arbRequests } := by
  unfold State.ask; split <;> rfl

theorem quiet_ask (s : State) (structure_ die index owner : Nat) : s.sameHold (s.ask structure_ die index owner) := by
  rw [s.ask_eq]; exact ⟨rfl, rfl⟩

theorem quiet_askCommit (s : State) (owner : Nat) (dies : List Nat) : s.sameHold (s.askCommit owner dies) :=
  quiet_foldl _ (fun _ _ => quiet_ask _ _ _ _ _) _ _

theorem quiet_askIo (s : State) (die io owner : Nat) : s.sameHold (s.askIo die io owner) := by
  unfold State.askIo
  split
  · exact quiet_ask _ _ _ _ _
  · exact (quiet_ask _ _ _ _ _).trans (quiet_ask _ _ _ _ _)

theorem quiet_askMemory (s : State) (owner line : Nat) : s.sameHold (s.askMemory owner line) := by
  unfold State.askMemory
  repeat' split
  · exact quiet_ask _ _ _ _ _
  · exact (quiet_askIo _ _ _ _).trans (quiet_ask _ _ _ _ _)
  · exact ⟨rfl, rfl⟩

theorem quiet_askNetwork (s : State) (owner src dst : Nat) : s.sameHold (s.askNetwork owner src dst) := by
  unfold State.askNetwork
  dsimp only
  split
  · exact quiet_ask _ _ _ _ _
  · exact (quiet_ask _ _ _ _ _).trans (quiet_ask _ _ _ _ _)

theorem quiet_askHome (s : State) (line req : Nat) : s.sameHold (s.askHome line req) :=
  (quiet_askNetwork _ _ _ _).trans (quiet_ask _ _ _ _ _)

theorem quiet_fillL2 (s : State) (line : Nat) (pinned : Bool) : s.sameHold (s.fillL2 line pinned) := by
  unfold State.fillL2
  dsimp only
  repeat' split
  all_goals first
    | exact ⟨rfl, rfl⟩
    | exact State.sameHold.trans ⟨rfl, rfl⟩ (quiet_askMemory _ _ _)

theorem quiet_homeEvent (s : State) (ev line req : Nat) : s.sameHold (s.homeEvent ev line req) := by
  unfold State.homeEvent
  split
  · exact ⟨rfl, rfl⟩
  · exact (quiet_askHome _ _ _).trans (quiet_mapCoh _ _)

theorem quiet_unbusy (s : State) (line : Nat) : s.sameHold (s.unbusy line) := by
  unfold State.unbusy
  split
  · dsimp only
    split
    · exact ((quiet_mapCoh _ _).trans (quiet_mapCoh _ _)).trans (quiet_homeEvent _ _ _ _)
    · exact quiet_mapCoh _ _
  · exact ⟨rfl, rfl⟩

theorem quiet_answered (s : State) (line : Nat) (data : Bool) : s.sameHold (s.answered line data) := (quiet_mapCoh _ _).trans (quiet_unbusy _ _)

theorem quiet_takeMsg (s : State) (m : ProtoMsg) : s.sameHold (s.takeMsg m) := by
  unfold State.takeMsg
  dsimp only
  repeat' split
  all_goals first
    | exact ⟨rfl, rfl⟩
    | exact (quiet_mapCoh _ _).trans (quiet_answered _ _ _)

theorem quiet_settle (n : Nat) (s : State) : s.sameHold (State.settle n s) := by
  induction n generalizing s with
  | zero => exact ⟨rfl, rfl⟩
  | succ n ih =>
    unfold State.settle
    split
    · exact ⟨rfl, rfl⟩
    · exact (quiet_takeMsg _ _).trans (ih _)

theorem quiet_transact (s : State) (ev line req : Nat) : s.sameHold (s.transact ev line req) := (quiet_homeEvent _ _ _ _).trans (quiet_settle _ _)

theorem quiet_writeEvent (s : State) (core line : Nat) : s.sameHold (s.writeEvent core line) := (quiet_fillL2 _ _ _).trans (quiet_transact _ _ _ _)

theorem quiet_commitTag (s : State) (line vline : Nat) (tag : Option Nat) (bs : List Byte) : s.sameHold (s.commitTag line vline tag bs) := by
  unfold State.commitTag
  split
  · exact ⟨rfl, rfl⟩
  · split
    · exact quiet_mapCoh _ _
    · exact (quiet_fillL2 _ _ _).trans (quiet_mapCoh _ _)

theorem quiet_noteBehind (s : State) (line : Nat) (before : State) : s.sameHold (s.noteBehind line before) := by
  unfold State.noteBehind
  repeat' split
  all_goals exact ⟨rfl, rfl⟩

theorem quiet_landHomes (s : State) (c : Chunk) (before : State) : s.sameHold (s.landHomes c before) :=
  ((quiet_foldl _ (fun _ _ => quiet_noteBehind _ _ _) _ _).trans (quiet_mapCoh _ _)).trans (quiet_foldl _ (fun _ _ => quiet_writeEvent _ _ _) _ _)

theorem quiet_logUndo (s : State) (dom owner : Nat) (va : Option Nat) (line : Nat) : s.sameHold (s.logUndo dom owner va line) := by
  unfold State.logUndo
  repeat' split
  all_goals exact ⟨rfl, rfl⟩

theorem quiet_putReg (s : State) (core index : Nat) (v : Word) : s.sameHold (s.putReg core index v) := by
  unfold State.putReg
  repeat' split
  all_goals exact ⟨rfl, rfl⟩

theorem quiet_reportGone (s : State) (core line : Nat) : s.sameHold (s.reportGone core line) := by
  unfold State.reportGone
  dsimp only
  split
  · exact ((quiet_mapCoh _ _).trans (quiet_mapCoh _ _)).trans (quiet_homeEvent _ _ _ _)
  · exact (quiet_mapCoh _ _).trans (quiet_homeEvent _ _ _ _)

theorem quiet_dropVictim (s : State) (core line : Nat) : s.sameHold (s.dropVictim core line) := by
  unfold State.dropVictim
  dsimp only
  repeat' split
  · exact ⟨rfl, rfl⟩
  · exact quiet_mapCoh _ _
  · exact (quiet_mapCoh _ _).trans (quiet_reportGone _ _ _)

theorem quiet_backInvalidate (s : State) (die line : Nat) : s.sameHold (s.backInvalidate die line) := by
  unfold State.backInvalidate
  split
  · exact (quiet_mapCoh _ _).trans (quiet_reportGone _ _ _)
  · exact ⟨rfl, rfl⟩

theorem quiet_fillFilter (s : State) (core line : Nat) : s.sameHold (s.fillFilter core line) := by
  unfold State.fillFilter
  dsimp only
  repeat' split
  all_goals first
    | exact ⟨rfl, rfl⟩
    | exact State.sameHold.trans (quiet_mapCoh _ _) (quiet_backInvalidate _ _ _)

theorem quiet_own (s : State) (core line : Nat) : s.sameHold (s.own core line) := by
  unfold State.own
  dsimp only
  split
  · exact (quiet_fillFilter _ _ _).trans (quiet_mapCoh _ _)
  · exact ((quiet_transact _ _ _ _).trans (quiet_fillFilter _ _ _)).trans (quiet_mapCoh _ _)

/-! ### What a commit keeps -/

/-- A context that executes and does not run ahead. -/
abbrev Context.runs (c : Context) : Prop := c.life = .running ∧ c.runahead = none

/-- A property of states that every piece of a commit keeps: it depends on the executing context and on memory alone, a byte's write keeps it, and so does
a change of the executing context that leaves a running thread running. -/
structure Kept (P : State → Prop) : Prop where
  quiet : ∀ {s t : State}, P s → s.sameHold t → P t
  byte : ∀ {s : State} (l : Nat) (b : Byte), P s → P (s.setByte l b)
  ctx : ∀ {s : State} (c : Context), P s → (s.ctx.runs → c.runs) → P { s with ctx := c }

theorem kept_plain : Kept State.plain where
  quiet := fun h q => by simpa only [State.plain, q.1] using h
  byte := fun _ _ h => h
  ctx := fun _ h k => k h

theorem kept_formed : Kept State.formed where
  quiet := fun h q => by simpa only [State.formed, q.2] using h
  byte := fun _ _ h => State.formed_setByte h _ _
  ctx := fun _ h _ => h

variable {P : State → Prop}

theorem Kept.fold (_ : Kept P) {β : Type} {f : State → β → State} (hf : ∀ s b, P s → P (f s b)) (l : List β) {s : State} (h : P s) : P (l.foldl f s) :=
  foldl_keeps P f hf l h

theorem Kept.bytes (K : Kept P) {s : State} (h : P s) (l : Nat) (bs : List Byte) : P (s.setBytes l bs) := by
  induction bs generalizing s l with
  | nil => exact h
  | cons b bs ih => exact ih (K.byte l b h) (l + 1)

theorem Kept.mapCtxs (K : Kept P) {s : State} (f : Nat → Nat → Context → Context) (h : P s) (hf : s.ctx.runs → (f s.cur.1 s.cur.2 s.ctx).runs) :
    P (s.mapCtxs f) :=
  K.ctx (s := s.mapOthers f) _ (K.quiet h ⟨rfl, rfl⟩) hf

theorem Kept.setCtxAt (K : Kept P) {s : State} (h : P s) (core slot : Nat) (c : Context) (hc : s.cur = (core, slot) → s.ctx.runs → c.runs) :
    P (s.setCtxAt core slot c) := by
  unfold State.setCtxAt
  split
  · exact K.ctx _ h (hc ‹_›)
  · exact K.quiet h ⟨rfl, rfl⟩

theorem runs_not_waiting {c : Context} (h : c.runs) : c.life ≠ .waiting := by rw [h.1]; decide

theorem Kept.wakeRetries (K : Kept P) {s : State} (h : P s) : P s.wakeRetries :=
  K.mapCtxs _ h fun r => by rw [if_neg (fun c => runs_not_waiting r c.1)]; exact r

theorem Kept.fireWatches (K : Kept P) {s : State} (h : P s) (ls : List Nat) (w : Option (Nat × Nat)) : P (s.fireWatches ls w) := by
  unfold State.fireWatches
  split
  · exact h
  · exact K.mapCtxs (s := { s with cores := _ }) _ (K.quiet h ⟨rfl, rfl⟩) fun r => by
      rw [if_neg (fun c => runs_not_waiting r c.1)]; exact r

theorem Kept.wakeEvicted (K : Kept P) {s : State} (h : P s) (core line : Nat) : P (s.wakeEvicted core line) := by
  unfold State.wakeEvicted
  dsimp only
  split
  · exact h
  · exact K.mapCtxs _ h fun r => by rw [if_neg (fun c => runs_not_waiting r c.2.2.1)]; exact r

theorem Kept.undoReg (K : Kept P) {s : State} (h : P s) (core : Nat) (e : RegUndo) : P (State.undoReg core s e) := by
  unfold State.undoReg
  dsimp only
  split
  · exact K.quiet (K.quiet h (quiet_putReg _ _ _ _)) ⟨rfl, rfl⟩
  · exact K.mapCtxs _ h id

theorem Kept.undoRegs (K : Kept P) {s : State} (h : P s) (core : Nat) (l : List RegUndo) : P (l.foldl (State.undoReg core) s) :=
  K.fold (fun _ e hs => K.undoReg hs core e) l h

theorem undoReg_ctx (core : Nat) (s : State) (e : RegUndo) : (State.undoReg core s e).ctx.runs ↔ s.ctx.runs := by
  unfold State.undoReg
  dsimp only
  split
  · simp only [(quiet_putReg s core e.index e.old).1]
  · exact Iff.rfl

theorem Context.runs_squash {c : Context} (k : KRegs) (h : c.runs) : (c.squash k).runs := by
  refine ⟨?_, h.2⟩
  simp [Context.squash, h.1]

theorem Kept.squashAt (K : Kept P) {s : State} (h : P s) (core slot : Nat) : P (s.squashAt core slot) := by
  have hc : ∀ (l : List RegUndo) (t : State), (l.foldl (State.undoReg core) t).cur = t.cur ∧
      ((l.foldl (State.undoReg core) t).ctx.runs ↔ t.ctx.runs) := by
    intro l
    induction l with
    | nil => exact fun t => ⟨rfl, Iff.rfl⟩
    | cons e l ih =>
      intro t
      refine ⟨(ih _).1.trans ?_, (ih _).2.trans (undoReg_ctx core t e)⟩
      unfold State.undoReg State.putReg
      dsimp only
      repeat' split
      all_goals rfl
  unfold State.squashAt
  refine K.setCtxAt (K.undoRegs h _ _) _ _ _ fun e r => ?_
  have e := (hc _ s).1.symm.trans e
  have r := (hc _ s).2.mp r
  have : s.ctxAt core slot = s.ctx := by simp [State.ctxAt, e]
  rw [this] at *
  exact Context.runs_squash _ r

theorem Kept.squashMeeting (K : Kept P) {s : State} (h : P s) (ls : List Nat) : P (s.squashMeeting ls) :=
  K.fold (fun _ _ hs => K.squashAt hs _ _) _ h

theorem Kept.commitByte (K : Kept P) {s : State} (h : P s) (ls : List Nat) (part l : Nat) (b : Byte) : P (s.commitByte ls part l b) := by
  unfold State.commitByte
  split
  · exact K.quiet h ⟨rfl, rfl⟩
  · split
    · exact K.quiet h ⟨rfl, rfl⟩
    · exact K.byte _ _ h

theorem Kept.consume (K : Kept P) {s : State} (h : P s) (core line vline : Nat) : P (s.consume core line vline) := by
  unfold State.consume
  split
  · split
    · exact h
    · dsimp only
      have h := K.quiet h (quiet_transact s evFwdtagConsume vline core)
      split
      · exact K.quiet (K.bytes h _ _) (quiet_mapCoh _ _)
      · exact K.quiet h (quiet_mapCoh _ _)
  · exact h

theorem Kept.landWrites (K : Kept P) {s : State} (h : P s) (c : Chunk) : P (s.landWrites c) := by
  unfold State.landWrites
  apply K.fold
  · rintro t ⟨i, v⟩ ht
    cases v with
    | none => exact ht
    | some b => exact K.commitByte ht _ _ _ _
  · split
    · exact h
    · exact K.fold (fun _ _ ht => K.quiet ht (quiet_logUndo _ _ _ _ _)) _ h

theorem Kept.landMarks (K : Kept P) {s : State} (h : P s) (c : Chunk) (before : State) : P (s.landMarks c before) :=
  K.fold (fun _ _ ht => K.consume ht _ _ _) _
    (K.quiet (K.fold (fun _ _ ht => K.quiet ht (quiet_commitTag _ _ _ _ _)) _ h) ⟨rfl, rfl⟩)

theorem Kept.swmWriteLine (K : Kept P) {s : State} (h : P s) (core line : Nat) (l : SwmLine) : P (s.swmWriteLine core line l) := by
  have logged : ∀ b : Prop, [Decidable b] → P (if b then s else s.logUndo (s.coreSeam core) (s.core core).owner (some l.vline) line) := fun b _ => by
    split
    · exact h
    · exact K.quiet h (quiet_logUndo _ _ _ _ _)
  have bytes : ∀ (d : List (Nat × Option Byte)) (t : State), P t →
      P (d.foldl (fun s (x : Nat × Option Byte) => match x.2 with | some b => s.setByte (128 * line + x.1) b | none => s) t) := fun d t ht =>
    K.fold (fun t x ht => by
      split
      · exact K.byte _ _ ht
      · exact ht) _ ht
  have homed : ∀ (b d : Prop) [Decidable b] [Decidable d] (t : State), P t →
      P (if b then t else (if d then t else t.squashMeeting [line]).writeEvent core l.vline) := fun b d _ _ t ht => by
    split
    · exact ht
    · split
      · exact K.quiet ht (quiet_writeEvent _ _ _)
      · exact K.quiet (K.squashMeeting ht _) (quiet_writeEvent _ _ _)
  unfold State.swmWriteLine
  exact K.quiet (homed _ _ _ (bytes _ _ (logged _))) ⟨rfl, rfl⟩

theorem Kept.swmWriteBack (K : Kept P) {s : State} (h : P s) (core : Nat) : P (s.swmWriteBack core) := by
  unfold State.swmWriteBack
  refine K.fold ?_ _ h
  rintro t ⟨k, l⟩ ht
  dsimp only
  repeat' split
  all_goals first | exact ht | exact K.swmWriteLine ht _ _ _

theorem Kept.landRelease (K : Kept P) {s : State} (h : P s) (c : Chunk) : P (s.landRelease c) := by
  unfold State.landRelease
  split
  · exact K.swmWriteBack h _
  · exact h

theorem Kept.evictL1 (K : Kept P) {s : State} (h : P s) (core line : Nat) : P (s.evictL1 core line) := by
  unfold State.evictL1
  refine K.wakeEvicted (K.quiet (K.fold ?_ _ h) (quiet_dropVictim _ _ _)) _ _
  rintro t ⟨k, l⟩ ht
  exact K.quiet (K.swmWriteLine ht _ _ _) (quiet_mapCoh _ _)

theorem Kept.fillL1 (K : Kept P) {s : State} (h : P s) (line : Nat) : P (s.fillL1 line) := by
  unfold State.fillL1
  dsimp only
  split
  · exact h
  · split
    · exact K.evictL1 (K.quiet h (((quiet_mapCoh s _).trans (quiet_askNetwork _ _ _ _)).trans (quiet_fillL2 _ line _))) _ _
    · exact K.quiet h (((quiet_mapCoh s _).trans (quiet_askNetwork _ _ _ _)).trans (quiet_fillL2 _ line _))

theorem Kept.reown (K : Kept P) {s : State} (h : P s) (line : Nat) : P (s.reown line) := K.quiet (K.fillL1 h line) (quiet_own _ _ _)

/-- Committing keeps whatever is kept (09 R197). -/
theorem Kept.commitCur (K : Kept P) {s : State} (h : P s) : P s.commitCur := by
  have h1 := K.fold (fun t l ht => K.reown (s := t) ht l) s.ctx.chunk.ownLines (K.quiet h (quiet_askCommit s s.ctx.owner (s.commitDies s.ctx.chunk)))
  have h2 := K.landRelease (K.quiet (K.landMarks (K.landWrites h1 s.ctx.chunk) s.ctx.chunk s) (quiet_landHomes _ s.ctx.chunk s)) s.ctx.chunk
  have h3 := fun w => K.fireWatches (K.squashMeeting h2 s.ctx.chunk.writeLines) s.ctx.chunk.vaLines w
  unfold State.commitCur
  dsimp only
  split
  · exact K.ctx _ h id
  · split <;> split
    · exact K.ctx _ (h3 _) id
    · refine K.wakeRetries ?_
      exact K.ctx _ (h3 _) id
    · refine K.quiet ?_ (quiet_mapCore _ _ _)
      exact K.ctx _ (h3 _) id
    · refine K.wakeRetries (K.quiet ?_ (quiet_mapCore _ _ _))
      exact K.ctx _ (h3 _) id

/-- Committing leaves a running thread running (09 R197). -/
theorem plain_commitCur {s : State} (h : s.plain) : s.commitCur.plain := kept_plain.commitCur h

/-- Committing keeps memory canonical. -/
theorem State.formed_commitCur {s : State} (h : s.formed) : s.commitCur.formed := kept_formed.commitCur h

end Sys2Proof.Machine
end

