-- ==== Sys2Proof/Laws/Flits.lean ====
section
/-!
SUPPORT. Sys2Proof/Laws/Flits.lean: bytes in little-endian order, and the CRC of the flits that are sent.
-/

set_option Elab.async false

namespace Sys2Proof.Machine

theorem leBytes_length (n w : Nat) : (leBytes n w).length = n := by
  induction n generalizing w with
  | zero => rfl
  | succ n ih => simp [leBytes, ih]

theorem ofLeBytes_leBytes (n w : Nat) (h : w < 256 ^ n) : ofLeBytes (leBytes n w) = w := by
  induction n generalizing w with
  | zero => simp [leBytes, ofLeBytes]; omega
  | succ n ih =>
    have : w / 256 < 256 ^ n := by rw [Nat.div_lt_iff_lt_mul (by decide)]; simpa [Nat.pow_succ] using h
    simp [leBytes, ofLeBytes, ih _ this]
    omega

theorem flitHead_length (k q a c : Nat) (p : List Byte) : (flitHead k q a c p).length = 248 := by
  have h : ((p ++ List.replicate 240 0).take 240).length = 240 := by
    rw [List.length_take, List.length_append, List.length_replicate]; omega
  simp only [flitHead, List.length_append, leBytes_length, h]

/-- A flit that is sent carries the CRC of its first 248 bytes (24 R415). -/
theorem flit_crc (k q a c : Nat) (p : List Byte) :
    ofLeBytes (((flitOf k q a c p).drop 248).take 8) = (crc64 ((flitOf k q a c p).take 248)).toNat := by
  have h := flitHead_length k q a c p
  have e : (leBytes 8 (crc64 (flitHead k q a c p)).toNat).take 8 = leBytes 8 (crc64 (flitHead k q a c p)).toNat :=
    List.take_of_length_le (Nat.le_of_eq (leBytes_length ..))
  simp only [flitOf]
  rw [show 248 = (flitHead k q a c p).length from h.symm, List.drop_left, List.take_left, e]
  exact ofLeBytes_leBytes 8 _ (Nat.lt_of_lt_of_le (crc64 (flitHead k q a c p)).isLt (by decide))

end Sys2Proof.Machine
end

