-- ==== Sys2Proof/Laws/Pages.lean ====
section
/-!
SUPPORT. Sys2Proof/Laws/Pages.lean: a walk of the page table depends on the 64 KiB page of its address alone, and what lysa reads inside one page.
-/

set_option Elab.async false

namespace Sys2Proof.Machine

theorem levelShift_ge (level : Nat) : 16 ≤ levelShift level := by
  unfold levelShift
  split <;> decide

/-- Every index of a walk comes from the page number. -/
theorem div_levelShift {va vb : Nat} (h : va / 65536 = vb / 65536) (level : Nat) : va / 2 ^ levelShift level = vb / 2 ^ levelShift level := by
  have e : 2 ^ levelShift level = 65536 * 2 ^ (levelShift level - 16) := by
    rw [show 65536 = 2 ^ 16 from rfl, ← Nat.pow_add, Nat.add_sub_cancel' (levelShift_ge level)]
  rw [e, ← Nat.div_div_eq_div_mul, ← Nat.div_div_eq_div_mul, h]

theorem leafOf_page {va vb : Nat} (h : va / 65536 = vb / 65536) (level entry e : Nat) : leafOf va level entry e = leafOf vb level entry e := by
  simp only [leafOf, div_levelShift h]

theorem walkFrom_page (s : State) {va vb : Nat} (h : va / 65536 = vb / 65536) (fuel level table : Nat) :
    s.walkFrom va fuel level table = s.walkFrom vb fuel level table := by
  induction fuel generalizing level table with
  | zero => rfl
  | succ n ih => simp only [State.walkFrom, div_levelShift h, leafOf_page h, ih]

/-- The walks of two addresses in one 64 KiB page end alike (22 R377). -/
theorem walk_page (s : State) {va vb : Nat} (h : va / 65536 = vb / 65536) : s.walk va = s.walk vb := by
  have top : 2 ^ 56 ≤ va ↔ 2 ^ 56 ≤ vb := by omega
  have zero : inZeroPage va = inZeroPage vb := by
    have : va < 65536 ↔ vb < 65536 := by omega
    simp only [inZeroPage, this]
  simp only [State.walk, top, zero, walkFrom_page s h]

/-- Lysa reads bytes of a page that the domain may read, all below the windows, from the page's frame. -/
theorem ownerRead_page {s : State} {domain va : Nat} {l : Leaf} (h : s.walk va = some l) (hr : l.rightsOf domain &&& 4 = 4) (hp : l.p = true)
    (hf : l.frame < 2 ^ 51) (hc : l.cls ≠ clsPoisoned) (n : Nat) (hn : va % 65536 + n ≤ 65536) (hw : ∀ i, i < n → inWindowRegion (va + i) = false) (hl : l.va ≤ va) :
    s.ownerRead domain n va = .ok ((List.range n).map fun i => s.byteAt (l.frame + (va + i - l.va))) := by
  induction n generalizing va with
  | zero => rfl
  | succ n ih =>
    have w0 : inWindowRegion va = false := by simpa using hw 0 (by omega)
    have loc : s.ownerLoc domain va 4 = some (l.frame + (va - l.va)) := by
      simp only [State.ownerLoc, w0, h, hr, hp, hf, hc, Bool.false_eq_true, if_false, ne_eq, not_false_eq_true, and_self, if_true]
    simp only [State.ownerRead, loc]
    cases n with
    | zero => simp [State.ownerRead]
    | succ n =>
      have h1 : s.walk (va + 1) = some l := by rw [walk_page s (show (va + 1) / 65536 = va / 65536 by omega), h]
      rw [ih h1 (by omega) (fun i hi => by rw [Nat.add_assoc, Nat.add_comm 1 i]; exact hw (i + 1) (by omega)) (by omega)]
      simp [List.range_succ_eq_map, Function.comp_def, Nat.add_comm, Nat.add_left_comm]

end Sys2Proof.Machine
end

