-- ==== Sys2Proof/Laws/PerInstr.lean ====
section
/-!
SUPPORT. Sys2Proof/Laws/PerInstr.lean: the size of every instruction's encoding (02 R24, R41), one lemma per constructor: as many bytes as its length
says, two or four of them; an event has none.
-/

set_option Elab.async false

namespace Sys2Proof.Laws.Encoded

/-- The encoding has the instruction's length: two or four bytes, or none for an event. -/
def Statement (i : Instr) : Prop := (encode i).length = i.len ∧ (i.len = 0 ∨ i.len = 2 ∨ i.len = 4)

theorem wordBytes_length (n w : Nat) : (wordBytes n w).length = n := by
  induction n generalizing w with
  | zero => rfl
  | succ n ih => exact congrArg (· + 1) (ih (w / 256))

/-- An instruction with a word is as long as its length says. -/
theorem of_word {i : Instr} {w : Nat} (h : i.word = some w) : (encode i).length = i.len := by
  simp only [encode, h, wordBytes_length]

theorem lb (rd rs1 : Reg) (imm : BitVec 9) (la : BitVec 4) (acq : Bool) : Statement (.lb rd rs1 imm la acq) := ⟨of_word rfl, .inr (.inr rfl)⟩
theorem lh (rd rs1 : Reg) (imm : BitVec 9) (la : BitVec 4) (acq : Bool) : Statement (.lh rd rs1 imm la acq) := ⟨of_word rfl, .inr (.inr rfl)⟩
theorem lw (rd rs1 : Reg) (imm : BitVec 9) (la : BitVec 4) (acq : Bool) : Statement (.lw rd rs1 imm la acq) := ⟨of_word rfl, .inr (.inr rfl)⟩
theorem ld (rd rs1 : Reg) (imm : BitVec 9) (la : BitVec 4) (acq : Bool) : Statement (.ld rd rs1 imm la acq) := ⟨of_word rfl, .inr (.inr rfl)⟩
theorem lbu (rd rs1 : Reg) (imm : BitVec 9) (la : BitVec 4) (acq : Bool) : Statement (.lbu rd rs1 imm la acq) := ⟨of_word rfl, .inr (.inr rfl)⟩
theorem lhu (rd rs1 : Reg) (imm : BitVec 9) (la : BitVec 4) (acq : Bool) : Statement (.lhu rd rs1 imm la acq) := ⟨of_word rfl, .inr (.inr rfl)⟩
theorem lwu (rd rs1 : Reg) (imm : BitVec 9) (la : BitVec 4) (acq : Bool) : Statement (.lwu rd rs1 imm la acq) := ⟨of_word rfl, .inr (.inr rfl)⟩
theorem sb (rs1 rs2 : Reg) (imm : BitVec 14) : Statement (.sb rs1 rs2 imm) := ⟨of_word rfl, .inr (.inr rfl)⟩
theorem sh (rs1 rs2 : Reg) (imm : BitVec 14) : Statement (.sh rs1 rs2 imm) := ⟨of_word rfl, .inr (.inr rfl)⟩
theorem sw (rs1 rs2 : Reg) (imm : BitVec 14) : Statement (.sw rs1 rs2 imm) := ⟨of_word rfl, .inr (.inr rfl)⟩
theorem sd (rs1 rs2 : Reg) (imm : BitVec 14) : Statement (.sd rs1 rs2 imm) := ⟨of_word rfl, .inr (.inr rfl)⟩
theorem swRel (rs1 rs2 : Reg) (imm : BitVec 14) : Statement (.swRel rs1 rs2 imm) := ⟨of_word rfl, .inr (.inr rfl)⟩
theorem sdRel (rs1 rs2 : Reg) (imm : BitVec 14) : Statement (.sdRel rs1 rs2 imm) := ⟨of_word rfl, .inr (.inr rfl)⟩
theorem sdFwd (rs1 rs2 : Reg) (imm : BitVec 14) : Statement (.sdFwd rs1 rs2 imm) := ⟨of_word rfl, .inr (.inr rfl)⟩
theorem addi (rd rs1 : Reg) (imm : BitVec 14) : Statement (.addi rd rs1 imm) := ⟨of_word rfl, .inr (.inr rfl)⟩
theorem slli (rd rs1 : Reg) (shamt : BitVec 6) : Statement (.slli rd rs1 shamt) := ⟨of_word rfl, .inr (.inr rfl)⟩
theorem slti (rd rs1 : Reg) (imm : BitVec 14) : Statement (.slti rd rs1 imm) := ⟨of_word rfl, .inr (.inr rfl)⟩
theorem sltiu (rd rs1 : Reg) (imm : BitVec 14) : Statement (.sltiu rd rs1 imm) := ⟨of_word rfl, .inr (.inr rfl)⟩
theorem xori (rd rs1 : Reg) (imm : BitVec 14) : Statement (.xori rd rs1 imm) := ⟨of_word rfl, .inr (.inr rfl)⟩
theorem srli (rd rs1 : Reg) (shamt : BitVec 6) : Statement (.srli rd rs1 shamt) := ⟨of_word rfl, .inr (.inr rfl)⟩
theorem srai (rd rs1 : Reg) (shamt : BitVec 6) : Statement (.srai rd rs1 shamt) := ⟨of_word rfl, .inr (.inr rfl)⟩
theorem ori (rd rs1 : Reg) (imm : BitVec 14) : Statement (.ori rd rs1 imm) := ⟨of_word rfl, .inr (.inr rfl)⟩
theorem andi (rd rs1 : Reg) (imm : BitVec 14) : Statement (.andi rd rs1 imm) := ⟨of_word rfl, .inr (.inr rfl)⟩
theorem add (rd rs1 rs2 : Reg) : Statement (.add rd rs1 rs2) := ⟨of_word rfl, .inr (.inr rfl)⟩
theorem sub (rd rs1 rs2 : Reg) : Statement (.sub rd rs1 rs2) := ⟨of_word rfl, .inr (.inr rfl)⟩
theorem sll (rd rs1 rs2 : Reg) : Statement (.sll rd rs1 rs2) := ⟨of_word rfl, .inr (.inr rfl)⟩
theorem slt (rd rs1 rs2 : Reg) : Statement (.slt rd rs1 rs2) := ⟨of_word rfl, .inr (.inr rfl)⟩
theorem sltu (rd rs1 rs2 : Reg) : Statement (.sltu rd rs1 rs2) := ⟨of_word rfl, .inr (.inr rfl)⟩
theorem xor (rd rs1 rs2 : Reg) : Statement (.xor rd rs1 rs2) := ⟨of_word rfl, .inr (.inr rfl)⟩
theorem srl (rd rs1 rs2 : Reg) : Statement (.srl rd rs1 rs2) := ⟨of_word rfl, .inr (.inr rfl)⟩
theorem sra (rd rs1 rs2 : Reg) : Statement (.sra rd rs1 rs2) := ⟨of_word rfl, .inr (.inr rfl)⟩
theorem or (rd rs1 rs2 : Reg) : Statement (.or rd rs1 rs2) := ⟨of_word rfl, .inr (.inr rfl)⟩
theorem and (rd rs1 rs2 : Reg) : Statement (.and rd rs1 rs2) := ⟨of_word rfl, .inr (.inr rfl)⟩
theorem min (rd rs1 rs2 : Reg) : Statement (.min rd rs1 rs2) := ⟨of_word rfl, .inr (.inr rfl)⟩
theorem max (rd rs1 rs2 : Reg) : Statement (.max rd rs1 rs2) := ⟨of_word rfl, .inr (.inr rfl)⟩
theorem minu (rd rs1 rs2 : Reg) : Statement (.minu rd rs1 rs2) := ⟨of_word rfl, .inr (.inr rfl)⟩
theorem maxu (rd rs1 rs2 : Reg) : Statement (.maxu rd rs1 rs2) := ⟨of_word rfl, .inr (.inr rfl)⟩
theorem mul (rd rs1 rs2 : Reg) : Statement (.mul rd rs1 rs2) := ⟨of_word rfl, .inr (.inr rfl)⟩
theorem mulh (rd rs1 rs2 : Reg) : Statement (.mulh rd rs1 rs2) := ⟨of_word rfl, .inr (.inr rfl)⟩
theorem mulhu (rd rs1 rs2 : Reg) : Statement (.mulhu rd rs1 rs2) := ⟨of_word rfl, .inr (.inr rfl)⟩
theorem clz (rd rs1 : Reg) : Statement (.clz rd rs1) := ⟨of_word rfl, .inr (.inr rfl)⟩
theorem ctz (rd rs1 : Reg) : Statement (.ctz rd rs1) := ⟨of_word rfl, .inr (.inr rfl)⟩
theorem popc (rd rs1 : Reg) : Statement (.popc rd rs1) := ⟨of_word rfl, .inr (.inr rfl)⟩
theorem brev (rd rs1 : Reg) : Statement (.brev rd rs1) := ⟨of_word rfl, .inr (.inr rfl)⟩
theorem seq (rd rs1 rs2 : Reg) : Statement (.seq rd rs1 rs2) := ⟨of_word rfl, .inr (.inr rfl)⟩
theorem sne (rd rs1 rs2 : Reg) : Statement (.sne rd rs1 rs2) := ⟨of_word rfl, .inr (.inr rfl)⟩
theorem addw (rd rs1 rs2 : Reg) : Statement (.addw rd rs1 rs2) := ⟨of_word rfl, .inr (.inr rfl)⟩
theorem subw (rd rs1 rs2 : Reg) : Statement (.subw rd rs1 rs2) := ⟨of_word rfl, .inr (.inr rfl)⟩
theorem lui (rd : Reg) (imm : BitVec 21) : Statement (.lui rd imm) := ⟨of_word rfl, .inr (.inr rfl)⟩
theorem auipc (rd : Reg) (imm : BitVec 21) : Statement (.auipc rd imm) := ⟨of_word rfl, .inr (.inr rfl)⟩
theorem beq (rs1 rs2 : Reg) (imm : BitVec 14) : Statement (.beq rs1 rs2 imm) := ⟨of_word rfl, .inr (.inr rfl)⟩
theorem bne (rs1 rs2 : Reg) (imm : BitVec 14) : Statement (.bne rs1 rs2 imm) := ⟨of_word rfl, .inr (.inr rfl)⟩
theorem blt (rs1 rs2 : Reg) (imm : BitVec 14) : Statement (.blt rs1 rs2 imm) := ⟨of_word rfl, .inr (.inr rfl)⟩
theorem bge (rs1 rs2 : Reg) (imm : BitVec 14) : Statement (.bge rs1 rs2 imm) := ⟨of_word rfl, .inr (.inr rfl)⟩
theorem bltu (rs1 rs2 : Reg) (imm : BitVec 14) : Statement (.bltu rs1 rs2 imm) := ⟨of_word rfl, .inr (.inr rfl)⟩
theorem bgeu (rs1 rs2 : Reg) (imm : BitVec 14) : Statement (.bgeu rs1 rs2 imm) := ⟨of_word rfl, .inr (.inr rfl)⟩
theorem jal (rd : Reg) (imm : BitVec 21) : Statement (.jal rd imm) := ⟨of_word rfl, .inr (.inr rfl)⟩
theorem jalr (rd rs1 : Reg) (imm : BitVec 14) : Statement (.jalr rd rs1 imm) := ⟨of_word rfl, .inr (.inr rfl)⟩
theorem div (rd rs1 rs2 : Reg) (w32 : Bool) (la : BitVec 4) : Statement (.div rd rs1 rs2 w32 la) := ⟨of_word rfl, .inr (.inr rfl)⟩
theorem divu (rd rs1 rs2 : Reg) (w32 : Bool) (la : BitVec 4) : Statement (.divu rd rs1 rs2 w32 la) := ⟨of_word rfl, .inr (.inr rfl)⟩
theorem rem (rd rs1 rs2 : Reg) (w32 : Bool) (la : BitVec 4) : Statement (.rem rd rs1 rs2 w32 la) := ⟨of_word rfl, .inr (.inr rfl)⟩
theorem remu (rd rs1 rs2 : Reg) (w32 : Bool) (la : BitVec 4) : Statement (.remu rd rs1 rs2 w32 la) := ⟨of_word rfl, .inr (.inr rfl)⟩
theorem fadd (rd rs1 rs2 : Reg) (rm : BitVec 3) (fmt : BitVec 2) : Statement (.fadd rd rs1 rs2 rm fmt) := ⟨of_word rfl, .inr (.inr rfl)⟩
theorem fsub (rd rs1 rs2 : Reg) (rm : BitVec 3) (fmt : BitVec 2) : Statement (.fsub rd rs1 rs2 rm fmt) := ⟨of_word rfl, .inr (.inr rfl)⟩
theorem fmul (rd rs1 rs2 : Reg) (rm : BitVec 3) (fmt : BitVec 2) : Statement (.fmul rd rs1 rs2 rm fmt) := ⟨of_word rfl, .inr (.inr rfl)⟩
theorem fmin (rd rs1 rs2 : Reg) (fmt : BitVec 2) : Statement (.fmin rd rs1 rs2 fmt) := ⟨of_word rfl, .inr (.inr rfl)⟩
theorem fmax (rd rs1 rs2 : Reg) (fmt : BitVec 2) : Statement (.fmax rd rs1 rs2 fmt) := ⟨of_word rfl, .inr (.inr rfl)⟩
theorem fsgnj (rd rs1 rs2 : Reg) (j fmt : BitVec 2) : Statement (.fsgnj rd rs1 rs2 j fmt) := ⟨of_word rfl, .inr (.inr rfl)⟩
theorem feq (rd rs1 rs2 : Reg) (fmt : BitVec 2) : Statement (.feq rd rs1 rs2 fmt) := ⟨of_word rfl, .inr (.inr rfl)⟩
theorem flt (rd rs1 rs2 : Reg) (fmt : BitVec 2) : Statement (.flt rd rs1 rs2 fmt) := ⟨of_word rfl, .inr (.inr rfl)⟩
theorem fle (rd rs1 rs2 : Reg) (fmt : BitVec 2) : Statement (.fle rd rs1 rs2 fmt) := ⟨of_word rfl, .inr (.inr rfl)⟩
theorem fclass (rd rs1 : Reg) (fmt : BitVec 2) : Statement (.fclass rd rs1 fmt) := ⟨of_word rfl, .inr (.inr rfl)⟩
theorem fcvtFI (rd rs1 : Reg) (w32 uns : Bool) (rm : BitVec 3) (fmt : BitVec 2) : Statement (.fcvtFI rd rs1 w32 uns rm fmt) := ⟨of_word rfl, .inr (.inr rfl)⟩
theorem fcvtIF (rd rs1 : Reg) (w32 uns : Bool) (rm : BitVec 3) (fmt : BitVec 2) : Statement (.fcvtIF rd rs1 w32 uns rm fmt) := ⟨of_word rfl, .inr (.inr rfl)⟩
theorem fcvtFF (rd rs1 : Reg) (rm : BitVec 3) (fmt : BitVec 2) : Statement (.fcvtFF rd rs1 rm fmt) := ⟨of_word rfl, .inr (.inr rfl)⟩
theorem fmac (rd rs1 rs2 : Reg) (rm : BitVec 3) (fmt : BitVec 2) : Statement (.fmac rd rs1 rs2 rm fmt) := ⟨of_word rfl, .inr (.inr rfl)⟩
theorem fdiv (rd rs1 rs2 : Reg) (rm : BitVec 3) (dbl : Bool) (la : BitVec 4) : Statement (.fdiv rd rs1 rs2 rm dbl la) := ⟨of_word rfl, .inr (.inr rfl)⟩
theorem fsqrt (rd rs1 : Reg) (rm : BitVec 3) (dbl : Bool) (la : BitVec 4) : Statement (.fsqrt rd rs1 rm dbl la) := ⟨of_word rfl, .inr (.inr rfl)⟩
theorem amoAdd (rd rs1 rs2 : Reg) (ord : BitVec 2) (dbl : Bool) (la : BitVec 4) : Statement (.amoAdd rd rs1 rs2 ord dbl la) := ⟨of_word rfl, .inr (.inr rfl)⟩
theorem amoAnd (rd rs1 rs2 : Reg) (ord : BitVec 2) (dbl : Bool) (la : BitVec 4) : Statement (.amoAnd rd rs1 rs2 ord dbl la) := ⟨of_word rfl, .inr (.inr rfl)⟩
theorem amoOr (rd rs1 rs2 : Reg) (ord : BitVec 2) (dbl : Bool) (la : BitVec 4) : Statement (.amoOr rd rs1 rs2 ord dbl la) := ⟨of_word rfl, .inr (.inr rfl)⟩
theorem amoXor (rd rs1 rs2 : Reg) (ord : BitVec 2) (dbl : Bool) (la : BitVec 4) : Statement (.amoXor rd rs1 rs2 ord dbl la) := ⟨of_word rfl, .inr (.inr rfl)⟩
theorem amoMin (rd rs1 rs2 : Reg) (ord : BitVec 2) (dbl : Bool) (la : BitVec 4) : Statement (.amoMin rd rs1 rs2 ord dbl la) := ⟨of_word rfl, .inr (.inr rfl)⟩
theorem amoMax (rd rs1 rs2 : Reg) (ord : BitVec 2) (dbl : Bool) (la : BitVec 4) : Statement (.amoMax rd rs1 rs2 ord dbl la) := ⟨of_word rfl, .inr (.inr rfl)⟩
theorem amoMinu (rd rs1 rs2 : Reg) (ord : BitVec 2) (dbl : Bool) (la : BitVec 4) : Statement (.amoMinu rd rs1 rs2 ord dbl la) := ⟨of_word rfl, .inr (.inr rfl)⟩
theorem amoMaxu (rd rs1 rs2 : Reg) (ord : BitVec 2) (dbl : Bool) (la : BitVec 4) : Statement (.amoMaxu rd rs1 rs2 ord dbl la) := ⟨of_word rfl, .inr (.inr rfl)⟩
theorem amoSwap (rd rs1 rs2 : Reg) (ord : BitVec 2) (dbl : Bool) (la : BitVec 4) : Statement (.amoSwap rd rs1 rs2 ord dbl la) := ⟨of_word rfl, .inr (.inr rfl)⟩
theorem amoCas (rd rs1 rs2 : Reg) (ord : BitVec 2) (dbl : Bool) (la : BitVec 4) : Statement (.amoCas rd rs1 rs2 ord dbl la) := ⟨of_word rfl, .inr (.inr rfl)⟩
theorem amoFadd (rd rs1 rs2 : Reg) (ord : BitVec 2) (la : BitVec 4) : Statement (.amoFadd rd rs1 rs2 ord la) := ⟨of_word rfl, .inr (.inr rfl)⟩
theorem fence (kind : BitVec 2) (scope : BitVec 3) : Statement (.fence kind scope) := ⟨of_word rfl, .inr (.inr rfl)⟩
theorem fenceX (link : Bool) (later earlier : BitVec 4) : Statement (.fenceX link later earlier) := ⟨of_word rfl, .inr (.inr rfl)⟩
theorem chunk : Statement (.chunk) := ⟨of_word rfl, .inr (.inr rfl)⟩
theorem seam (rs1 : Reg) : Statement (.seam rs1) := ⟨of_word rfl, .inr (.inr rfl)⟩
theorem watch (rd rs1 : Reg) : Statement (.watch rd rs1) := ⟨of_word rfl, .inr (.inr rfl)⟩
theorem sleep (rd rs1 : Reg) : Statement (.sleep rd rs1) := ⟨of_word rfl, .inr (.inr rfl)⟩
theorem unwatch (rs1 : Reg) : Statement (.unwatch rs1) := ⟨of_word rfl, .inr (.inr rfl)⟩
theorem hld (hd : HReg) (rs1 : Reg) (imm : BitVec 8) : Statement (.hld hd rs1 imm) := ⟨of_word rfl, .inr (.inr rfl)⟩
theorem hst (hd : HReg) (rs1 : Reg) (imm : BitVec 8) : Statement (.hst hd rs1 imm) := ⟨of_word rfl, .inr (.inr rfl)⟩
theorem hset (hd : HReg) (rs2 : Reg) (fld : BitVec 8) : Statement (.hset hd rs2 fld) := ⟨of_word rfl, .inr (.inr rfl)⟩
theorem hget (hd : HReg) (rs2 : Reg) (fld : BitVec 8) : Statement (.hget hd rs2 fld) := ⟨of_word rfl, .inr (.inr rfl)⟩
theorem hmov (hd hk : HReg) : Statement (.hmov hd hk) := ⟨of_word rfl, .inr (.inr rfl)⟩
theorem hadv (hd : HReg) (rs1 rs2 : Reg) : Statement (.hadv hd rs1 rs2) := ⟨of_word rfl, .inr (.inr rfl)⟩
theorem hzero (hd : HReg) : Statement (.hzero hd) := ⟨of_word rfl, .inr (.inr rfl)⟩
theorem rep (rs1 : Reg) (len : BitVec 5) (hstride sstride span : BitVec 3) : Statement (.rep rs1 len hstride sstride span) := ⟨of_word rfl, .inr (.inr rfl)⟩
theorem vadd (hd ha hb : HReg) (rm : BitVec 3) (la : BitVec 4) : Statement (.vadd hd ha hb rm la) := ⟨of_word rfl, .inr (.inr rfl)⟩
theorem vsub (hd ha hb : HReg) (rm : BitVec 3) (la : BitVec 4) : Statement (.vsub hd ha hb rm la) := ⟨of_word rfl, .inr (.inr rfl)⟩
theorem vmul (hd ha hb : HReg) (rm : BitVec 3) (la : BitVec 4) : Statement (.vmul hd ha hb rm la) := ⟨of_word rfl, .inr (.inr rfl)⟩
theorem vfma (hd ha hb hc : HReg) (rm : BitVec 3) (la : BitVec 4) : Statement (.vfma hd ha hb hc rm la) := ⟨of_word rfl, .inr (.inr rfl)⟩
theorem vmin (hd ha hb : HReg) (rm : BitVec 3) (la : BitVec 4) : Statement (.vmin hd ha hb rm la) := ⟨of_word rfl, .inr (.inr rfl)⟩
theorem vmax (hd ha hb : HReg) (rm : BitVec 3) (la : BitVec 4) : Statement (.vmax hd ha hb rm la) := ⟨of_word rfl, .inr (.inr rfl)⟩
theorem vabs (hd ha : HReg) (rm : BitVec 3) (la : BitVec 4) : Statement (.vabs hd ha rm la) := ⟨of_word rfl, .inr (.inr rfl)⟩
theorem vneg (hd ha : HReg) (rm : BitVec 3) (la : BitVec 4) : Statement (.vneg hd ha rm la) := ⟨of_word rfl, .inr (.inr rfl)⟩
theorem vand (hd ha hb : HReg) (la : BitVec 4) : Statement (.vand hd ha hb la) := ⟨of_word rfl, .inr (.inr rfl)⟩
theorem vor (hd ha hb : HReg) (la : BitVec 4) : Statement (.vor hd ha hb la) := ⟨of_word rfl, .inr (.inr rfl)⟩
theorem vxor (hd ha hb : HReg) (la : BitVec 4) : Statement (.vxor hd ha hb la) := ⟨of_word rfl, .inr (.inr rfl)⟩
theorem vshl (hd ha hb : HReg) (la : BitVec 4) : Statement (.vshl hd ha hb la) := ⟨of_word rfl, .inr (.inr rfl)⟩
theorem vshr (hd ha hb : HReg) (la : BitVec 4) : Statement (.vshr hd ha hb la) := ⟨of_word rfl, .inr (.inr rfl)⟩
theorem vsra (hd ha hb : HReg) (la : BitVec 4) : Statement (.vsra hd ha hb la) := ⟨of_word rfl, .inr (.inr rfl)⟩
theorem vsel (hd ha hb hc : HReg) (la : BitVec 4) : Statement (.vsel hd ha hb hc la) := ⟨of_word rfl, .inr (.inr rfl)⟩
theorem vcmpeq (hd ha hb : HReg) (la : BitVec 4) : Statement (.vcmpeq hd ha hb la) := ⟨of_word rfl, .inr (.inr rfl)⟩
theorem vcmplt (hd ha hb : HReg) (la : BitVec 4) : Statement (.vcmplt hd ha hb la) := ⟨of_word rfl, .inr (.inr rfl)⟩
theorem vcmple (hd ha hb : HReg) (la : BitVec 4) : Statement (.vcmple hd ha hb la) := ⟨of_word rfl, .inr (.inr rfl)⟩
theorem vset (hd ha : HReg) (rm : BitVec 3) (la : BitVec 4) : Statement (.vset hd ha rm la) := ⟨of_word rfl, .inr (.inr rfl)⟩
theorem vcopy (hd ha : HReg) (la : BitVec 4) : Statement (.vcopy hd ha la) := ⟨of_word rfl, .inr (.inr rfl)⟩
theorem vrcp (hd ha : HReg) (rm : BitVec 3) (la : BitVec 4) : Statement (.vrcp hd ha rm la) := ⟨of_word rfl, .inr (.inr rfl)⟩
theorem vrsq (hd ha : HReg) (rm : BitVec 3) (la : BitVec 4) : Statement (.vrsq hd ha rm la) := ⟨of_word rfl, .inr (.inr rfl)⟩
theorem vsqrt (hd ha : HReg) (rm : BitVec 3) (la : BitVec 4) : Statement (.vsqrt hd ha rm la) := ⟨of_word rfl, .inr (.inr rfl)⟩
theorem vdiv (hd ha hb : HReg) (rm : BitVec 3) (la : BitVec 4) : Statement (.vdiv hd ha hb rm la) := ⟨of_word rfl, .inr (.inr rfl)⟩
theorem vexp2 (hd ha : HReg) (rm : BitVec 3) (la : BitVec 4) : Statement (.vexp2 hd ha rm la) := ⟨of_word rfl, .inr (.inr rfl)⟩
theorem vlog2 (hd ha : HReg) (rm : BitVec 3) (la : BitVec 4) : Statement (.vlog2 hd ha rm la) := ⟨of_word rfl, .inr (.inr rfl)⟩
theorem vtanh (hd ha : HReg) (rm : BitVec 3) (la : BitVec 4) : Statement (.vtanh hd ha rm la) := ⟨of_word rfl, .inr (.inr rfl)⟩
theorem vsigm (hd ha : HReg) (rm : BitVec 3) (la : BitVec 4) : Statement (.vsigm hd ha rm la) := ⟨of_word rfl, .inr (.inr rfl)⟩
theorem vsinpi (hd ha : HReg) (rm : BitVec 3) (la : BitVec 4) : Statement (.vsinpi hd ha rm la) := ⟨of_word rfl, .inr (.inr rfl)⟩
theorem vcospi (hd ha : HReg) (rm : BitVec 3) (la : BitVec 4) : Statement (.vcospi hd ha rm la) := ⟨of_word rfl, .inr (.inr rfl)⟩
theorem vcvt (hd ha : HReg) (rm : BitVec 3) (la : BitVec 4) : Statement (.vcvt hd ha rm la) := ⟨of_word rfl, .inr (.inr rfl)⟩
theorem vqsplit (hd ha hb hc : HReg) (rm : BitVec 3) : Statement (.vqsplit hd ha hb hc rm) := ⟨of_word rfl, .inr (.inr rfl)⟩
theorem vscale (hd ha hb : HReg) (rm : BitVec 3) (la : BitVec 4) : Statement (.vscale hd ha hb rm la) := ⟨of_word rfl, .inr (.inr rfl)⟩
theorem viota (hd ha hb : HReg) (rm : BitVec 3) (la : BitVec 4) : Statement (.viota hd ha hb rm la) := ⟨of_word rfl, .inr (.inr rfl)⟩
theorem vredRowAdd (hd ha : HReg) (rm : BitVec 2) (la : BitVec 4) : Statement (.vredRowAdd hd ha rm la) := ⟨of_word rfl, .inr (.inr rfl)⟩
theorem vredRowMax (hd ha : HReg) (la : BitVec 4) : Statement (.vredRowMax hd ha la) := ⟨of_word rfl, .inr (.inr rfl)⟩
theorem vredRowMin (hd ha : HReg) (la : BitVec 4) : Statement (.vredRowMin hd ha la) := ⟨of_word rfl, .inr (.inr rfl)⟩
theorem vredColAdd (hd ha : HReg) (rm : BitVec 2) (la : BitVec 4) : Statement (.vredColAdd hd ha rm la) := ⟨of_word rfl, .inr (.inr rfl)⟩
theorem vredColMax (hd ha : HReg) (la : BitVec 4) : Statement (.vredColMax hd ha la) := ⟨of_word rfl, .inr (.inr rfl)⟩
theorem vredColMin (hd ha : HReg) (la : BitVec 4) : Statement (.vredColMin hd ha la) := ⟨of_word rfl, .inr (.inr rfl)⟩
theorem vscanRowAdd (hd ha : HReg) (rm : BitVec 2) (excl : Bool) (la : BitVec 4) : Statement (.vscanRowAdd hd ha rm excl la) := ⟨of_word rfl, .inr (.inr rfl)⟩
theorem vscanRowAff (hd ha hb hc : HReg) (rm : BitVec 2) (excl : Bool) : Statement (.vscanRowAff hd ha hb hc rm excl) := ⟨of_word rfl, .inr (.inr rfl)⟩
theorem vscanColAdd (hd ha : HReg) (rm : BitVec 2) (excl : Bool) (la : BitVec 4) : Statement (.vscanColAdd hd ha rm excl la) := ⟨of_word rfl, .inr (.inr rfl)⟩
theorem vscanColAff (hd ha hb hc : HReg) (rm : BitVec 2) (excl : Bool) : Statement (.vscanColAff hd ha hb hc rm excl) := ⟨of_word rfl, .inr (.inr rfl)⟩
theorem vscanRowMax (hd ha : HReg) (excl : Bool) (la : BitVec 4) : Statement (.vscanRowMax hd ha excl la) := ⟨of_word rfl, .inr (.inr rfl)⟩
theorem vgather (hd ha hb : HReg) (la : BitVec 4) : Statement (.vgather hd ha hb la) := ⟨of_word rfl, .inr (.inr rfl)⟩
theorem vscatter (hd ha hb : HReg) (la : BitVec 4) : Statement (.vscatter hd ha hb la) := ⟨of_word rfl, .inr (.inr rfl)⟩
theorem vtrn (hd ha : HReg) (la : BitVec 4) : Statement (.vtrn hd ha la) := ⟨of_word rfl, .inr (.inr rfl)⟩
theorem vbcastRow (hd ha : HReg) (la : BitVec 4) : Statement (.vbcastRow hd ha la) := ⟨of_word rfl, .inr (.inr rfl)⟩
theorem vbcastCol (hd ha : HReg) (la : BitVec 4) : Statement (.vbcastCol hd ha la) := ⟨of_word rfl, .inr (.inr rfl)⟩
theorem vpack (hd ha hb : HReg) (la : BitVec 4) : Statement (.vpack hd ha hb la) := ⟨of_word rfl, .inr (.inr rfl)⟩
theorem vunpack (hd ha hb : HReg) (la : BitVec 4) : Statement (.vunpack hd ha hb la) := ⟨of_word rfl, .inr (.inr rfl)⟩
theorem mctx (ha hb : HReg) (rm : BitVec 3) : Statement (.mctx ha hb rm) := ⟨of_word rfl, .inr (.inr rfl)⟩
theorem mbld (hd ha : HReg) (la : BitVec 4) : Statement (.mbld hd ha la) := ⟨of_word rfl, .inr (.inr rfl)⟩
theorem mmul (hd ha hb hc : HReg) (last first : Bool) (la : BitVec 4) : Statement (.mmul hd ha hb hc last first la) := ⟨of_word rfl, .inr (.inr rfl)⟩
theorem mdrain (hd ha : HReg) (rel : Bool) (la : BitVec 4) : Statement (.mdrain hd ha rel la) := ⟨of_word rfl, .inr (.inr rfl)⟩
theorem mzero (hd : HReg) (la : BitVec 4) : Statement (.mzero hd la) := ⟨of_word rfl, .inr (.inr rfl)⟩
theorem mwait : Statement (.mwait) := ⟨of_word rfl, .inr (.inr rfl)⟩
theorem mrem (hd ha hb hc : HReg) (kind : BitVec 3) : Statement (.mrem hd ha hb hc kind) := ⟨of_word rfl, .inr (.inr rfl)⟩
theorem gscanAdd (hd ha : HReg) (rm : BitVec 2) (excl : Bool) (la : BitVec 4) : Statement (.gscanAdd hd ha rm excl la) := ⟨of_word rfl, .inr (.inr rfl)⟩
theorem gscanAff (hd ha hb : HReg) (rm : BitVec 2) (excl : Bool) (la : BitVec 4) : Statement (.gscanAff hd ha hb rm excl la) := ⟨of_word rfl, .inr (.inr rfl)⟩
theorem gscanMax (hd ha : HReg) (excl : Bool) (la : BitVec 4) : Statement (.gscanMax hd ha excl la) := ⟨of_word rfl, .inr (.inr rfl)⟩
theorem gredAdd (hd ha : HReg) (rm : BitVec 2) (la : BitVec 4) : Statement (.gredAdd hd ha rm la) := ⟨of_word rfl, .inr (.inr rfl)⟩
theorem gredMax (hd ha : HReg) (la : BitVec 4) : Statement (.gredMax hd ha la) := ⟨of_word rfl, .inr (.inr rfl)⟩
theorem gbcast (hd ha hb : HReg) (la : BitVec 4) : Statement (.gbcast hd ha hb la) := ⟨of_word rfl, .inr (.inr rfl)⟩
theorem gsync : Statement (.gsync) := ⟨of_word rfl, .inr (.inr rfl)⟩
theorem xset (rs1 : Reg) (fld la : BitVec 4) : Statement (.xset rs1 fld la) := ⟨of_word rfl, .inr (.inr rfl)⟩
theorem xgo (rd : Reg) (la : BitVec 4) : Statement (.xgo rd la) := ⟨of_word rfl, .inr (.inr rfl)⟩
theorem xwait (rd rs1 rs2 : Reg) (word : BitVec 3) (la : BitVec 4) : Statement (.xwait rd rs1 rs2 word la) := ⟨of_word rfl, .inr (.inr rfl)⟩
theorem xtest (rd rs1 : Reg) (la : BitVec 4) : Statement (.xtest rd rs1 la) := ⟨of_word rfl, .inr (.inr rfl)⟩
theorem xcancel (rd rs1 : Reg) (la : BitVec 4) : Statement (.xcancel rd rs1 la) := ⟨of_word rfl, .inr (.inr rfl)⟩
theorem xstat (rd rs1 : Reg) (sel : BitVec 3) (la : BitVec 4) : Statement (.xstat rd rs1 sel la) := ⟨of_word rfl, .inr (.inr rfl)⟩
theorem binit (rd rs1 rs2 : Reg) (la : BitVec 4) : Statement (.binit rd rs1 rs2 la) := ⟨of_word rfl, .inr (.inr rfl)⟩
theorem barrive (rd rs1 rs2 : Reg) (la : BitVec 4) : Statement (.barrive rd rs1 rs2 la) := ⟨of_word rfl, .inr (.inr rfl)⟩
theorem bexpect (rd rs1 rs2 : Reg) (la : BitVec 4) : Statement (.bexpect rd rs1 rs2 la) := ⟨of_word rfl, .inr (.inr rfl)⟩
theorem bwait (rd rs1 rs2 : Reg) (la : BitVec 4) : Statement (.bwait rd rs1 rs2 la) := ⟨of_word rfl, .inr (.inr rfl)⟩
theorem btry (rd rs1 rs2 : Reg) (la : BitVec 4) : Statement (.btry rd rs1 rs2 la) := ⟨of_word rfl, .inr (.inr rfl)⟩
theorem barriveExp (rd rs1 rs2 : Reg) (la : BitVec 4) : Statement (.barriveExp rd rs1 rs2 la) := ⟨of_word rfl, .inr (.inr rfl)⟩
theorem send (rd rs1 rs2 : Reg) (la : BitVec 4) : Statement (.send rd rs1 rs2 la) := ⟨of_word rfl, .inr (.inr rfl)⟩
theorem sendm (rd rs1 rs2 : Reg) (la : BitVec 4) : Statement (.sendm rd rs1 rs2 la) := ⟨of_word rfl, .inr (.inr rfl)⟩
theorem spawn (rd rs1 rs2 : Reg) (la : BitVec 4) : Statement (.spawn rd rs1 rs2 la) := ⟨of_word rfl, .inr (.inr rfl)⟩
theorem done : Statement (.done) := ⟨of_word rfl, .inr (.inr rfl)⟩
theorem qstat (rd : Reg) (sel : BitVec 3) (la : BitVec 4) : Statement (.qstat rd sel la) := ⟨of_word rfl, .inr (.inr rfl)⟩
theorem carry (rd rs1 rs2 : Reg) (la : BitVec 4) : Statement (.carry rd rs1 rs2 la) := ⟨of_word rfl, .inr (.inr rfl)⟩
theorem carryw (rd rs1 rs2 : Reg) (la : BitVec 4) : Statement (.carryw rd rs1 rs2 la) := ⟨of_word rfl, .inr (.inr rfl)⟩
theorem yield (rd : Reg) : Statement (.yield rd) := ⟨of_word rfl, .inr (.inr rfl)⟩
theorem reseed (rd rs1 rs2 : Reg) (ownerForm remap : Bool) (la : BitVec 4) : Statement (.reseed rd rs1 rs2 ownerForm remap la) := ⟨of_word rfl, .inr (.inr rfl)⟩
theorem draw (rd rs1 : Reg) (la : BitVec 4) : Statement (.draw rd rs1 la) := ⟨of_word rfl, .inr (.inr rfl)⟩
theorem exq (rd rs1 : Reg) (align cur : Bool) (la : BitVec 4) : Statement (.exq rd rs1 align cur la) := ⟨of_word rfl, .inr (.inr rfl)⟩
theorem excurve (rd rs1 rs2 : Reg) (align cur : Bool) (la : BitVec 4) : Statement (.excurve rd rs1 rs2 align cur la) := ⟨of_word rfl, .inr (.inr rfl)⟩
theorem plq (rd rs1 : Reg) (sel : BitVec 3) (la : BitVec 4) : Statement (.plq rd rs1 sel la) := ⟨of_word rfl, .inr (.inr rfl)⟩
theorem xlpin (rd rs1 rs2 : Reg) (pinData : Bool) (la : BitVec 4) : Statement (.xlpin rd rs1 rs2 pinData la) := ⟨of_word rfl, .inr (.inr rfl)⟩
theorem xlunpin (rd rs1 : Reg) (la : BitVec 4) : Statement (.xlunpin rd rs1 la) := ⟨of_word rfl, .inr (.inr rfl)⟩
theorem pclass (rd rs1 : Reg) (sel : BitVec 3) (la : BitVec 4) : Statement (.pclass rd rs1 sel la) := ⟨of_word rfl, .inr (.inr rfl)⟩
theorem rangeq (rd rs1 : Reg) (la : BitVec 4) : Statement (.rangeq rd rs1 la) := ⟨of_word rfl, .inr (.inr rfl)⟩
theorem regsw (rd rs1 rs2 : Reg) (la : BitVec 4) : Statement (.regsw rd rs1 rs2 la) := ⟨of_word rfl, .inr (.inr rfl)⟩
theorem pload (rd rs1 rs2 : Reg) (la : BitVec 4) : Statement (.pload rd rs1 rs2 la) := ⟨of_word rfl, .inr (.inr rfl)⟩
theorem replay (rd rs1 rs2 : Reg) (la : BitVec 4) : Statement (.replay rd rs1 rs2 la) := ⟨of_word rfl, .inr (.inr rfl)⟩
theorem migrate (rd rs1 rs2 : Reg) (la : BitVec 4) : Statement (.migrate rd rs1 rs2 la) := ⟨of_word rfl, .inr (.inr rfl)⟩
theorem shoot (rd rs1 rs2 : Reg) (doFlush : Bool) (la : BitVec 4) : Statement (.shoot rd rs1 rs2 doFlush la) := ⟨of_word rfl, .inr (.inr rfl)⟩
theorem compose (rd : Reg) (n : BitVec 2) : Statement (.compose rd n) := ⟨of_word rfl, .inr (.inr rfl)⟩
theorem release (rd : Reg) : Statement (.release rd) := ⟨of_word rfl, .inr (.inr rfl)⟩
theorem cstat (rd : Reg) (la : BitVec 4) : Statement (.cstat rd la) := ⟨of_word rfl, .inr (.inr rfl)⟩
theorem crr (rd : Reg) (cr : BitVec 9) : Statement (.crr rd cr) := ⟨of_word rfl, .inr (.inr rfl)⟩
theorem crw (rd rs1 : Reg) (cr : BitVec 9) : Statement (.crw rd rs1 cr) := ⟨of_word rfl, .inr (.inr rfl)⟩
theorem crs (rd rs1 : Reg) (cr : BitVec 9) : Statement (.crs rd rs1 cr) := ⟨of_word rfl, .inr (.inr rfl)⟩
theorem crc (rd rs1 : Reg) (cr : BitVec 9) : Statement (.crc rd rs1 cr) := ⟨of_word rfl, .inr (.inr rfl)⟩
theorem trap (rs1 : Reg) : Statement (.trap rs1) := ⟨of_word rfl, .inr (.inr rfl)⟩
theorem eret : Statement (.eret) := ⟨of_word rfl, .inr (.inr rfl)⟩
theorem brk (code : BitVec 9) : Statement (.brk code) := ⟨of_word rfl, .inr (.inr rfl)⟩
theorem nop : Statement (.nop) := ⟨of_word rfl, .inr (.inr rfl)⟩
theorem synci (rs1 rs2 : Reg) : Statement (.synci rs1 rs2) := ⟨of_word rfl, .inr (.inr rfl)⟩
theorem carve (rd rs1 : Reg) : Statement (.carve rd rs1) := ⟨of_word rfl, .inr (.inr rfl)⟩
theorem capmint (rd rs1 : Reg) : Statement (.capmint rd rs1) := ⟨of_word rfl, .inr (.inr rfl)⟩
theorem wfi (rd : Reg) : Statement (.wfi rd) := ⟨of_word rfl, .inr (.inr rfl)⟩
theorem cLw (rd rs1 : Reg) (n : BitVec 3) : Statement (.cLw rd rs1 n) := ⟨of_word rfl, .inr (.inl rfl)⟩
theorem cLd (rd rs1 : Reg) (n : BitVec 3) : Statement (.cLd rd rs1 n) := ⟨of_word rfl, .inr (.inl rfl)⟩
theorem cSw (rs1 rs2 : Reg) (n : BitVec 3) : Statement (.cSw rs1 rs2 n) := ⟨of_word rfl, .inr (.inl rfl)⟩
theorem cSd (rs1 rs2 : Reg) (n : BitVec 3) : Statement (.cSd rs1 rs2 n) := ⟨of_word rfl, .inr (.inl rfl)⟩
theorem cBeqz (rs1 : Reg) (imm : BitVec 7) : Statement (.cBeqz rs1 imm) := ⟨of_word rfl, .inr (.inl rfl)⟩
theorem cBnez (rs1 : Reg) (imm : BitVec 7) : Statement (.cBnez rs1 imm) := ⟨of_word rfl, .inr (.inl rfl)⟩
theorem cJ (imm : BitVec 11) : Statement (.cJ imm) := ⟨of_word rfl, .inr (.inl rfl)⟩
theorem cJr (rs1 : Reg) : Statement (.cJr rs1) := ⟨of_word rfl, .inr (.inl rfl)⟩
theorem cMv (rd rs1 : Reg) : Statement (.cMv rd rs1) := ⟨of_word rfl, .inr (.inl rfl)⟩
theorem cAdd (rd rs1 : Reg) : Statement (.cAdd rd rs1) := ⟨of_word rfl, .inr (.inl rfl)⟩
theorem cSub (rd rs1 : Reg) : Statement (.cSub rd rs1) := ⟨of_word rfl, .inr (.inl rfl)⟩
theorem cAnd (rd rs1 : Reg) : Statement (.cAnd rd rs1) := ⟨of_word rfl, .inr (.inl rfl)⟩
theorem cOr (rd rs1 : Reg) : Statement (.cOr rd rs1) := ⟨of_word rfl, .inr (.inl rfl)⟩
theorem cXor (rd rs1 : Reg) : Statement (.cXor rd rs1) := ⟨of_word rfl, .inr (.inl rfl)⟩
theorem cAddi (rd : Reg) (imm : BitVec 7) : Statement (.cAddi rd imm) := ⟨of_word rfl, .inr (.inl rfl)⟩
theorem cLi (rd : Reg) (imm : BitVec 7) : Statement (.cLi rd imm) := ⟨of_word rfl, .inr (.inl rfl)⟩
theorem cSlli (rd : Reg) (shamt : BitVec 6) : Statement (.cSlli rd shamt) := ⟨of_word rfl, .inr (.inl rfl)⟩
theorem cSrli (rd : Reg) (shamt : BitVec 6) : Statement (.cSrli rd shamt) := ⟨of_word rfl, .inr (.inl rfl)⟩
theorem cSrai (rd : Reg) (shamt : BitVec 6) : Statement (.cSrai rd shamt) := ⟨of_word rfl, .inr (.inl rfl)⟩
theorem cNop : Statement (.cNop) := ⟨of_word rfl, .inr (.inl rfl)⟩
theorem cDone : Statement (.cDone) := ⟨of_word rfl, .inr (.inl rfl)⟩
theorem reservedEncoding (bits : BitVec 32) (short : Bool) : Statement (.reservedEncoding bits short) := ⟨rfl, .inl rfl⟩
theorem fetchFromAddressZero : Statement (.fetchFromAddressZero) := ⟨rfl, .inl rfl⟩
theorem instructionFetchFault (cause va : Nat) : Statement (.instructionFetchFault cause va) := ⟨rfl, .inl rfl⟩
theorem slotSelection (core slot : Nat) : Statement (.slotSelection core slot) := ⟨rfl, .inl rfl⟩
theorem chunkCommit (core slot : Nat) : Statement (.chunkCommit core slot) := ⟨rfl, .inl rfl⟩
theorem faultBatchWrite (owner batch : Nat) : Statement (.faultBatchWrite owner batch) := ⟨rfl, .inl rfl⟩
theorem faultBatchService (owner batch : Nat) : Statement (.faultBatchService owner batch) := ⟨rfl, .inl rfl⟩
theorem syscallService (core slot : Nat) : Statement (.syscallService core slot) := ⟨rfl, .inl rfl⟩
theorem logFull (domain : Nat) : Statement (.logFull domain) := ⟨rfl, .inl rfl⟩
theorem messageArrival (src dst : Nat) : Statement (.messageArrival src dst) := ⟨rfl, .inl rfl⟩
theorem messageResend (core entry : Nat) : Statement (.messageResend core entry) := ⟨rfl, .inl rfl⟩
theorem messageDispatch (core : Nat) : Statement (.messageDispatch core) := ⟨rfl, .inl rfl⟩
theorem launch (r : Request) : Statement (.launch r) := ⟨rfl, .inl rfl⟩
theorem abort (r : Request) : Statement (.abort r) := ⟨rfl, .inl rfl⟩
theorem preempt (r : Request) : Statement (.preempt r) := ⟨rfl, .inl rfl⟩
theorem preemptResume (r : Request) : Statement (.preemptResume r) := ⟨rfl, .inl rfl⟩
theorem query (r : Request) : Statement (.query r) := ⟨rfl, .inl rfl⟩
theorem badopRequest (r : Request) (admin : Bool) : Statement (.badopRequest r admin) := ⟨rfl, .inl rfl⟩
theorem map (r : Request) : Statement (.map r) := ⟨rfl, .inl rfl⟩
theorem unmap (r : Request) : Statement (.unmap r) := ⟨rfl, .inl rfl⟩
theorem populate (r : Request) : Statement (.populate r) := ⟨rfl, .inl rfl⟩
theorem window (r : Request) : Statement (.window r) := ⟨rfl, .inl rfl⟩
theorem ranges (r : Request) : Statement (.ranges r) := ⟨rfl, .inl rfl⟩
theorem faultans (r : Request) : Statement (.faultans r) := ⟨rfl, .inl rfl⟩
theorem ownerCreate (r : Request) (ownerRecord : List (BitVec 8)) : Statement (.ownerCreate r ownerRecord) := ⟨rfl, .inl rfl⟩
theorem ownerRetire (r : Request) : Statement (.ownerRetire r) := ⟨rfl, .inl rfl⟩
theorem partitionReady (owner : Nat) : Statement (.partitionReady owner) := ⟨rfl, .inl rfl⟩
theorem seamjoin (r : Request) : Statement (.seamjoin r) := ⟨rfl, .inl rfl⟩
theorem attestationRequest (r : Request) : Statement (.attestationRequest r) := ⟨rfl, .inl rfl⟩
theorem rdmaWrite (packet : RdmaPacket) (va : Nat) (bytes : List (BitVec 8)) : Statement (.rdmaWrite packet va bytes) := ⟨rfl, .inl rfl⟩
theorem rdmaRead (packet : RdmaPacket) (va n : Nat) : Statement (.rdmaRead packet va n) := ⟨rfl, .inl rfl⟩
theorem kernelPlacement (owner knum : Nat) : Statement (.kernelPlacement owner knum) := ⟨rfl, .inl rfl⟩
theorem priorityPreemption (owner knum : Nat) : Statement (.priorityPreemption owner knum) := ⟨rfl, .inl rfl⟩
theorem gangPreemption (owner knum : Nat) : Statement (.gangPreemption owner knum) := ⟨rfl, .inl rfl⟩
theorem kernelResume (owner knum : Nat) : Statement (.kernelResume owner knum) := ⟨rfl, .inl rfl⟩
theorem transferStart (core tid : Nat) : Statement (.transferStart core tid) := ⟨rfl, .inl rfl⟩
theorem transferChunkLanding (core tid chunk : Nat) : Statement (.transferChunkLanding core tid chunk) := ⟨rfl, .inl rfl⟩
theorem transferCancellation (core tid : Nat) : Statement (.transferCancellation core tid) := ⟨rfl, .inl rfl⟩
theorem mzeroExecute (unit core : Nat) : Statement (.mzeroExecute unit core) := ⟨rfl, .inl rfl⟩
theorem mbldExecute (unit core : Nat) : Statement (.mbldExecute unit core) := ⟨rfl, .inl rfl⟩
theorem mmulExecute (unit core : Nat) : Statement (.mmulExecute unit core) := ⟨rfl, .inl rfl⟩
theorem mdrainExecute (unit core : Nat) : Statement (.mdrainExecute unit core) := ⟨rfl, .inl rfl⟩
theorem remoteMatrixCommand (unit core : Nat) : Statement (.remoteMatrixCommand unit core) := ⟨rfl, .inl rfl⟩
theorem collectiveComplete (owner knum group : Nat) : Statement (.collectiveComplete owner knum group) := ⟨rfl, .inl rfl⟩
theorem collectiveTimeout (core slot : Nat) : Statement (.collectiveTimeout core slot) := ⟨rfl, .inl rfl⟩
theorem bwaitTimeout (core slot : Nat) : Statement (.bwaitTimeout core slot) := ⟨rfl, .inl rfl⟩
theorem sleepTimeout (core slot : Nat) : Statement (.sleepTimeout core slot) := ⟨rfl, .inl rfl⟩
theorem wfiTimeout (core slot : Nat) : Statement (.wfiTimeout core slot) := ⟨rfl, .inl rfl⟩
theorem xwaitTimeout (core slot : Nat) : Statement (.xwaitTimeout core slot) := ⟨rfl, .inl rfl⟩
theorem carrywTimeout (core slot : Nat) : Statement (.carrywTimeout core slot) := ⟨rfl, .inl rfl⟩
theorem leaseExpiry (core line : Nat) : Statement (.leaseExpiry core line) := ⟨rfl, .inl rfl⟩
theorem remotePackedStore (core : Nat) : Statement (.remotePackedStore core) := ⟨rfl, .inl rfl⟩
theorem arbitrationRound (cls arbiter : Nat) : Statement (.arbitrationRound cls arbiter) := ⟨rfl, .inl rfl⟩
theorem gets (core line : Nat) : Statement (.gets core line) := ⟨rfl, .inl rfl⟩
theorem getm (core line : Nat) : Statement (.getm core line) := ⟨rfl, .inl rfl⟩
theorem upgrade (core line : Nat) : Statement (.upgrade core line) := ⟨rfl, .inl rfl⟩
theorem puts (core line : Nat) : Statement (.puts core line) := ⟨rfl, .inl rfl⟩
theorem putm (core line : Nat) : Statement (.putm core line) := ⟨rfl, .inl rfl⟩
theorem atomic (core line : Nat) : Statement (.atomic core line) := ⟨rfl, .inl rfl⟩
theorem write (core line : Nat) : Statement (.write core line) := ⟨rfl, .inl rfl⟩
theorem dirEvict (line : Nat) : Statement (.dirEvict line) := ⟨rfl, .inl rfl⟩
theorem recallLine (line : Nat) : Statement (.recallLine line) := ⟨rfl, .inl rfl⟩
theorem flush (line : Nat) : Statement (.flush line) := ⟨rfl, .inl rfl⟩
theorem reclassify (access : PageAccess) : Statement (.reclassify access) := ⟨rfl, .inl rfl⟩
theorem fwdtagConsume (core line : Nat) : Statement (.fwdtagConsume core line) := ⟨rfl, .inl rfl⟩
theorem inv (die line : Nat) : Statement (.inv die line) := ⟨rfl, .inl rfl⟩
theorem fwdS (die line : Nat) : Statement (.fwdS die line) := ⟨rfl, .inl rfl⟩
theorem fwdM (die line : Nat) : Statement (.fwdM die line) := ⟨rfl, .inl rfl⟩
theorem update (die line : Nat) : Statement (.update die line) := ⟨rfl, .inl rfl⟩
theorem dieRecall (die line : Nat) : Statement (.dieRecall die line) := ⟨rfl, .inl rfl⟩
theorem ack (die line : Nat) : Statement (.ack die line) := ⟨rfl, .inl rfl⟩
theorem data (die line : Nat) : Statement (.data die line) := ⟨rfl, .inl rfl⟩
theorem seamIntervalExpiry (domain : Nat) : Statement (.seamIntervalExpiry domain) := ⟨rfl, .inl rfl⟩
theorem seamCommit (part : SeamPart) : Statement (.seamCommit part) := ⟨rfl, .inl rfl⟩
theorem uncorrectableError (what : Destroyed) : Statement (.uncorrectableError what) := ⟨rfl, .inl rfl⟩
theorem rollback (domain : Nat) : Statement (.rollback domain) := ⟨rfl, .inl rfl⟩
theorem directoryEntryError (line : Nat) (recallError : Bool) : Statement (.directoryEntryError line recallError) := ⟨rfl, .inl rfl⟩
theorem patrolScrub (loc : Nat) : Statement (.patrolScrub loc) := ⟨rfl, .inl rfl⟩
theorem refreshManagement (stack bank : Nat) : Statement (.refreshManagement stack bank) := ⟨rfl, .inl rfl⟩
theorem coreSparing (core : Nat) : Statement (.coreSparing core) := ⟨rfl, .inl rfl⟩
theorem sliceSparing (die slice : Nat) : Statement (.sliceSparing die slice) := ⟨rfl, .inl rfl⟩
theorem pseudoChannelSparing (pc : Nat) : Statement (.pseudoChannelSparing pc) := ⟨rfl, .inl rfl⟩
theorem lysaUpdate (image : List (BitVec 8)) (version : Nat) : Statement (.lysaUpdate image version) := ⟨rfl, .inl rfl⟩
theorem partnerDetected (port : Nat) : Statement (.partnerDetected port) := ⟨rfl, .inl rfl⟩
theorem linkTrained (port lanes : Nat) : Statement (.linkTrained port lanes) := ⟨rfl, .inl rfl⟩
theorem linkFault (port : Nat) (physical : Bool) : Statement (.linkFault port physical) := ⟨rfl, .inl rfl⟩
theorem rtlimitExpiry (port : Nat) : Statement (.rtlimitExpiry port) := ⟨rfl, .inl rfl⟩
theorem linkRepair (port : Nat) : Statement (.linkRepair port) := ⟨rfl, .inl rfl⟩
theorem uePortFault (port : Nat) : Statement (.uePortFault port) := ⟨rfl, .inl rfl⟩
theorem dataFlit (port : Nat) (flit : List (BitVec 8)) : Statement (.dataFlit port flit) := ⟨rfl, .inl rfl⟩
theorem ackFlit (port : Nat) (flit : List (BitVec 8)) : Statement (.ackFlit port flit) := ⟨rfl, .inl rfl⟩
theorem nakFlit (port : Nat) (flit : List (BitVec 8)) : Statement (.nakFlit port flit) := ⟨rfl, .inl rfl⟩
theorem trainingFlit (port : Nat) (flit : List (BitVec 8)) : Statement (.trainingFlit port flit) := ⟨rfl, .inl rfl⟩
theorem flitResendLimit (port : Nat) : Statement (.flitResendLimit port) := ⟨rfl, .inl rfl⟩
theorem carryArrival (packet : CarryPacket) : Statement (.carryArrival packet) := ⟨rfl, .inl rfl⟩
theorem carryResend (core entry : Nat) : Statement (.carryResend core entry) := ⟨rfl, .inl rfl⟩
theorem carryAcknowledgement (core entry : Nat) (reply : CarryReply) : Statement (.carryAcknowledgement core entry reply) := ⟨rfl, .inl rfl⟩
theorem powerOn : Statement (.powerOn) := ⟨rfl, .inl rfl⟩
theorem railFault (rail : Nat) : Statement (.railFault rail) := ⟨rfl, .inl rfl⟩
theorem powerLimit : Statement (.powerLimit) := ⟨rfl, .inl rfl⟩
theorem powerRecovery : Statement (.powerRecovery) := ⟨rfl, .inl rfl⟩
theorem thermalThrottle (temp : Nat) : Statement (.thermalThrottle temp) := ⟨rfl, .inl rfl⟩
theorem thermalRecovery (temp : Nat) : Statement (.thermalRecovery temp) := ⟨rfl, .inl rfl⟩
theorem thermalTrip (temp : Nat) : Statement (.thermalTrip temp) := ⟨rfl, .inl rfl⟩
theorem watchdogExpiry (die : Nat) : Statement (.watchdogExpiry die) := ⟨rfl, .inl rfl⟩
theorem wdogKick (core value : Nat) : Statement (.wdogKick core value) := ⟨rfl, .inl rfl⟩
theorem plbFlush (core : Nat) : Statement (.plbFlush core) := ⟨rfl, .inl rfl⟩
theorem bmReset : Statement (.bmReset) := ⟨rfl, .inl rfl⟩
theorem bypass : Statement (.bypass) := ⟨rfl, .inl rfl⟩
theorem idcode : Statement (.idcode) := ⟨rfl, .inl rfl⟩
theorem samplePreload (cells : List Bool) : Statement (.samplePreload cells) := ⟨rfl, .inl rfl⟩
theorem extest (cells : List Bool) : Statement (.extest cells) := ⟨rfl, .inl rfl⟩
theorem partnerLost (port : Nat) : Statement (.partnerLost port) := ⟨rfl, .inl rfl⟩
theorem idleFlit (port : Nat) (flit : List (BitVec 8)) : Statement (.idleFlit port flit) := ⟨rfl, .inl rfl⟩

end Sys2Proof.Laws.Encoded
end

