-- ==== Sys2Proof/Machine/AsmText.lean ====
section
/-!
DEFINITION. Sys2Proof/Machine/AsmText.lean: the text of `hsas` source: lines, tokens, numbers and expressions (03 R55 to R57). The
toolchain is no part of a step of the machine; it says which bytes a program's source stands for.
-/

namespace Sys2Proof.Tool

/-! ### Tokens -/

/-- A token: a word (a symbol, mnemonic, register, directive or keyword), a number as it is written, or an operator. -/
inductive Tok where
  | word (s : String)
  | num (s : String)
  | op (s : String)
  deriving DecidableEq, Repr

def isWordChar (c : Char) : Bool := c.isAlphanum || c == '_' || c == '.'

def isBlank (c : Char) : Bool := c == ' ' || c == '\t'

/-- Lower-case text; names other than symbols are matched without regard to case (03 R56). -/
def lower (s : String) : String := String.ofList (s.toList.map Char.toLower)

def upper (s : String) : String := String.ofList (s.toList.map Char.toUpper)

/-- Do these characters, last first, begin a number in hexadecimal or binary? -/
def otherBase (rev : List Char) : Bool :=
  match rev.reverse with
  | '0' :: c :: _ => ['x', 'X', 'b', 'B'].contains c
  | _ => false

/-- A sign behind the exponent letter of a decimal number belongs to the number (03 R57). -/
def signOfExponent (rev : List Char) (c : Char) : Bool :=
  (c == '+' || c == '-') && (rev.head? == some 'e' || rev.head? == some 'E') && (rev.getLast?.any (·.isDigit)) && !otherBase rev

/-- The token whose characters, last first, are these. -/
def wordTok (rev : List Char) : List Tok :=
  match rev.reverse with
  | [] => []
  | c :: cs => [if c.isDigit then .num (String.ofList (c :: cs)) else .word (String.ofList (c :: cs))]

/-- The tokens of a line; a comment ends it (03 R55). -/
def lexFrom : List Char → (rev : List Char) → List Tok
  | [], rev => wordTok rev
  | ';' :: _, rev => wordTok rev
  | '<' :: '<' :: cs, rev => wordTok rev ++ .op "<<" :: lexFrom cs []
  | '>' :: '>' :: cs, rev => wordTok rev ++ .op ">>" :: lexFrom cs []
  | c :: cs, rev =>
    if isWordChar c || signOfExponent rev c then lexFrom cs (c :: rev)
    else if isBlank c then wordTok rev ++ lexFrom cs []
    else wordTok rev ++ .op (String.ofList [c]) :: lexFrom cs []

def lex (line : List Char) : List Tok := lexFrom line []

/-- The parts of a list between separators. -/
def splitBy {α : Type} (sep : α → Bool) : List α → List (List α)
  | [] => [[]]
  | x :: xs =>
    match splitBy sep xs with
    | [] => [[x]]
    | p :: ps => if sep x then [] :: p :: ps else (x :: p) :: ps

def trimLeft (cs : List Char) : List Char := cs.dropWhile isBlank

def trim (cs : List Char) : List Char := (trimLeft (trimLeft cs).reverse).reverse

/-- The lines of a source file (03 R55). -/
def sourceLines (text : String) : List (List Char) := splitBy (· == '\n') text.toList

/-- A line as it is read: its label, the first word of its statement, and the text behind that word (03 R55). -/
structure Line where
  label : Option String
  head : String
  rest : List Char
  deriving DecidableEq, Repr

def wordAt (cs : List Char) : List Char × List Char := (cs.takeWhile isWordChar, cs.dropWhile isWordChar)

/-- Read a line's parts. -/
def readLine (cs : List Char) : Line :=
  let cs := trim (cs.takeWhile (· != ';'))
  let (w, r) := wordAt cs
  match trimLeft r with
  | ':' :: more =>
    let (h, rest) := wordAt (trimLeft more)
    { label := some (String.ofList w), head := String.ofList h, rest := trim rest }
  | _ => { label := none, head := String.ofList w, rest := trim r }

/-! ### Numbers (03 R57) -/

def digitOf (c : Char) : Option Nat :=
  if c.isDigit then some (c.toNat - 48)
  else if 'a' ≤ c ∧ c ≤ 'f' then some (c.toNat - 87)
  else if 'A' ≤ c ∧ c ≤ 'F' then some (c.toNat - 55)
  else none

/-- The number these digits write in a base. -/
def digitsIn (base : Nat) (cs : List Char) : Option Nat :=
  let cs := cs.filter (· != '_')
  if cs.isEmpty then none
  else cs.foldl (fun acc c =>
    match acc, digitOf c with
    | some n, some d => if d < base then some (n * base + d) else none
    | _, _ => none) (some 0)

/-- The integer a number token writes. -/
def integerOf (s : String) : Option Nat :=
  match s.toList with
  | '0' :: c :: cs => if c == 'x' || c == 'X' then digitsIn 16 cs else if c == 'b' || c == 'B' then digitsIn 2 cs else digitsIn 10 s.toList
  | cs => digitsIn 10 cs

/-! ### Names (03 R56) -/

/-- A register name of a kind: its number (03 R56). -/
def registerNo (kind : Char) (count : Nat) (s : String) : Option Nat :=
  match (lower s).toList with
  | k :: ds => if k == kind ∧ (ds = ['0'] ∨ ds.head? ≠ some '0') ∧ ds.all (·.isDigit) then (digitsIn 10 ds).filter (· < count) else none
  | [] => none

def scalarNo (s : String) : Option Nat := registerNo 's' 16 s
def handleNo (s : String) : Option Nat := registerNo 'h' 8 s

def registerName (s : String) : Bool := (scalarNo s).isSome || (handleNo s).isSome

/-- The directives that a label of their line precedes: they place it, and then act (03 R66, R68, R69, R62). -/
def plainDirectives : List String :=
  [".section", ".text", ".data", ".rodata", ".tcm", ".spad", ".align", ".zero", ".space", ".byte", ".half", ".word", ".dword", ".equ", ".set"
  , ".global", ".local", ".type", ".size", ".float", ".double", ".bf16", ".fp8e4", ".fp8e5", ".e8m0", ".lns6", ".la", ".enc"]

/-- The directives that place their line's label themselves (03 R70, R71). -/
def placingDirectives : List String := [".handle", ".task", ".range", ".launch"]

/-- The directives of macros and conditions (03 R72). -/
def lineDirectives : List String := [".if", ".else", ".endif", ".macro", ".endm"]

/-- Is this the name of a directive (03 R56)? -/
def directiveName (s : String) : Bool := (plainDirectives ++ placingDirectives ++ lineDirectives).contains (lower s)

/-- A word's spelling: letters, digits, `_` and `.`, no digit in front (03 R56). -/
def wordOk (s : String) : Bool := s.toList.all isWordChar && !s.isEmpty && !(s.toList.head?.any (·.isDigit)) && s != "."

/-- May this name be a symbol? Register names and the names of directives may not (03 R56). -/
def symbolOk (s : String) : Bool := wordOk s && !registerName s && !directiveName s

/-- An integer in 64-bit two's complement (03 R57). -/
def wrap (v : Int) : Int := (BitVec.ofInt 64 v).toInt

/-! ### Expressions (03 R57) -/

/-- An expression. `place` is the current location where the expression stands. -/
inductive Expr where
  | lit (v : Int)
  | sym (name : String)
  | place (sect off : Nat)
  | neg (e : Expr)
  | inv (e : Expr)
  | bin (op : String) (a b : Expr)
  deriving DecidableEq, Repr

/-- The operators of a level: 1 the tighter, 0 the looser (03 R57). -/
def levelOps : Nat → List String
  | 0 => ["+", "-", "&", "^", "|"]
  | _ => ["*", "/", "<<", ">>"]

/-- Parse an expression of a level, or go on behind its left part: 2 is an operand with its unary operators. `here` is the current location. -/
def parseLevel (here : Expr) : (fuel level : Nat) → Option Expr → List Tok → Option (Expr × List Tok)
  | 0, _, _, _ => none
  | n + 1, 2, none, .op "-" :: ts => (parseLevel here n 2 none ts).map fun (e, r) => (.neg e, r)
  | n + 1, 2, none, .op "~" :: ts => (parseLevel here n 2 none ts).map fun (e, r) => (.inv e, r)
  | n + 1, 2, none, .op "(" :: ts =>
    match parseLevel here n 0 none ts with
    | some (e, .op ")" :: r) => some (e, r)
    | _ => none
  | _ + 1, 2, none, .num s :: ts => (integerOf s).map fun v => (.lit v, ts)
  | _ + 1, 2, none, .word s :: ts => if s == "." then some (here, ts) else if symbolOk s then some (.sym s, ts) else none
  | _ + 1, 2, _, _ => none
  | n + 1, level, none, ts =>
    match parseLevel here n (level + 1) none ts with
    | some (e, r) => parseLevel here n level (some e) r
    | none => none
  | n + 1, level, some a, ts =>
    match ts with
    | .op o :: r =>
      if (levelOps level).contains o then
        match parseLevel here n (level + 1) none r with
        | some (b, r') => parseLevel here n level (some (.bin o a b)) r'
        | none => none
      else some (a, ts)
    | _ => some (a, ts)

/-- The expression that all of the tokens write. -/
def parseExpr (here : Expr) (ts : List Tok) : Option Expr :=
  match parseLevel here (8 * ts.length + 8) 0 none ts with
  | some (e, []) => some e
  | _ => none

/-- The three operators that yield field values, and `hi` and `lo` of a `pcrel` (03 R57). -/
inductive Operator where
  | plain | hi | lo | pcrel | hiPcrel | loPcrel
  deriving DecidableEq, Repr

/-- An operand value: an operator and its expression. -/
structure FieldExpr where
  kind : Operator
  e : Expr
  deriving DecidableEq, Repr

/-- What stands inside the brackets of `name(…)`, where all of the tokens are that. -/
def inside (name : String) : List Tok → Option (List Tok)
  | .word w :: .op "(" :: ts => if lower w == name ∧ ts.getLast? = some (.op ")") then some ts.dropLast else none
  | _ => none

def parseField (here : Expr) (ts : List Tok) : Option FieldExpr :=
  match inside "hi" ts, inside "lo" ts, inside "pcrel" ts with
  | some us, _, _ =>
    match inside "pcrel" us with
    | some vs => (parseExpr here vs).map (⟨.hiPcrel, ·⟩)
    | none => (parseExpr here us).map (⟨.hi, ·⟩)
  | _, some us, _ =>
    match inside "pcrel" us with
    | some vs => (parseExpr here vs).map (⟨.loPcrel, ·⟩)
    | none => (parseExpr here us).map (⟨.lo, ·⟩)
  | _, _, some us => (parseExpr here us).map (⟨.pcrel, ·⟩)
  | _, _, _ => (parseExpr here ts).map (⟨.plain, ·⟩)

/-! ### Values -/

/-- What a value is relative to: nothing, a symbol, or a place in a section. -/
inductive Base where
  | none
  | sym (name : String)
  | place (sect off : Nat)
  deriving DecidableEq, Repr

/-- One symbol or place plus an absolute value (03 R57). -/
structure Value where
  base : Base
  add : Int
  deriving DecidableEq, Repr

/-- What a symbol stands for: a place, or the expression that `.equ` or `.set` gave it. -/
inductive SymDef where
  | label (sect off : Nat)
  | equ (e : Expr)
  | set (e : Expr)
  deriving DecidableEq, Repr

abbrev Symbols := List (String × SymDef)

def Symbols.find (t : Symbols) (name : String) : Option SymDef := (t.find? (·.1 == name)).map (·.2)

/-- Two absolute values combined (03 R57). A division by zero is an error, and so is a shift amount outside 0 to 63: DESIGN CHOICE (logs 176,
180), for the rule states no value of either. -/
def combine (op : String) (a b : Int) : Except String Int :=
  if op == "*" then .ok (wrap (a * b))
  else if op == "/" then (if b = 0 then .error "division by zero" else .ok (wrap (Int.tdiv a b)))
  else if op == "<<" then (if b < 0 ∨ 63 < b then .error "shift amount" else .ok (wrap (a * 2 ^ b.toNat)))
  else if op == ">>" then (if b < 0 ∨ 63 < b then .error "shift amount" else .ok (a / 2 ^ b.toNat))
  else if op == "+" then .ok (wrap (a + b))
  else if op == "-" then .ok (wrap (a - b))
  else if op == "&" then .ok (BitVec.ofInt 64 a &&& BitVec.ofInt 64 b).toInt
  else if op == "^" then .ok (BitVec.ofInt 64 a ^^^ BitVec.ofInt 64 b).toInt
  else .ok (BitVec.ofInt 64 a ||| BitVec.ofInt 64 b).toInt

/-- The value of an expression whose `.set` symbols have been replaced where it was read (`Expr.freeze`): one that is left stood before the first
`.set` of its name, and no preceding value exists (03 R68). A symbol that stands for no place yet, and for no value, is its own base. -/
def evalExpr (t : Symbols) : (fuel : Nat) → Expr → Except String Value
  | 0, _ => .error "an expression without end"
  | _ + 1, .lit v => .ok ⟨.none, wrap v⟩
  | _ + 1, .place s o => .ok ⟨.place s o, 0⟩
  | n + 1, .sym x =>
    match t.find x with
    | some (.equ e) => evalExpr t n e
    | some (.set _) => .error "a use before the first .set"
    | _ => .ok ⟨.sym x, 0⟩
  | n + 1, .neg e => do
    let v ← evalExpr t n e
    if v.base = .none then .ok ⟨.none, wrap (-v.add)⟩ else .error "a symbol is negated"
  | n + 1, .inv e => do
    let v ← evalExpr t n e
    if v.base = .none then .ok ⟨.none, wrap (-v.add - 1)⟩ else .error "a symbol is complemented"
  | n + 1, .bin o a b => do
    let x ← evalExpr t n a
    let y ← evalExpr t n b
    if x.base = .none ∧ y.base = .none then (combine o x.add y.add).map (⟨.none, ·⟩)
    else if o = "+" ∧ y.base = .none then .ok ⟨x.base, wrap (x.add + y.add)⟩
    else if o = "+" ∧ x.base = .none then .ok ⟨y.base, wrap (x.add + y.add)⟩
    else if o = "-" ∧ y.base = .none then .ok ⟨x.base, wrap (x.add - y.add)⟩
    else .error "symbols combined"

def Expr.eval (t : Symbols) (e : Expr) : Except String Value := evalExpr t 4096 e

/-- The value of an expression that must be absolute. -/
def Expr.absolute (t : Symbols) (e : Expr) : Except String Int := do
  let v ← e.eval t
  if v.base = .none then .ok v.add else .error "an absolute value is wanted"

/-- An expression with the symbols that `.set` gave a value replaced by that value, which later definitions do not change (03 R68). -/
def Expr.freeze (t : Symbols) : Expr → Expr
  | .sym x =>
    match t.find x with
    | some (.set e) => e
    | _ => .sym x
  | .neg e => .neg (e.freeze t)
  | .inv e => .inv (e.freeze t)
  | .bin o a b => .bin o (a.freeze t) (b.freeze t)
  | e => e

/-- hi(v) and lo(v) (03 R57). -/
def loOf (v : Int) : Int := v % 8192
def hiOf (v : Int) : Int := (v - loOf v) / 8192

end Sys2Proof.Tool
end

