-- ==== Sys2Proof/Machine/AsmForms.lean ====
section
/-!
DEFINITION. Sys2Proof/Machine/AsmForms.lean: the encoding fields by name (02 R26), and each mnemonic of `hsas` as a set of field values with
its operands and qualifiers (03 R58 to R63).
-/

namespace Sys2Proof.Tool

/-! ### Fields (02 R26, R41) -/

/-- A field: its name, its lowest bit, its width and whether it is signed. -/
structure Field where
  name : String
  lo : Nat
  width : Nat
  signed : Bool
  deriving DecidableEq, Repr

def formatR : List Field := [⟨"f9", 23, 9, false⟩, ⟨"f4", 19, 4, false⟩, ⟨"rs2", 15, 4, false⟩, ⟨"rs1", 11, 4, false⟩, ⟨"rd", 7, 4, false⟩]
def formatI : List Field := [⟨"imm14", 18, 14, true⟩, ⟨"f3", 15, 3, false⟩, ⟨"rs1", 11, 4, false⟩, ⟨"rd", 7, 4, false⟩]
def formatS : List Field := [⟨"imm14", 18, 14, true⟩, ⟨"f3", 15, 3, false⟩, ⟨"rs1", 11, 4, false⟩, ⟨"rs2", 7, 4, false⟩]
def formatB : List Field := [⟨"off14", 18, 14, true⟩, ⟨"cond", 15, 3, false⟩, ⟨"rs1", 11, 4, false⟩, ⟨"rs2", 7, 4, false⟩]
def formatU : List Field := [⟨"imm21", 11, 21, true⟩, ⟨"rd", 7, 4, false⟩]
def formatJ : List Field := [⟨"off21", 11, 21, true⟩, ⟨"rd", 7, 4, false⟩]
def formatLd : List Field :=
  [⟨"imm9", 23, 9, true⟩, ⟨"la", 19, 4, false⟩, ⟨"width", 16, 3, false⟩, ⟨"acquire", 15, 1, false⟩, ⟨"rs1", 11, 4, false⟩, ⟨"rd", 7, 4, false⟩]
def formatL : List Field :=
  [⟨"f6", 26, 6, false⟩, ⟨"f3", 23, 3, false⟩, ⟨"la", 19, 4, false⟩, ⟨"rs2", 15, 4, false⟩, ⟨"rs1", 11, 4, false⟩, ⟨"rd", 7, 4, false⟩]
def formatV : List Field :=
  [⟨"mod3", 29, 3, false⟩, ⟨"op6", 23, 6, false⟩, ⟨"la", 19, 4, false⟩, ⟨"hc", 16, 3, false⟩, ⟨"hb", 13, 3, false⟩, ⟨"ha", 10, 3, false⟩
  , ⟨"hd", 7, 3, false⟩]
def formatH : List Field :=
  [⟨"f5", 27, 5, false⟩, ⟨"imm8", 19, 8, false⟩, ⟨"rs2", 15, 4, false⟩, ⟨"rs1", 11, 4, false⟩, ⟨"hd", 7, 3, false⟩]

/-- The fields of a 16-bit form by its group and op (02 R41). -/
def formatShort : (group op : Nat) → List Field
  | 28, 0 | 28, 1 => [⟨"rd", 9, 4, false⟩, ⟨"rs1", 5, 4, false⟩, ⟨"n", 2, 3, false⟩]
  | 28, 2 | 28, 3 => [⟨"rs2", 9, 4, false⟩, ⟨"rs1", 5, 4, false⟩, ⟨"n", 2, 3, false⟩]
  | 28, 4 | 28, 5 => [⟨"rs1", 9, 4, false⟩, ⟨"off7", 2, 7, true⟩]
  | 28, 6 => [⟨"off11", 2, 11, true⟩]
  | 28, 7 => [⟨"rs1", 9, 4, false⟩]
  | 29, 0 => [⟨"rd", 9, 4, false⟩, ⟨"rs", 5, 4, false⟩, ⟨"sub", 2, 3, false⟩]
  | 29, 1 | 29, 2 => [⟨"rd", 9, 4, false⟩, ⟨"imm7", 2, 7, true⟩]
  | 29, 3 | 29, 4 | 29, 5 => [⟨"rd", 9, 4, false⟩, ⟨"sh", 3, 6, false⟩]
  | _, _ => []

/-- The majors by number (02 R30); 28 and 29 stand for the 16-bit groups Q00 and Q10 (03 R63). -/
def majorNames : List String :=
  ["LOAD", "STORE", "OPI", "OP", "LUI", "AUIPC", "BRANCH", "JAL", "JALR", "MULDIV", "FP", "FPL", "ATOM", "SYNC", "HANDLE", "VEC0", "VEC1"
  , "VEC2", "MAT", "XFER", "BARR", "MSG", "GRP", "OWN", "MEMSYS", "SYS", "LOOP", "CLOAK", "Q00", "Q10"]

/-- The fields of a major; those of a 16-bit form depend on its op. -/
def fieldsOf (major op : Nat) : List Field :=
  match major with
  | 0 => formatLd
  | 1 => formatS
  | 2 | 8 | 26 => formatI
  | 3 | 10 | 13 | 25 => formatR
  | 4 | 5 => formatU
  | 6 => formatB
  | 7 => formatJ
  | 14 => formatH
  | 15 | 16 | 17 | 18 | 22 => formatV
  | 9 | 11 | 12 | 19 | 20 | 21 | 23 | 24 | 27 => formatL
  | _ => ⟨"op", 13, 3, false⟩ :: formatShort major op

/-- Bits every word of the major has: the length bits and the major (02 R26, R41). -/
def majorBits (major : Nat) : Nat := if major = 28 then 0 else if major = 29 then 2 else 3 + 4 * major

/-! ### Forms (03 R58 to R61) -/

/-- A set of qualifiers of which a statement may carry one choice, the bits it sets, and the value without one; with none, one choice is required. -/
structure Quals where
  field : String
  lo : Nat
  width : Nat
  choices : List (List String × Nat)
  default : Option Nat
  deriving DecidableEq, Repr

/-- An operand of a form. -/
inductive Opd where
  /-- a scalar register in a field -/
  | s (field : String)
  /-- a handle register in a field -/
  | h (field : String)
  /-- an immediate in a field -/
  | imm (field : String)
  /-- an unsigned amount in the low bits of a field -/
  | amount (field : String) (width : Nat)
  /-- off(sN) with the offset scaled by the access size, LD format -/
  | memLoad (size : Nat)
  | memStore
  | memHandle
  | memAtomic
  | memShort (size : Nat)
  /-- a branch or jump target -/
  | target (field : String)
  /-- a control register by name or index -/
  | control
  /-- a path set of FENCE.X -/
  | paths (lo : Nat)
  /-- a keyword operand: its name, its field's bits, what is taken off its value, and whether it must be written -/
  | key (name field : String) (lo width minus : Nat) (required : Bool)
  /-- a scalar register in a field, in statements with a qualifier or in those without it: the owner id of RESEED.OWNER (11 R262), the TID of
  every XSTAT but .ACTIVE (18 R364) -/
  | when (field qual : String) (present : Bool)
  deriving DecidableEq, Repr

/-- What `la` a form takes: none, any value, or 0 only, which `la=auto` then is (02 R43), one that is written otherwise being refused or not. -/
inductive LaRule where
  | none | any | zero | refused
  deriving DecidableEq, Repr

structure Form where
  name : String
  major : Nat
  fixed : List (String × Nat)
  ops : List Opd
  quals : List Quals
  la : LaRule
  deriving DecidableEq, Repr

/-- Choices numbered from 0. -/
def numbered (names : List String) : List (List String × Nat) := names.zipIdx.map fun (x, i) => ([x], i)

def qAcquire : Quals := ⟨"acquire", 0, 1, [(["ACQ"], 1)], some 0⟩
def qShort : Quals := ⟨"f3", 0, 1, [(["W"], 1)], some 0⟩
def qFormat (field : String) (lo : Nat) : Quals := ⟨field, lo, if field = "f9" then 2 else 1, numbered ["S", "D"], none⟩
def qRound (field : String) (lo : Nat) : Quals := ⟨field, lo, 3, numbered ["RNE", "RTZ", "RDN", "RUP", "RMM"] ++ [(["DYN"], 7)], some 7⟩
/-- FSGNJ's operation; written without one it is .J: DESIGN CHOICE (log 184), 03 R61 names neither a default nor a refusal. -/
def qSign : Quals := ⟨"f9", 5, 2, numbered ["J", "JN", "JX"], some 0⟩
def qInteger : Quals := ⟨"f9", 6, 1, [(["W"], 1), (["L"], 0)], none⟩
def qUnsigned : Quals := ⟨"f9", 5, 1, [(["U"], 1)], some 0⟩
def qOrder : Quals := ⟨"f6", 4, 2, [(["ACQ"], 1), (["REL"], 2), (["ACQREL"], 3)], some 0⟩
def qSize : Quals := ⟨"f3", 0, 1, numbered ["W", "D"], none⟩
def qWord : Quals := ⟨"f3", 0, 1, [(["W"], 0)], some 0⟩
def qKind : Quals := ⟨"f9", 3, 2, [(["ACQ"], 1), (["REL"], 2)], some 0⟩
def qScope : Quals := ⟨"f9", 0, 3, numbered ["CORE", "CLUSTER", "DIE", "DEVICE", "SYSTEM"], none⟩
def qFlag (field : String) (lo : Nat) (name : String) : Quals := ⟨field, lo, 1, [([name], 1)], some 0⟩
/-- The fields of a handle in the order of 02 R37. -/
def handleFields : List String := ["BASE", "SPACE", "FMT", "ROWS", "COLS", "STRIDE", "SBASE", "ROW0", "COL0", "WROWS", "WCOLS", "FWD"]
def qHandleField : Quals := ⟨"imm8", 0, 8, numbered handleFields, none⟩
/-- The shadow fields in the order of 18 R350. -/
def qShadow : Quals :=
  ⟨"f6", 0, 4, numbered ["SRC", "DST", "SRC_STRIDE", "DST_STRIDE", "ROWS", "ROWBYTES", "MODE", "ELEM", "LANDING", "BARRIER", "PADVAL", "INDEX"
    , "FWD"], none⟩
def qVector (without : Nat) : Quals :=
  ⟨"mod3", 0, 3, numbered ["RNE", "RTZ", "RDN", "RUP", "RMM", "DITHER", "SATRNE", "DYN"], some without⟩
def qScan : Quals := ⟨"mod3", 1, 2, numbered ["RNE", "RTZ", "RDN", "RUP"], some 0⟩
def qExcl : Quals := qFlag "mod3" 0 "EXCL"
def qSelect (names : List String) : Quals := ⟨"f3", 0, 3, numbered names, none⟩
def qMembers : Quals := ⟨"f3", 0, 3, [(["2"], 1), (["4"], 2), (["8"], 3)], none⟩
def qRemote : Quals :=
  ⟨"mod3", 0, 3, [(["MUL"], 0), (["FIRST"], 1), (["LAST"], 2), (["FIRST", "LAST"], 3), (["ZERO"], 4), (["DRAIN"], 5)
    , (["DRAIN", "RELEASE"], 6)], some 0⟩

/-- LOAD, STORE, OPI and OP (02 R31, R32). -/
def loadForms1 : List Form :=
  [⟨"LB", 0, [("width", 0)], [.s "rd", .memLoad 1], [qAcquire], .any⟩,
   ⟨"LH", 0, [("width", 1)], [.s "rd", .memLoad 2], [qAcquire], .any⟩,
   ⟨"LW", 0, [("width", 2)], [.s "rd", .memLoad 4], [qAcquire], .any⟩,
   ⟨"LD", 0, [("width", 3)], [.s "rd", .memLoad 8], [qAcquire], .any⟩,
   ⟨"LBU", 0, [("width", 4)], [.s "rd", .memLoad 1], [qAcquire], .any⟩,
   ⟨"LHU", 0, [("width", 5)], [.s "rd", .memLoad 2], [qAcquire], .any⟩,
   ⟨"LWU", 0, [("width", 6)], [.s "rd", .memLoad 4], [qAcquire], .any⟩,
   ⟨"SB", 1, [("f3", 0)], [.s "rs2", .memStore], [], .none⟩,
   ⟨"SH", 1, [("f3", 1)], [.s "rs2", .memStore], [], .none⟩,
   ⟨"SW", 1, [("f3", 2)], [.s "rs2", .memStore], [], .none⟩,
   ⟨"SD", 1, [("f3", 3)], [.s "rs2", .memStore], [], .none⟩,
   ⟨"SW.REL", 1, [("f3", 4)], [.s "rs2", .memStore], [], .none⟩,
   ⟨"SD.REL", 1, [("f3", 5)], [.s "rs2", .memStore], [], .none⟩,
   ⟨"SD.FWD", 1, [("f3", 6)], [.s "rs2", .memStore], [], .none⟩,
   ⟨"ADDI", 2, [("f3", 0)], [.s "rd", .s "rs1", .imm "imm14"], [], .none⟩,
   ⟨"SLTI", 2, [("f3", 2)], [.s "rd", .s "rs1", .imm "imm14"], [], .none⟩,
   ⟨"SLTIU", 2, [("f3", 3)], [.s "rd", .s "rs1", .imm "imm14"], [], .none⟩,
   ⟨"XORI", 2, [("f3", 4)], [.s "rd", .s "rs1", .imm "imm14"], [], .none⟩,
   ⟨"ORI", 2, [("f3", 6)], [.s "rd", .s "rs1", .imm "imm14"], [], .none⟩,
   ⟨"ANDI", 2, [("f3", 7)], [.s "rd", .s "rs1", .imm "imm14"], [], .none⟩,
   ⟨"SLLI", 2, [("f3", 1)], [.s "rd", .s "rs1", .amount "imm14" 6], [], .none⟩,
   ⟨"SRLI", 2, [("f3", 5)], [.s "rd", .s "rs1", .amount "imm14" 6], [], .none⟩,
   ⟨"SRAI", 2, [("f3", 5), ("imm14", 8192)], [.s "rd", .s "rs1", .amount "imm14" 6], [], .none⟩,
   ⟨"ADD", 3, [("f4", 0)], [.s "rd", .s "rs1", .s "rs2"], [], .none⟩,
   ⟨"SUB", 3, [("f4", 1)], [.s "rd", .s "rs1", .s "rs2"], [], .none⟩,
   ⟨"SLL", 3, [("f4", 2)], [.s "rd", .s "rs1", .s "rs2"], [], .none⟩,
   ⟨"SLT", 3, [("f4", 3)], [.s "rd", .s "rs1", .s "rs2"], [], .none⟩,
   ⟨"SLTU", 3, [("f4", 4)], [.s "rd", .s "rs1", .s "rs2"], [], .none⟩,
   ⟨"XOR", 3, [("f4", 5)], [.s "rd", .s "rs1", .s "rs2"], [], .none⟩,
   ⟨"SRL", 3, [("f4", 6)], [.s "rd", .s "rs1", .s "rs2"], [], .none⟩]

/-- LOAD, STORE, OPI and OP (02 R31, R32). -/
def loadForms2 : List Form :=
  [⟨"SRA", 3, [("f4", 7)], [.s "rd", .s "rs1", .s "rs2"], [], .none⟩,
   ⟨"OR", 3, [("f4", 8)], [.s "rd", .s "rs1", .s "rs2"], [], .none⟩,
   ⟨"AND", 3, [("f4", 9)], [.s "rd", .s "rs1", .s "rs2"], [], .none⟩,
   ⟨"MIN", 3, [("f4", 10)], [.s "rd", .s "rs1", .s "rs2"], [], .none⟩,
   ⟨"MAX", 3, [("f4", 11)], [.s "rd", .s "rs1", .s "rs2"], [], .none⟩,
   ⟨"MINU", 3, [("f4", 12)], [.s "rd", .s "rs1", .s "rs2"], [], .none⟩,
   ⟨"MAXU", 3, [("f4", 13)], [.s "rd", .s "rs1", .s "rs2"], [], .none⟩,
   ⟨"MUL", 3, [("f4", 14), ("f9", 0)], [.s "rd", .s "rs1", .s "rs2"], [], .none⟩,
   ⟨"MULH", 3, [("f4", 14), ("f9", 1)], [.s "rd", .s "rs1", .s "rs2"], [], .none⟩,
   ⟨"MULHU", 3, [("f4", 14), ("f9", 2)], [.s "rd", .s "rs1", .s "rs2"], [], .none⟩,
   ⟨"CLZ", 3, [("f4", 14), ("f9", 3)], [.s "rd", .s "rs1"], [], .none⟩,
   ⟨"CTZ", 3, [("f4", 14), ("f9", 4)], [.s "rd", .s "rs1"], [], .none⟩,
   ⟨"POPC", 3, [("f4", 14), ("f9", 5)], [.s "rd", .s "rs1"], [], .none⟩,
   ⟨"BREV", 3, [("f4", 14), ("f9", 6)], [.s "rd", .s "rs1"], [], .none⟩,
   ⟨"SEQ", 3, [("f4", 15), ("f9", 0)], [.s "rd", .s "rs1", .s "rs2"], [], .none⟩,
   ⟨"SNE", 3, [("f4", 15), ("f9", 1)], [.s "rd", .s "rs1", .s "rs2"], [], .none⟩,
   ⟨"ADDW", 3, [("f4", 15), ("f9", 2)], [.s "rd", .s "rs1", .s "rs2"], [], .none⟩,
   ⟨"SUBW", 3, [("f4", 15), ("f9", 3)], [.s "rd", .s "rs1", .s "rs2"], [], .none⟩]

/-- LUI to ATOM (02 R33 to R35). -/
def scalarForms1 : List Form :=
  [⟨"LUI", 4, [], [.s "rd", .imm "imm21"], [], .none⟩,
   ⟨"AUIPC", 5, [], [.s "rd", .imm "imm21"], [], .none⟩,
   ⟨"BEQ", 6, [("cond", 0)], [.s "rs1", .s "rs2", .target "off14"], [], .none⟩,
   ⟨"BNE", 6, [("cond", 1)], [.s "rs1", .s "rs2", .target "off14"], [], .none⟩,
   ⟨"BLT", 6, [("cond", 4)], [.s "rs1", .s "rs2", .target "off14"], [], .none⟩,
   ⟨"BGE", 6, [("cond", 5)], [.s "rs1", .s "rs2", .target "off14"], [], .none⟩,
   ⟨"BLTU", 6, [("cond", 6)], [.s "rs1", .s "rs2", .target "off14"], [], .none⟩,
   ⟨"BGEU", 6, [("cond", 7)], [.s "rs1", .s "rs2", .target "off14"], [], .none⟩,
   ⟨"JAL", 7, [], [.s "rd", .target "off21"], [], .none⟩,
   ⟨"JALR", 8, [], [.s "rd", .s "rs1", .imm "imm14"], [], .none⟩,
   ⟨"DIV", 9, [("f6", 0)], [.s "rd", .s "rs1", .s "rs2"], [qShort], .any⟩,
   ⟨"DIVU", 9, [("f6", 1)], [.s "rd", .s "rs1", .s "rs2"], [qShort], .any⟩,
   ⟨"REM", 9, [("f6", 2)], [.s "rd", .s "rs1", .s "rs2"], [qShort], .any⟩,
   ⟨"REMU", 9, [("f6", 3)], [.s "rd", .s "rs1", .s "rs2"], [qShort], .any⟩,
   ⟨"FADD", 10, [("f4", 0)], [.s "rd", .s "rs1", .s "rs2"], [qFormat "f9" 0, qRound "f9" 2], .none⟩,
   ⟨"FSUB", 10, [("f4", 1)], [.s "rd", .s "rs1", .s "rs2"], [qFormat "f9" 0, qRound "f9" 2], .none⟩,
   ⟨"FMUL", 10, [("f4", 2)], [.s "rd", .s "rs1", .s "rs2"], [qFormat "f9" 0, qRound "f9" 2], .none⟩,
   ⟨"FMIN", 10, [("f4", 3)], [.s "rd", .s "rs1", .s "rs2"], [qFormat "f9" 0], .none⟩,
   ⟨"FMAX", 10, [("f4", 4)], [.s "rd", .s "rs1", .s "rs2"], [qFormat "f9" 0], .none⟩,
   ⟨"FEQ", 10, [("f4", 6)], [.s "rd", .s "rs1", .s "rs2"], [qFormat "f9" 0], .none⟩,
   ⟨"FLT", 10, [("f4", 7)], [.s "rd", .s "rs1", .s "rs2"], [qFormat "f9" 0], .none⟩,
   ⟨"FLE", 10, [("f4", 8)], [.s "rd", .s "rs1", .s "rs2"], [qFormat "f9" 0], .none⟩,
   ⟨"FSGNJ", 10, [("f4", 5)], [.s "rd", .s "rs1", .s "rs2"], [qFormat "f9" 0, qSign], .none⟩,
   ⟨"FCLASS", 10, [("f4", 9)], [.s "rd", .s "rs1"], [qFormat "f9" 0], .none⟩,
   ⟨"FCVT.F.I", 10, [("f4", 10)], [.s "rd", .s "rs1"], [qFormat "f9" 0, qRound "f9" 2, qInteger, qUnsigned], .none⟩,
   ⟨"FCVT.I.F", 10, [("f4", 11)], [.s "rd", .s "rs1"], [qFormat "f9" 0, qRound "f9" 2, qInteger, qUnsigned], .none⟩,
   ⟨"FCVT.F.F", 10, [("f4", 12)], [.s "rd", .s "rs1"], [qFormat "f9" 0, qRound "f9" 2], .none⟩,
   ⟨"FMAC", 10, [("f4", 13)], [.s "rd", .s "rs1", .s "rs2"], [qFormat "f9" 0, qRound "f9" 2], .none⟩,
   ⟨"FDIV", 11, [("f6", 0)], [.s "rd", .s "rs1", .s "rs2"], [qFormat "f3" 0, qRound "f6" 3], .any⟩,
   ⟨"FSQRT", 11, [("f6", 1)], [.s "rd", .s "rs1"], [qFormat "f3" 0, qRound "f6" 3], .any⟩]

/-- LUI to ATOM (02 R33 to R35). -/
def scalarForms2 : List Form :=
  [⟨"AMO.ADD", 12, [("f6", 0)], [.s "rd", .s "rs2", .memAtomic], [qOrder, qSize], .any⟩,
   ⟨"AMO.AND", 12, [("f6", 1)], [.s "rd", .s "rs2", .memAtomic], [qOrder, qSize], .any⟩,
   ⟨"AMO.OR", 12, [("f6", 2)], [.s "rd", .s "rs2", .memAtomic], [qOrder, qSize], .any⟩,
   ⟨"AMO.XOR", 12, [("f6", 3)], [.s "rd", .s "rs2", .memAtomic], [qOrder, qSize], .any⟩,
   ⟨"AMO.MIN", 12, [("f6", 4)], [.s "rd", .s "rs2", .memAtomic], [qOrder, qSize], .any⟩,
   ⟨"AMO.MAX", 12, [("f6", 5)], [.s "rd", .s "rs2", .memAtomic], [qOrder, qSize], .any⟩,
   ⟨"AMO.MINU", 12, [("f6", 6)], [.s "rd", .s "rs2", .memAtomic], [qOrder, qSize], .any⟩,
   ⟨"AMO.MAXU", 12, [("f6", 7)], [.s "rd", .s "rs2", .memAtomic], [qOrder, qSize], .any⟩,
   ⟨"AMO.SWAP", 12, [("f6", 8)], [.s "rd", .s "rs2", .memAtomic], [qOrder, qSize], .any⟩,
   ⟨"AMO.CAS", 12, [("f6", 9)], [.s "rd", .s "rs2", .memAtomic], [qOrder, qSize], .any⟩,
   ⟨"AMO.FADD", 12, [("f6", 10)], [.s "rd", .s "rs2", .memAtomic], [qOrder, qWord], .any⟩]

/-- SYNC, HANDLE, VEC0 and VEC1 (02 R36 to R38). -/
def vectorForms1 : List Form :=
  [⟨"FENCE", 13, [("f4", 0)], [], [qKind, qScope], .none⟩,
   ⟨"FENCE.X", 13, [("f4", 1)], [.paths 0, .paths 4], [qFlag "f9" 8 "LINK"], .none⟩,
   ⟨"CHUNK", 13, [("f4", 2)], [], [], .none⟩,
   ⟨"SEAM", 13, [("f4", 3)], [.s "rs1"], [], .none⟩,
   ⟨"WATCH", 13, [("f4", 4)], [.s "rd", .s "rs1"], [], .none⟩,
   ⟨"SLEEP", 13, [("f4", 5)], [.s "rd", .s "rs1"], [], .none⟩,
   ⟨"UNWATCH", 13, [("f4", 6)], [.s "rs1"], [], .none⟩,
   ⟨"HLD", 14, [("f5", 0)], [.h "hd", .memHandle], [], .none⟩,
   ⟨"HST", 14, [("f5", 1)], [.h "hd", .memHandle], [], .none⟩,
   ⟨"HSET", 14, [("f5", 2)], [.h "hd", .s "rs2"], [qHandleField], .none⟩,
   ⟨"HGET", 14, [("f5", 3)], [.s "rs2", .h "hd"], [qHandleField], .none⟩,
   ⟨"HMOV", 14, [("f5", 4)], [.h "hd", .h "imm8"], [], .none⟩,
   ⟨"HADV", 14, [("f5", 5)], [.h "hd", .s "rs1", .s "rs2"], [], .none⟩,
   ⟨"HZERO", 14, [("f5", 6)], [.h "hd"], [], .none⟩,
   ⟨"VADD", 15, [("op6", 0)], [.h "hd", .h "ha", .h "hb"], [qVector 7], .any⟩,
   ⟨"VSUB", 15, [("op6", 1)], [.h "hd", .h "ha", .h "hb"], [qVector 7], .any⟩,
   ⟨"VMUL", 15, [("op6", 2)], [.h "hd", .h "ha", .h "hb"], [qVector 7], .any⟩,
   ⟨"VFMA", 15, [("op6", 3)], [.h "hd", .h "ha", .h "hb", .h "hc"], [qVector 7], .any⟩,
   ⟨"VMIN", 15, [("op6", 4)], [.h "hd", .h "ha", .h "hb"], [qVector 7], .any⟩,
   ⟨"VMAX", 15, [("op6", 5)], [.h "hd", .h "ha", .h "hb"], [qVector 7], .any⟩,
   ⟨"VABS", 15, [("op6", 6)], [.h "hd", .h "ha"], [qVector 7], .any⟩,
   ⟨"VNEG", 15, [("op6", 7)], [.h "hd", .h "ha"], [qVector 7], .any⟩,
   ⟨"VAND", 15, [("op6", 8)], [.h "hd", .h "ha", .h "hb"], [], .any⟩,
   ⟨"VOR", 15, [("op6", 9)], [.h "hd", .h "ha", .h "hb"], [], .any⟩,
   ⟨"VXOR", 15, [("op6", 10)], [.h "hd", .h "ha", .h "hb"], [], .any⟩,
   ⟨"VSHL", 15, [("op6", 11)], [.h "hd", .h "ha", .h "hb"], [], .any⟩,
   ⟨"VSHR", 15, [("op6", 12)], [.h "hd", .h "ha", .h "hb"], [], .any⟩,
   ⟨"VSRA", 15, [("op6", 13)], [.h "hd", .h "ha", .h "hb"], [], .any⟩,
   ⟨"VSEL", 15, [("op6", 14)], [.h "hd", .h "ha", .h "hb", .h "hc"], [], .any⟩,
   ⟨"VCMPEQ", 15, [("op6", 15)], [.h "hd", .h "ha", .h "hb"], [], .any⟩]

/-- SYNC, HANDLE, VEC0 and VEC1 (02 R36 to R38). -/
def vectorForms2 : List Form :=
  [⟨"VCMPLT", 15, [("op6", 16)], [.h "hd", .h "ha", .h "hb"], [], .any⟩,
   ⟨"VCMPLE", 15, [("op6", 17)], [.h "hd", .h "ha", .h "hb"], [], .any⟩,
   ⟨"VSET", 15, [("op6", 18)], [.h "hd", .h "ha"], [qVector 7], .any⟩,
   ⟨"VCOPY", 15, [("op6", 19)], [.h "hd", .h "ha"], [], .any⟩,
   ⟨"VRCP", 16, [("op6", 0)], [.h "hd", .h "ha"], [qVector 7], .any⟩,
   ⟨"VRSQ", 16, [("op6", 1)], [.h "hd", .h "ha"], [qVector 7], .any⟩,
   ⟨"VSQRT", 16, [("op6", 2)], [.h "hd", .h "ha"], [qVector 7], .any⟩,
   ⟨"VDIV", 16, [("op6", 3)], [.h "hd", .h "ha", .h "hb"], [qVector 7], .any⟩,
   ⟨"VEXP2", 16, [("op6", 4)], [.h "hd", .h "ha"], [qVector 7], .any⟩,
   ⟨"VLOG2", 16, [("op6", 5)], [.h "hd", .h "ha"], [qVector 7], .any⟩,
   ⟨"VTANH", 16, [("op6", 6)], [.h "hd", .h "ha"], [qVector 7], .any⟩,
   ⟨"VSIGM", 16, [("op6", 7)], [.h "hd", .h "ha"], [qVector 7], .any⟩,
   ⟨"VSINPI", 16, [("op6", 8)], [.h "hd", .h "ha"], [qVector 7], .any⟩,
   ⟨"VCOSPI", 16, [("op6", 9)], [.h "hd", .h "ha"], [qVector 7], .any⟩,
   ⟨"VCVT", 16, [("op6", 10)], [.h "hd", .h "ha"], [qVector 7], .any⟩,
   ⟨"VQSPLIT", 16, [("op6", 11)], [.h "hd", .h "ha", .h "hb", .h "hc"], [qVector 7], .refused⟩,
   ⟨"VSCALE", 16, [("op6", 12)], [.h "hd", .h "ha", .h "hb"], [qVector 7], .any⟩,
   ⟨"VIOTA", 16, [("op6", 13)], [.h "hd", .h "ha", .h "hb"], [qVector 7], .any⟩]

/-- VEC2 to GRP (02 R38, R39). -/
def unitForms1 : List Form :=
  [⟨"VRED.ROW.ADD", 17, [("op6", 0)], [.h "hd", .h "ha"], [qScan], .any⟩,
   ⟨"VRED.ROW.MAX", 17, [("op6", 1)], [.h "hd", .h "ha"], [], .any⟩,
   ⟨"VRED.ROW.MIN", 17, [("op6", 2)], [.h "hd", .h "ha"], [], .any⟩,
   ⟨"VRED.COL.ADD", 17, [("op6", 3)], [.h "hd", .h "ha"], [qScan], .any⟩,
   ⟨"VRED.COL.MAX", 17, [("op6", 4)], [.h "hd", .h "ha"], [], .any⟩,
   ⟨"VRED.COL.MIN", 17, [("op6", 5)], [.h "hd", .h "ha"], [], .any⟩,
   ⟨"VSCAN.ROW.ADD", 17, [("op6", 6)], [.h "hd", .h "ha"], [qScan, qExcl], .any⟩,
   ⟨"VSCAN.ROW.AFF", 17, [("op6", 7)], [.h "hd", .h "ha", .h "hb", .h "hc"], [qScan, qExcl], .refused⟩,
   ⟨"VSCAN.COL.ADD", 17, [("op6", 8)], [.h "hd", .h "ha"], [qScan, qExcl], .any⟩,
   ⟨"VSCAN.COL.AFF", 17, [("op6", 9)], [.h "hd", .h "ha", .h "hb", .h "hc"], [qScan, qExcl], .refused⟩,
   ⟨"VSCAN.ROW.MAX", 17, [("op6", 10)], [.h "hd", .h "ha"], [qExcl], .any⟩,
   ⟨"VGATHER", 17, [("op6", 11)], [.h "hd", .h "ha", .h "hb"], [], .any⟩,
   ⟨"VSCATTER", 17, [("op6", 12)], [.h "hd", .h "ha", .h "hb"], [], .any⟩,
   ⟨"VTRN", 17, [("op6", 13)], [.h "hd", .h "ha"], [], .any⟩,
   ⟨"VBCAST.ROW", 17, [("op6", 14)], [.h "hd", .h "ha"], [], .any⟩,
   ⟨"VBCAST.COL", 17, [("op6", 15)], [.h "hd", .h "ha"], [], .any⟩,
   ⟨"VPACK", 17, [("op6", 16)], [.h "hd", .h "ha", .h "hb"], [], .any⟩,
   ⟨"VUNPACK", 17, [("op6", 17)], [.h "hd", .h "ha", .h "hb"], [], .any⟩,
   ⟨"MCTX", 18, [("op6", 0)], [.h "ha", .h "hb"], [qVector 0], .zero⟩,
   ⟨"MBLD", 18, [("op6", 1)], [.h "hd", .h "ha"], [], .any⟩,
   ⟨"MMUL", 18, [("op6", 2)], [.h "hd", .h "ha", .h "hb", .h "hc"], [qFlag "mod3" 0 "FIRST", qFlag "mod3" 1 "LAST"], .any⟩,
   ⟨"MDRAIN", 18, [("op6", 3)], [.h "hd", .h "ha"], [qFlag "mod3" 0 "RELEASE"], .any⟩,
   ⟨"MZERO", 18, [("op6", 4)], [.h "hd"], [], .any⟩,
   ⟨"MWAIT", 18, [("op6", 5)], [], [], .zero⟩,
   ⟨"MREM", 18, [("op6", 6)], [.h "hd", .h "ha", .h "hb", .h "hc"], [qRemote], .zero⟩,
   ⟨"XSET", 19, [], [.s "rs1"], [qShadow], .any⟩,
   ⟨"XGO", 19, [("f6", 16)], [.s "rd"], [], .any⟩,
   ⟨"XWAIT", 19, [("f6", 17)], [.s "rd", .s "rs1", .s "rs2", .key "word" "f3" 0 3 0 false], [], .any⟩,
   ⟨"XTEST", 19, [("f6", 18)], [.s "rd", .s "rs1"], [], .any⟩,
   ⟨"XCANCEL", 19, [("f6", 19)], [.s "rd", .s "rs1"], [], .any⟩]

/-- VEC2 to GRP (02 R38, R39). -/
def unitForms2 : List Form :=
  [⟨"XSTAT", 19, [("f6", 20)], [.s "rd", .when "rs1" "ACTIVE" false], [qSelect ["STATE", "BYTES", "FADDR", "FCAUSE", "ACTIVE"]], .any⟩,
   ⟨"BINIT", 20, [("f6", 0)], [.s "rd", .s "rs1", .s "rs2"], [], .any⟩,
   ⟨"BARRIVE", 20, [("f6", 1)], [.s "rd", .s "rs1", .s "rs2"], [], .any⟩,
   ⟨"BEXPECT", 20, [("f6", 2)], [.s "rd", .s "rs1", .s "rs2"], [], .any⟩,
   ⟨"BWAIT", 20, [("f6", 3)], [.s "rd", .s "rs1", .s "rs2"], [], .any⟩,
   ⟨"BTRY", 20, [("f6", 4)], [.s "rd", .s "rs1", .s "rs2"], [], .any⟩,
   ⟨"BARRIVE.EXP", 20, [("f6", 5)], [.s "rd", .s "rs1", .s "rs2"], [], .any⟩,
   ⟨"SEND", 21, [("f6", 0)], [.s "rd", .s "rs1", .s "rs2"], [], .any⟩,
   ⟨"SENDM", 21, [("f6", 1)], [.s "rd", .s "rs1", .s "rs2"], [], .any⟩,
   ⟨"SPAWN", 21, [("f6", 2)], [.s "rd", .s "rs1", .s "rs2"], [], .any⟩,
   ⟨"DONE", 21, [("f6", 3)], [], [], .zero⟩,
   ⟨"QSTAT", 21, [("f6", 4)], [.s "rd"], [qSelect ["QLEN", "QSTATE", "RWIN", "NACKS", "INFLIGHT", "LOST", "NEXT", "REFUSED"]], .any⟩,
   ⟨"CARRY", 21, [("f6", 5)], [.s "rd", .s "rs1", .s "rs2"], [], .any⟩,
   ⟨"CARRYW", 21, [("f6", 6)], [.s "rd", .s "rs1", .s "rs2"], [], .any⟩,
   ⟨"YIELD", 21, [("f6", 7)], [.s "rd"], [], .zero⟩,
   ⟨"GSCAN.ADD", 22, [("op6", 0)], [.h "hd", .h "ha"], [qScan, qExcl], .any⟩,
   ⟨"GSCAN.AFF", 22, [("op6", 1)], [.h "hd", .h "ha", .h "hb"], [qScan, qExcl], .any⟩,
   ⟨"GSCAN.MAX", 22, [("op6", 2)], [.h "hd", .h "ha"], [qExcl], .any⟩,
   ⟨"GRED.ADD", 22, [("op6", 3)], [.h "hd", .h "ha"], [qScan], .any⟩,
   ⟨"GRED.MAX", 22, [("op6", 4)], [.h "hd", .h "ha"], [], .any⟩,
   ⟨"GBCAST", 22, [("op6", 5)], [.h "hd", .h "ha", .h "hb"], [], .any⟩,
   ⟨"GSYNC", 22, [("op6", 6)], [], [], .zero⟩]

/-- OWN, MEMSYS, SYS, LOOP and CLOAK (02 R39, R40, 15 R294). -/
def systemForms : List Form :=
  [⟨"RESEED", 23, [("f6", 0)], [.s "rd", .s "rs1", .when "rs2" "OWNER" true], [qFlag "f3" 0 "REMAP", qFlag "f3" 1 "OWNER"], .any⟩,
   ⟨"DRAW", 23, [("f6", 1)], [.s "rd", .s "rs1"], [], .any⟩,
   ⟨"EXQ", 23, [("f6", 2)], [.s "rd", .s "rs1"], [qFlag "f3" 0 "CUR", qFlag "f3" 1 "ALIGN"], .any⟩,
   ⟨"EXCURVE", 23, [("f6", 3)], [.s "rd", .s "rs1", .s "rs2"], [qFlag "f3" 0 "CUR", qFlag "f3" 1 "ALIGN"], .any⟩,
   ⟨"PLQ", 23, [("f6", 4)], [.s "rd", .s "rs1"], [qSelect ["L1SET", "L2SLICE", "L2SET", "HOME"]], .any⟩,
   ⟨"XLPIN", 24, [("f6", 0)], [.s "rd", .s "rs1", .s "rs2"], [qFlag "f3" 0 "DATA"], .any⟩,
   ⟨"XLUNPIN", 24, [("f6", 1)], [.s "rd", .s "rs1"], [], .any⟩,
   ⟨"PCLASS", 24, [("f6", 2)], [.s "rd", .s "rs1"], [qSelect ["QUERY", "PRIVATE", "READONLY", "SHARED"]], .any⟩,
   ⟨"RANGEQ", 24, [("f6", 3)], [.s "rd", .s "rs1"], [], .any⟩,
   ⟨"REGSW", 24, [("f6", 4)], [.s "rd", .s "rs1", .s "rs2"], [], .any⟩,
   ⟨"PLOAD", 24, [("f6", 5)], [.s "rd", .s "rs1", .s "rs2"], [], .any⟩,
   ⟨"REPLAY", 24, [("f6", 6)], [.s "rd", .s "rs1", .s "rs2"], [], .any⟩,
   ⟨"MIGRATE", 24, [("f6", 7)], [.s "rd", .s "rs1", .s "rs2"], [], .any⟩,
   ⟨"SHOOT", 24, [("f6", 8)], [.s "rd", .s "rs1", .s "rs2"], [qFlag "f3" 0 "FLUSH"], .any⟩,
   ⟨"CRR", 25, [("f4", 0)], [.s "rd", .control], [], .none⟩,
   ⟨"CRW", 25, [("f4", 1)], [.s "rd", .control, .s "rs1"], [], .none⟩,
   ⟨"CRS", 25, [("f4", 2)], [.s "rd", .control, .s "rs1"], [], .none⟩,
   ⟨"CRC", 25, [("f4", 3)], [.s "rd", .control, .s "rs1"], [], .none⟩,
   ⟨"TRAP", 25, [("f4", 4)], [.s "rs1"], [], .none⟩,
   ⟨"ERET", 25, [("f4", 5)], [], [], .none⟩,
   ⟨"BRK", 25, [("f4", 6)], [.amount "f9" 9], [], .none⟩,
   ⟨"NOP", 25, [("f4", 7)], [], [], .none⟩,
   ⟨"SYNCI", 25, [("f4", 8)], [.s "rs1", .s "rs2"], [], .none⟩,
   ⟨"CARVE", 25, [("f4", 9)], [.s "rd", .s "rs1"], [], .none⟩,
   ⟨"CAPMINT", 25, [("f4", 10)], [.s "rd", .s "rs1"], [], .none⟩,
   ⟨"WFI", 25, [("f4", 11)], [.s "rd"], [], .none⟩,
   ⟨"REP", 26, [], [.s "rs1", .key "len" "imm14" 9 5 1 true, .key "hstride" "imm14" 6 3 0 false, .key "sstride" "imm14" 3 3 0 false, .key "span" "imm14" 0 3 0 false], [], .none⟩,
   ⟨"COMPOSE", 27, [("f6", 0)], [.s "rd"], [qMembers], .zero⟩,
   ⟨"RELEASE", 27, [("f6", 1)], [.s "rd"], [], .zero⟩,
   ⟨"CSTAT", 27, [("f6", 2)], [.s "rd"], [], .any⟩]

/-- The 16-bit forms (02 R41). -/
def shortForms : List Form :=
  [⟨"C.LW", 28, [("op", 0)], [.s "rd", .memShort 4], [], .none⟩,
   ⟨"C.LD", 28, [("op", 1)], [.s "rd", .memShort 8], [], .none⟩,
   ⟨"C.SW", 28, [("op", 2)], [.s "rs2", .memShort 4], [], .none⟩,
   ⟨"C.SD", 28, [("op", 3)], [.s "rs2", .memShort 8], [], .none⟩,
   ⟨"C.BEQZ", 28, [("op", 4)], [.s "rs1", .target "off7"], [], .none⟩,
   ⟨"C.BNEZ", 28, [("op", 5)], [.s "rs1", .target "off7"], [], .none⟩,
   ⟨"C.J", 28, [("op", 6)], [.target "off11"], [], .none⟩,
   ⟨"C.JR", 28, [("op", 7)], [.s "rs1"], [], .none⟩,
   ⟨"C.MV", 29, [("op", 0), ("sub", 0)], [.s "rd", .s "rs"], [], .none⟩,
   ⟨"C.ADD", 29, [("op", 0), ("sub", 1)], [.s "rd", .s "rs"], [], .none⟩,
   ⟨"C.SUB", 29, [("op", 0), ("sub", 2)], [.s "rd", .s "rs"], [], .none⟩,
   ⟨"C.AND", 29, [("op", 0), ("sub", 3)], [.s "rd", .s "rs"], [], .none⟩,
   ⟨"C.OR", 29, [("op", 0), ("sub", 4)], [.s "rd", .s "rs"], [], .none⟩,
   ⟨"C.XOR", 29, [("op", 0), ("sub", 5)], [.s "rd", .s "rs"], [], .none⟩,
   ⟨"C.ADDI", 29, [("op", 1)], [.s "rd", .imm "imm7"], [], .none⟩,
   ⟨"C.LI", 29, [("op", 2)], [.s "rd", .imm "imm7"], [], .none⟩,
   ⟨"C.SLLI", 29, [("op", 3)], [.s "rd", .amount "sh" 6], [], .none⟩,
   ⟨"C.SRLI", 29, [("op", 4)], [.s "rd", .amount "sh" 6], [], .none⟩,
   ⟨"C.SRAI", 29, [("op", 5)], [.s "rd", .amount "sh" 6], [], .none⟩,
   ⟨"C.NOP", 29, [("op", 6)], [], [], .none⟩,
   ⟨"C.DONE", 29, [("op", 7)], [], [], .none⟩]

/-- Every mnemonic of the opcode map with its form (02 R30 to R41, 03 R58). -/
def forms : List Form :=
  loadForms1 ++ loadForms2 ++ scalarForms1 ++ scalarForms2 ++ vectorForms1 ++ vectorForms2 ++ unitForms1 ++ unitForms2 ++ systemForms ++ shortForms

/-- The base of a statement's dotted head, the longest form name that begins it, and the qualifiers behind it (03 R58). -/
def baseOf (head : String) : Option (Form × List String) :=
  let parts := (splitBy (· == '.') (upper head).toList).map String.ofList
  let tries := (List.range parts.length).reverse.map fun k => (parts.take (k + 1), parts.drop (k + 1))
  tries.findSome? fun (base, quals) =>
    (forms.find? (·.name == ".".intercalate base)).map (·, quals)

/-- Are these lists the same up to order, without repeats? -/
def sameSet (xs ys : List String) : Bool := xs.length == ys.length && xs.all ys.contains && ys.all xs.contains

/-- The bits of a field a qualifier set gives, or why it is refused (03 R60, R61). -/
def Quals.value (q : Quals) (written : List String) : Except String Nat :=
  let mine := written.filter fun x => q.choices.any fun c => c.1.contains x
  match q.choices.find? fun c => sameSet c.1 mine with
  | some c => .ok (c.2 * 2 ^ q.lo)
  | none =>
    if mine.isEmpty then
      match q.default with
      | some v => .ok (v * 2 ^ q.lo)
      | none => .error "a qualifier is required"
    else .error "qualifiers that exclude each other"

/-- The field values that a statement's qualifiers set (03 R60, R61). -/
def Form.qualBits (f : Form) (written : List String) : Except String (List (String × Nat)) :=
  if !written.all fun x => f.quals.any fun q => q.choices.any fun c => c.1.contains x then .error "a qualifier that the base does not take"
  else if !decide written.Nodup then .error "a qualifier twice"
  else f.quals.mapM fun q => (q.value written).map (q.field, ·)

/-! ### Names of operands -/

/-- The control registers by name (06 R137, R150). -/
def controlNames : List (String × Nat) :=
  [("CR_STATUS", 0x000), ("CR_CAUSE", 0x001), ("CR_EPC", 0x002), ("CR_TVAL", 0x003), ("CR_TVEC", 0x004), ("CR_SCRATCH", 0x005)
  , ("CR_REPBASE", 0x006), ("CR_REPCNT", 0x007), ("CR_FCSR", 0x008), ("CR_CORE", 0x010), ("CR_THREAD", 0x011), ("CR_GROUP", 0x012)
  , ("CR_OWNER", 0x013), ("CR_KERNEL", 0x014), ("CR_GCT", 0x018), ("CR_SEED", 0x020), ("CR_KSEED", 0x021), ("CR_TSTAMP", 0x024)
  , ("CR_CARVE", 0x028), ("CR_FWDTAG", 0x030), ("CR_MCAST", 0x031), ("CR_BACKOFF", 0x032), ("CR_HBOUNDLO", 0x033), ("CR_HBOUNDHI", 0x034)
  , ("CR_WAITTMO", 0x038), ("CR_BTMO", 0x039), ("CR_XTMO", 0x03A), ("CR_CHUNKCTL", 0x048), ("CR_CHUNKSTAT", 0x049), ("CR_LINKSTAT", 0x060)
  , ("CR_PLBCTL", 0x070), ("CR_FLOGBASE", 0x071), ("CR_SEAMCTL", 0x072), ("CR_RANGEBASE", 0x073), ("CR_CAPKEY", 0x074), ("CR_TDELEG", 0x075)
  , ("CR_WDOG", 0x076)]

def controlNo (s : String) : Option Nat := (controlNames.find? (·.1 == upper s)).map (·.2)

/-- The paths of FENCE.X (03 R61). -/
def pathNames : List String := ["core", "copy", "matrix", "collective"]

end Sys2Proof.Tool
end

