-- ==== Sys2Proof/Machine/Hof.lean ====
section
/-!
DEFINITION. Sys2Proof/Machine/Hof.lean: the HOF file, which carries an object or a linked image (03 R73 to R77).
-/

namespace Sys2Proof.Tool

open Sys2Proof.Machine

/-- The section kinds of 03 R74. -/
def kindText : Nat := 1
def kindRodata : Nat := 2
def kindData : Nat := 3
def kindTcm : Nat := 4
def kindSpad : Nat := 5
def kindHandles : Nat := 6
def kindTasks : Nat := 7
def kindRanges : Nat := 8
def kindLaunch : Nat := 9

/-- The alignment a section of a kind has at least (03 R74). -/
def kindAlign (kind : Nat) : Nat :=
  if kind = 1 then 2 else if kind = 6 ∨ kind = 7 ∨ kind = 8 then 32 else if kind = 9 then 8 else 1

/-- ENTSIZE of a kind (03 R74). -/
def kindEntry (kind : Nat) : Nat := if kind = 6 ∨ kind = 7 ∨ kind = 8 then 32 else if kind = 9 then 96 else 0

/-- FLAGS of a kind: bit 0 ALLOC, bit 1 WRITE, bit 2 EXEC (03 R74). Which kinds have which is DESIGN CHOICE (log 174). -/
def kindFlags (kind : Nat) : Nat := if kind = 1 then 5 else if kind = 3 ∨ kind = 4 ∨ kind = 5 then 3 else 1

/-- A section (03 R74). ZEROFILL sections have a size and no bytes in the file. -/
structure Section where
  name : String
  kind : Nat
  flags : Nat
  addr : Nat
  size : Nat
  bytes : List Byte
  align : Nat
  entsize : Nat
  laddr : Nat
  deriving DecidableEq, Repr

def Section.zerofill (s : Section) : Bool := s.flags / 8 % 2 == 1

/-- The contents of a section, a ZEROFILL one's zeros written out. -/
def Section.contents (s : Section) : List Byte := if s.zerofill then List.replicate s.size 0 else s.bytes

/-- A symbol (03 R75). -/
structure Symbol where
  name : String
  sect : Nat
  stype : Nat
  bind : Nat
  value : Nat
  size : Nat
  deriving DecidableEq, Repr

/-- SECT of an absolute symbol (03 R75). -/
def absSect : Nat := 0xFFFF

/-- The relocation types by their codes (03 R76). -/
inductive RelocType where
  | abs64 | hi21 | lo14 | boff14 | j21 | ldoff9 | handleBase | taskEntry
  deriving DecidableEq, Repr

def RelocType.code : RelocType → Nat
  | .abs64 => 1 | .hi21 => 2 | .lo14 => 3 | .boff14 => 4 | .j21 => 5 | .ldoff9 => 6 | .handleBase => 7 | .taskEntry => 8

def RelocType.ofCode : Nat → Option RelocType
  | 1 => some .abs64 | 2 => some .hi21 | 3 => some .lo14 | 4 => some .boff14 | 5 => some .j21 | 6 => some .ldoff9 | 7 => some .handleBase
  | 8 => some .taskEntry | _ => none

/-- A relocation (03 R76). -/
structure Reloc where
  offset : Nat
  sect : Nat
  type : RelocType
  pcrel : Bool
  sym : Nat
  addend : Int
  deriving DecidableEq, Repr

/-- KIND of a file (03 R73). -/
inductive FileKind where
  | relocatable | image
  deriving DecidableEq, Repr

def FileKind.code : FileKind → Nat
  | .relocatable => 1 | .image => 2

def FileKind.ofCode : Nat → Option FileKind
  | 1 => some .relocatable | 2 => some .image | _ => none

/-- What a HOF file carries. Section k of the list has index k + 1; index 0 is the null header (03 R74). -/
structure Hof where
  kind : FileKind
  sections : List Section
  symbols : List Symbol
  relocs : List Reloc
  deriving DecidableEq, Repr

/-! ### Writing a file -/

def nameBytes (s : String) : List Byte := s.toList.map (fun c => BitVec.ofNat 8 c.toNat) ++ [0]

/-- The string table: the empty name, then every name once (03 R73). -/
def nameTable (names : List String) : List (String × Nat) × List Byte :=
  names.foldl (fun (t, bs) x => if t.any (·.1 == x) then (t, bs) else (t ++ [(x, bs.length)], bs ++ nameBytes x)) ([("", 0)], [0])

def offsetOf (t : List (String × Nat)) (x : String) : Nat := ((t.find? (·.1 == x)).map (·.2)).getD 0

/-- The header of 64 bytes (03 R73). -/
def headerBytes (kind nsect nsym nreloc strsize sectoff symoff relocoff stroff : Nat) : List Byte :=
  [0x48, 0x4F, 0x46, 1] ++ leBytes 2 kind ++ leBytes 2 64 ++ leBytes 4 nsect ++ leBytes 4 nsym ++ leBytes 4 nreloc ++ leBytes 4 strsize
    ++ leBytes 8 sectoff ++ leBytes 8 symoff ++ leBytes 8 relocoff ++ leBytes 8 stroff ++ leBytes 8 0

def Section.header (t : List (String × Nat)) (foff : Nat) (s : Section) : List Byte :=
  leBytes 4 (offsetOf t s.name) ++ leBytes 2 s.kind ++ leBytes 2 s.flags ++ leBytes 8 s.addr ++ leBytes 8 s.size ++ leBytes 8 foff
    ++ leBytes 4 s.align ++ leBytes 4 s.entsize ++ leBytes 8 s.laddr

def Symbol.entry (t : List (String × Nat)) (s : Symbol) : List Byte :=
  leBytes 4 (offsetOf t s.name) ++ leBytes 2 s.sect ++ leBytes 1 s.stype ++ leBytes 1 s.bind ++ leBytes 8 s.value ++ leBytes 8 s.size

def Reloc.entry (r : Reloc) : List Byte :=
  leBytes 8 r.offset ++ leBytes 2 r.sect ++ leBytes 1 r.type.code ++ leBytes 1 (if r.pcrel then 1 else 0) ++ leBytes 4 r.sym
    ++ leBytes 8 (r.addend % 2 ^ 64).toNat

/-- The bytes of a file, of which NSECT counts the null header of index 0 too (DESIGN CHOICE, log 185): the header, the section, symbol and relocation tables, the string table, and the contents in order (03 R73 to R76). -/
def Hof.write (f : Hof) : List Byte :=
  let (t, strs) := nameTable (f.sections.map (·.name) ++ f.symbols.map (·.name))
  let nsect := f.sections.length + 1
  let symoff := 64 + 48 * nsect
  let relocoff := symoff + 24 * f.symbols.length
  let stroff := relocoff + 24 * f.relocs.length
  let data := stroff + strs.length
  let heads := f.sections.foldl (fun (acc : List Byte × Nat) s =>
    let n := if s.zerofill then 0 else s.bytes.length
    (acc.1 ++ s.header t (if s.zerofill then 0 else acc.2), acc.2 + n)) ([], data)
  headerBytes f.kind.code nsect f.symbols.length f.relocs.length strs.length 64 symoff relocoff stroff
    ++ List.replicate 48 0 ++ heads.1 ++ f.symbols.flatMap (·.entry t) ++ f.relocs.flatMap (·.entry) ++ strs
    ++ f.sections.flatMap fun s => if s.zerofill then [] else s.bytes

/-! ### Reading a file -/

/-- The n bytes at an offset, if the file has them, as a number. -/
def numAt (bs : List Byte) (off n : Nat) : Option Nat :=
  let p := (bs.drop off).take n
  if p.length = n then some (ofLeBytes p) else none

/-- The name at an offset of the string table. -/
def nameAt (strs : List Byte) (off : Nat) : String :=
  String.ofList (((strs.drop off).takeWhile (· != 0)).map fun b => Char.ofNat b.toNat)

def readSection (bs strs : List Byte) (off : Nat) : Option Section := do
  let name ← numAt bs off 4
  let kind ← numAt bs (off + 4) 2
  let flags ← numAt bs (off + 6) 2
  let addr ← numAt bs (off + 8) 8
  let size ← numAt bs (off + 16) 8
  let foff ← numAt bs (off + 24) 8
  let align ← numAt bs (off + 32) 4
  let entsize ← numAt bs (off + 36) 4
  let laddr ← numAt bs (off + 40) 8
  let s : Section := { name := nameAt strs name, kind := kind, flags := flags, addr := addr, size := size
                       bytes := if flags / 8 % 2 = 1 then [] else (bs.drop foff).take size, align := align, entsize := entsize, laddr := laddr }
  if 16 ≤ flags ∨ (!s.zerofill ∧ s.bytes.length ≠ size) then none else some s

def readSymbol (bs strs : List Byte) (off : Nat) : Option Symbol := do
  let name ← numAt bs off 4
  let sect ← numAt bs (off + 4) 2
  let stype ← numAt bs (off + 6) 1
  let bind ← numAt bs (off + 7) 1
  let value ← numAt bs (off + 8) 8
  let size ← numAt bs (off + 16) 8
  some { name := nameAt strs name, sect := sect, stype := stype, bind := bind, value := value, size := size }

def readReloc (bs : List Byte) (off : Nat) : Option Reloc := do
  let offset ← numAt bs off 8
  let sect ← numAt bs (off + 8) 2
  let type ← RelocType.ofCode (← numAt bs (off + 10) 1)
  let flags ← numAt bs (off + 11) 1
  let sym ← numAt bs (off + 12) 4
  let addend ← numAt bs (off + 16) 8
  if 2 ≤ flags then none
  else some { offset := offset, sect := sect, type := type, pcrel := flags == 1, sym := sym, addend := (BitVec.ofNat 64 addend).toInt }

/-- Read a file; one whose magic, version, HSIZE or reserved bytes differ is rejected (03 R73). -/
def Hof.read (bs : List Byte) : Option Hof := do
  if bs.take 4 ≠ [0x48, 0x4F, 0x46, 1] then none
  let kind ← FileKind.ofCode (← numAt bs 4 2)
  if (← numAt bs 6 2) ≠ 64 ∨ (← numAt bs 56 8) ≠ 0 then none
  let nsect ← numAt bs 8 4
  let nsym ← numAt bs 12 4
  let nreloc ← numAt bs 16 4
  let strsize ← numAt bs 20 4
  let sectoff ← numAt bs 24 8
  let symoff ← numAt bs 32 8
  let relocoff ← numAt bs 40 8
  let stroff ← numAt bs 48 8
  let strs := (bs.drop stroff).take strsize
  let sections ← (List.range (nsect - 1)).mapM fun k => readSection bs strs (sectoff + 48 * (k + 1))
  let symbols ← (List.range nsym).mapM fun k => readSymbol bs strs (symoff + 24 * k)
  let relocs ← (List.range nreloc).mapM fun k => readReloc bs (relocoff + 24 * k)
  some { kind := kind, sections := sections, symbols := symbols, relocs := relocs }

end Sys2Proof.Tool
end

