-- ==== Sys2Proof/Machine/Assembler.lean ====
section
/-!
DEFINITION. Sys2Proof/Machine/Assembler.lean: `hsas`, from source text to an object (03 R55 to R72). Statements are read in order into items of
known size; when every symbol is known, each item becomes bytes and relocations.
-/

namespace Sys2Proof.Tool

open Sys2Proof.Machine

/-! ### Items -/

/-- What an operand value that waits for the symbols fills. -/
inductive Use where
  /-- the field's own value, in the signed range of a signed field -/
  | raw
  /-- a field of `.enc`, whose value fits where its bits do, written signed or unsigned (03 R62) -/
  | enc
  /-- a branch or jump target, counted in halfwords from the instruction -/
  | target
  /-- an LD-format offset, which a relocation may fill -/
  | load
  deriving DecidableEq, Repr

/-- A field an expression fills: the expression's value over `scale`, less `minus`. -/
structure Slot where
  field : Field
  scale : Nat
  minus : Nat
  use : Use
  deriving DecidableEq, Repr

/-- A statement's contents at its place in a section. -/
inductive Body where
  /-- an instruction of a size in bytes: the bits already known, the fields that wait, and whether its la is `auto` -/
  | ins (size word : Nat) (slots : List (Slot × FieldExpr)) (auto : Bool)
  | bytes (bs : List Byte)
  | fill (n : Nat)
  | data (n : Nat) (e : Expr)
  | handle (fields : List (Nat × Expr))
  /-- doublewords of a device object: offset, expression and whether it is an entry point; and what stands elsewhere -/
  | object (size : Nat) (words : List (Nat × Expr × Bool)) (halves : List (Nat × Expr)) (code : List (Nat × Nat))
  deriving DecidableEq, Repr

structure Item where
  line : Nat
  off : Nat
  size : Nat
  body : Body
  deriving DecidableEq, Repr

/-- A section in the making; its items, last first. -/
structure Building where
  name : String
  kind : Nat
  items : List Item
  size : Nat
  align : Nat
  deriving DecidableEq, Repr

/-- A condition that is open: whether its lines are kept, whether the lines around it are, and whether `.else` has come (03 R72). -/
structure Cond where
  keep : Bool
  outer : Bool
  elsed : Bool
  deriving DecidableEq, Repr

/-- A template that `.macro` defines: its name, its parameters and its lines (03 R72). -/
structure Template where
  name : String
  params : List String
  body : List (List Char)
  deriving DecidableEq, Repr

/-- What the assembler knows while it reads. -/
structure Asm where
  sects : List Building
  cur : Nat
  /-- the kind of the last standard section that a directive has named, .data if none has (03 R68) -/
  std : Nat
  syms : Symbols
  globals : List String
  types : List (String × Nat)
  sizes : List (String × Expr)
  laAuto : Bool
  templates : List Template
  open? : Option Template
  conds : List Cond
  warnings : List (Nat × String)
  deriving DecidableEq, Repr

/-- A file starts in .text, in explicit lookahead mode (03 R55, R66). -/
def Asm.start : Asm :=
  { sects := [{ name := ".text", kind := kindText, items := [], size := 0, align := 2 }], cur := 0, std := kindData, syms := [], globals := []
    types := [], sizes := [], laAuto := false, templates := [], open? := none, conds := [], warnings := [] }

def Asm.sect (a : Asm) : Building := a.sects.getD a.cur ⟨"", 0, [], 0, 1⟩

/-- The current location. -/
def Asm.here (a : Asm) : Expr := .place a.cur a.sect.size

def Asm.mapSect (a : Asm) (f : Building → Building) : Asm := { a with sects := a.sects.modify a.cur f }

/-- Place an item at the current location. -/
def Asm.emit (a : Asm) (line size : Nat) (body : Body) : Asm :=
  a.mapSect fun s => { s with items := ⟨line, s.size, size, body⟩ :: s.items, size := s.size + size }

def Asm.warn (a : Asm) (line : Nat) (w : String) : Asm := { a with warnings := a.warnings ++ [(line, w)] }

/-- The value of an expression that must be absolute when it is read. -/
def Asm.now (a : Asm) (e : Expr) : Except String Int := (e.freeze a.syms).absolute a.syms

def must {α : Type} (why : String) : Option α → Except String α
  | some x => .ok x
  | none => .error why

/-- An expression as it is read, with the present values of the `.set` symbols (03 R68). -/
def Asm.expr (a : Asm) (ts : List Tok) : Except String Expr := (must "an expression" (parseExpr a.here ts)).map (·.freeze a.syms)

def Asm.fieldExpr (a : Asm) (ts : List Tok) : Except String FieldExpr :=
  (must "an expression" (parseField a.here ts)).map fun f => { f with e := f.e.freeze a.syms }

/-! ### Symbols -/

/-- Define a symbol, once (03 R68). -/
def Asm.define (a : Asm) (name : String) (d : SymDef) : Except String Asm :=
  if !symbolOk name then .error "a symbol"
  else if (a.syms.find name).isSome then .error "a symbol defined twice"
  else .ok { a with syms := a.syms ++ [(name, d)] }

def Asm.label (a : Asm) (name : String) : Except String Asm := a.define name (.label a.cur a.sect.size)

/-! ### Instruction statements (03 R58 to R65) -/

/-- An instruction statement in the making. -/
structure Stmt where
  fields : List Field
  word : Nat
  slots : List (Slot × FieldExpr)
  auto : Bool
  deriving DecidableEq, Repr

def Stmt.field (s : Stmt) (name : String) : Except String Field := must "a field of the format" (s.fields.find? (·.name == name))

/-- Set bits of a named field. -/
def Stmt.put (s : Stmt) (name : String) (v : Nat) : Except String Stmt := do
  let f ← s.field name
  .ok { s with word := s.word + v * 2 ^ f.lo }

/-- Let an expression fill a field, or some bits of it. -/
def Stmt.wait (s : Stmt) (f : Field) (scale minus : Nat) (use : Use) (e : FieldExpr) : Stmt :=
  { s with slots := s.slots ++ [(⟨f, scale, minus, use⟩, e)] }

/-- Are the tokens this one keyword? -/
def isKeyword (k : String) : List Tok → Bool
  | [.word w] => lower w == k
  | _ => false

/-- The name a single token is. -/
def oneWord : List Tok → Except String String
  | [.word w] => .ok w
  | _ => .error "a name"

/-- The base register and the offset of `off(sN)`. -/
def memOperand (ts : List Tok) : Except String (Nat × List Tok) :=
  match ts.reverse with
  | .op ")" :: .word r :: .op "(" :: rest =>
    match scalarNo r with
    | some k => .ok (k, rest.reverse)
    | none => .error "a base register"
  | _ => .error "off(sN)"

/-- A path set of FENCE.X: names joined by `+`, or none (03 R61). -/
def pathSet (ts : List Tok) : Except String Nat :=
  if isKeyword "none" ts then .ok 0 else one ts
where
  one (ts : List Tok) : Except String Nat := do
    let names ← (splitBy (· == .op "+") ts).mapM oneWord
    let ks ← names.mapM fun x => must "a path" (pathNames.findIdx? (· == lower x))
    if ks.Nodup then .ok (ks.foldl (fun acc k => acc + 2 ^ k) 0) else .error "a path twice"

/-- The `#` before an immediate is optional (03 R58). -/
def dropHash : List Tok → List Tok
  | .op "#" :: ts => ts
  | ts => ts

/-- Read an operand that stands by position. -/
def Asm.operand (a : Asm) (s : Stmt) (o : Opd) (ts : List Tok) : Except String Stmt := do
  match o with
  | .s f => s.put f (← must "a scalar register" (scalarNo (← oneWord ts)))
  | .h f => s.put f (← must "a handle register" (handleNo (← oneWord ts)))
  | .imm f => do
    let fd ← s.field f
    .ok (s.wait fd 1 0 .raw (← a.fieldExpr (dropHash ts)))
  | .amount f w => do
    let fd ← s.field f
    .ok (s.wait { fd with width := w, signed := false, name := "" } 1 0 .raw (← a.fieldExpr (dropHash ts)))
  | .memLoad n => do
    let (r, off) ← memOperand ts
    let fd ← s.field "imm9"
    .ok ((← s.put "rs1" r).wait fd n 0 .load (← a.fieldExpr (dropHash off)))
  | .memStore => do
    let (r, off) ← memOperand ts
    let fd ← s.field "imm14"
    .ok ((← s.put "rs1" r).wait fd 1 0 .raw (← a.fieldExpr (dropHash off)))
  | .memHandle => do
    let (r, off) ← memOperand ts
    let fd ← s.field "imm8"
    .ok ((← s.put "rs1" r).wait fd 32 0 .raw (← a.fieldExpr (dropHash off)))
  | .memAtomic => do
    let (r, off) ← memOperand ts
    if (← a.now (← a.expr (dropHash off))) ≠ 0 then .error "an offset of 0"
    s.put "rs1" r
  | .memShort n => do
    let (r, off) ← memOperand ts
    let fd ← s.field "n"
    .ok ((← s.put "rs1" r).wait fd n 0 .raw (← a.fieldExpr (dropHash off)))
  | .target f => do
    let fd ← s.field f
    .ok (s.wait fd 2 0 .target (← a.fieldExpr ts))
  | .control =>
    match ts with
    | [.word w] =>
      match controlNo w with
      | some k => s.put "f9" k
      | none => do .ok (s.wait (← s.field "f9") 1 0 .raw (← a.fieldExpr ts))
    | _ => do .ok (s.wait (← s.field "f9") 1 0 .raw (← a.fieldExpr (dropHash ts)))
  | .paths lo => do s.put "f9" ((← pathSet ts) * 2 ^ lo)
  | .when f _ _ => s.put f (← must "a scalar register" (scalarNo (← oneWord ts)))
  | .key .. => .error "an operand"

/-- An operand written `name=value`. -/
def keyOf : List Tok → Option (String × List Tok)
  | .word k :: .op "=" :: ts => some (lower k, ts)
  | _ => none

/-- Does an operand stand by position in a statement with these qualifiers? -/
def Opd.positional (written : List String) : Opd → Bool
  | .key .. => false
  | .when _ q present => written.contains q == present
  | _ => true

/-- Read a keyword operand other than `la`. -/
def Asm.keyOperand (a : Asm) (f : Form) (s : Stmt) (k : String) (ts : List Tok) : Except String Stmt := do
  let key := f.ops.findSome? fun o => match o with
    | .key name field lo width minus _ => if name == k then some (field, lo, width, minus) else none
    | _ => none
  let (field, lo, width, minus) ← must "a keyword of the form" key
  let fd ← s.field field
  .ok (s.wait { fd with lo := fd.lo + lo, width := width, signed := false, name := "" } 1 minus .raw (← a.fieldExpr (dropHash ts)))

/-- Read `la=n` or `la=auto`: a number is kept as it is written, also where the instruction allows 0 only, but for the three members of 16 R299,
which refuse one that is not 0 (03 R58, R66, 02 R43). -/
def Asm.laOperand (a : Asm) (rule : LaRule) (s : Stmt) (written : Option (List Tok)) : Except String Stmt := do
  match written with
  | none => .ok { s with auto := a.laAuto && rule == .any }
  | some ts =>
    if rule == .none then .error "no la"
    else if isKeyword "auto" ts then .ok { s with auto := rule == .any }
    else
      let fd ← s.field "la"
      let ts := dropHash ts
      if rule == .refused ∧ (← a.now (← a.expr ts)) ≠ 0 then .error "la must be 0"
      .ok (s.wait fd 1 0 .raw (← a.fieldExpr ts))

/-- An empty operand list has no operands. -/
def operands (ts : List Tok) : List (List Tok) := if ts.isEmpty then [] else splitBy (· == .op ",") ts

/-- A mnemonic statement as fields (03 R58 to R61). -/
def Asm.statement (a : Asm) (f : Form) (quals : List String) (ts : List Tok) : Except String Stmt := do
  let op := (f.fixed.find? (·.1 == "op")).map (·.2) |>.getD 0
  let s : Stmt := { fields := fieldsOf f.major op, word := majorBits f.major, slots := [], auto := false }
  let s ← f.fixed.foldlM (fun s (n, v) => s.put n v) s
  let s ← (← f.qualBits quals).foldlM (fun s (n, v) => s.put n v) s
  let args := operands ts
  let pos := args.takeWhile fun x => (keyOf x).isNone
  let keys ← (args.drop pos.length).mapM fun x => must "a keyword operand" (keyOf x)
  let want := f.ops.filter (Opd.positional quals)
  if pos.length ≠ want.length then .error "the number of operands"
  let s ← (want.zip pos).foldlM (fun s (o, x) => a.operand s o x) s
  if !decide (keys.map (·.1)).Nodup then .error "a keyword twice"
  let missing := f.ops.any fun o => match o with
    | .key name _ _ _ _ true => !keys.any (·.1 == name)
    | _ => false
  if missing then .error "a keyword operand is missing"
  let s ← (keys.filter (·.1 != "la")).foldlM (fun s (k, x) => a.keyOperand f s k x) s
  a.laOperand f.la s ((keys.find? (·.1 == "la")).map (·.2))

/-- The pairs of `field=value …`, blanks between them. -/
def pairsOf : List Tok → List (String × List Tok)
  | .word k :: .op "=" :: ts => (lower k, []) :: pairsOf ts
  | t :: ts =>
    match pairsOf ts with
    | [] => [("", [t])]
    | (k, us) :: more => if k.isEmpty then ("", t :: us) :: more else ("", [t]) :: (k, us) :: more
  | [] => []

/-- The pairs with their values: each name with the tokens up to the next name. -/
def joinPairs : List (String × List Tok) → List (String × List Tok)
  | (k, []) :: ("", us) :: more => (k, us) :: joinPairs more
  | p :: more => p :: joinPairs more
  | [] => []

/-- The number of a major written by its name or its number, 0 to 27 (03 R62, R63). -/
def majorOf : Tok → Option Nat
  | .word w => majorNames.findIdx? (· == upper w)
  | .num s => (integerOf s).filter (· < 28)
  | .op _ => none

/-- The field form (03 R62, R63); the op field of a 16-bit form comes first. -/
def Asm.enc (a : Asm) (ts : List Tok) : Except String (Nat × Stmt) := do
  match ts with
  | [] => .error "a major"
  | m :: rest =>
    let major ← must "a major" (majorOf m)
    let pairs := joinPairs (pairsOf rest)
    if !decide (pairs.map (·.1)).Nodup then .error "a field twice"
    let op ← match pairs.find? (·.1 == "op") with
      | some (_, us) => if 28 ≤ major then a.now (← a.expr us) else pure 0
      | none => if 28 ≤ major then .error "the op field" else pure 0
    if op < 0 ∨ 7 < op ∨ (28 ≤ major ∧ (pairs.head?.map (·.1)) ≠ some "op") then .error "the op field"
    let s : Stmt := { fields := fieldsOf major op.toNat, word := majorBits major, slots := [], auto := false }
    let s ← pairs.foldlM (fun s (k, us) => do
      let fd ← s.field k
      let reg := match us with
        | [.word w] => if ["rd", "rs1", "rs2", "rs"].contains k then scalarNo w else if ["hd", "ha", "hb", "hc"].contains k then handleNo w else none
        | _ => none
      match reg with
      | some r => s.put k r
      | none =>
        if k == "la" && isKeyword "auto" us then .ok { s with auto := true }
        else .ok (s.wait fd 1 0 .enc (← a.fieldExpr us))) s
    .ok (if 28 ≤ major then 2 else 4, s)

/-- Place an instruction. -/
def Asm.place (a : Asm) (line size : Nat) (s : Stmt) : Except String Asm :=
  if a.sect.size % 2 = 1 then .error "an instruction at an odd address"
  else .ok (a.emit line size (.ins size s.word s.slots s.auto))

/-- Place a mnemonic statement. -/
def Asm.mnemonic (a : Asm) (line : Nat) (head : String) (ts : List Tok) : Except String Asm := do
  let (f, quals) ← must "a mnemonic" (baseOf head)
  a.place line (if 28 ≤ f.major then 2 else 4) (← a.statement f quals ts)

/-- An integer as tokens. -/
def litToks (v : Int) : List Tok := if v < 0 then [.op "-", .num (toString v.natAbs)] else [.num (toString v.natAbs)]

/-- The statements `LI rd, v` expands to, as heads and operands (03 R65). -/
def expandLi (rd : List Tok) : (fuel : Nat) → Int → List (String × List (List Tok))
  | 0, _ => []
  | n + 1, v =>
    if -8192 ≤ v ∧ v ≤ 8191 then [("ADDI", [rd, [.word "s0"], litToks v])]
    else
      let lo := loOf v
      let hi := hiOf v
      (if -(2 ^ 20) ≤ hi ∧ hi ≤ 2 ^ 20 - 1 then [("LUI", [rd, litToks hi])]
        else expandLi rd n hi ++ [("SLLI", [rd, rd, [.num "13"]])])
        ++ (if lo ≠ 0 then [("ADDI", [rd, rd, litToks lo])] else [])

def pseudoNames : List String := ["MV", "NOT", "NEG", "BEQZ", "BNEZ", "J", "CALL", "RET", "LI", "LA"]

/-- The expansion of a pseudo-form (03 R64). -/
def Asm.expand (a : Asm) (head : String) (args : List (List Tok)) : Except String (List (String × List (List Tok))) := do
  let s0 : List Tok := [.word "s0"]
  let s15 : List Tok := [.word "s15"]
  match upper head, args with
  | "MV", [rd, rs] => .ok [("ADDI", [rd, rs, [.num "0"]])]
  | "NOT", [rd, rs] => .ok [("XORI", [rd, rs, litToks (-1)])]
  | "NEG", [rd, rs] => .ok [("SUB", [rd, s0, rs])]
  | "BEQZ", [rs, t] => .ok [("BEQ", [rs, s0, t])]
  | "BNEZ", [rs, t] => .ok [("BNE", [rs, s0, t])]
  | "J", [t] => .ok [("BEQ", [s0, s0, t])]
  | "CALL", [t] => .ok [("JAL", [s15, t])]
  | "RET", [] => .ok [("JALR", [s15, s15, [.num "0"]])]
  | "LI", [rd, v] => do .ok (expandLi rd 8 (← a.now (← a.expr (dropHash v))))
  | "LA", [rd, x] =>
    let pc : List Tok := .word "pcrel" :: .op "(" :: x ++ [.op ")"]
    .ok [("AUIPC", [rd, .word "hi" :: .op "(" :: pc ++ [.op ")"]]), ("ADDI", [rd, rd, .word "lo" :: .op "(" :: pc ++ [.op ")"]])]
  | _, _ => .error "the operands of the pseudo-form"

/-- Operands joined by commas again. -/
def joinArgs : List (List Tok) → List Tok
  | [] => []
  | [x] => x
  | x :: xs => x ++ .op "," :: joinArgs xs

/-! ### Directives (03 R66, R68 to R71) -/

/-- The standard sections and their kinds (03 R68, R74). -/
def standardSections : List (String × Nat) :=
  [(".text", kindText), (".rodata", kindRodata), (".data", kindData), (".tcm", kindTcm), (".spad", kindSpad), (".handles", kindHandles)
  , (".tasks", kindTasks), (".ranges", kindRanges), (".launch", kindLaunch)]

/-- Continue or open a section (03 R68). -/
def Asm.enter (a : Asm) (name : String) : Except String Asm :=
  let known := (standardSections.find? (·.1 == name)).map (·.2)
  let a := { a with std := known.getD a.std }
  match a.sects.findIdx? (·.name == name) with
  | some k => .ok { a with cur := k }
  | none =>
    if wordOk name ∧ !registerName name then
      let kind := known.getD a.std
      .ok { a with sects := a.sects ++ [{ name := name, kind := kind, items := [], size := 0, align := kindAlign kind }], cur := a.sects.length }
    else .error "a section name"

def isPower (n : Nat) : Bool := n == 2 ^ n.log2 && n != 0

/-- Pad to a multiple of n: with C.NOP halfwords in a section of the kind TEXT, whatever its name (DESIGN CHOICE, log 208), with zeros
elsewhere (03 R68). A gap of an odd number of bytes in .text is an error:
DESIGN CHOICE (log 183), no number of C.NOP halfwords fills it. -/
def Asm.pad (a : Asm) (line n : Nat) : Except String Asm :=
  let gap := (n - a.sect.size % n) % n
  let text := a.sect.kind == kindText
  if text && (n < 2 || gap % 2 == 1) then .error "an alignment of .text"
  else
    let a := if gap = 0 then a else a.emit line gap
      (if text then .bytes ((List.replicate (gap / 2) [(0x02 : Byte), (0xC0 : Byte)]).flatten) else .fill gap)
    .ok (a.mapSect fun s => { s with align := max s.align n })

/-- The digits of a decimal number in front of and behind its point, and its exponent (03 R57). -/
def decimalParts (cs : List Char) : Option (List Char × List Char × Int) := do
  let mant := cs.takeWhile fun c => c != 'e' && c != 'E'
  let ex := cs.drop mant.length
  let whole := mant.takeWhile (· != '.')
  let frac := (mant.drop whole.length).drop 1
  let e ← match ex with
    | [] => some (0 : Int)
    | _ :: '-' :: ds => (digitsIn 10 ds).map fun n => -(n : Int)
    | _ :: '+' :: ds => (digitsIn 10 ds).map fun n => (n : Int)
    | _ :: ds => (digitsIn 10 ds).map fun n => (n : Int)
  some (whole, frac, e)

/-- The exact value n × 10^x, an inexact quotient standing between its neighbours on a grid finer than any rounding boundary (04 R86). -/
def decimalVal (neg : Bool) (n : Nat) (x : Int) : Val :=
  if 0 ≤ x then .mk neg (n * 10 ^ x.toNat) 0
  else
    let k := (-x).toNat
    let s := 4 * k + 140
    .mkInexact neg (n * 2 ^ s / 10 ^ k) (-(s : Int)) (n * 2 ^ s % 10 ^ k != 0)

/-- The value of a floating literal: a decimal number with or without a sign, `inf`, `-inf` or `nan` (03 R57). -/
def floatOf : List Tok → Option Val
  | [.op "-", .word w] => if lower w == "inf" then some (.inf true) else none
  | .op "-" :: ts => (positive ts).map Val.negate
  | ts => positive ts
where
  positive : List Tok → Option Val
    | [.num s] => do
      let (w, f, e) ← decimalParts s.toList
      let f' := f.filter (· != '_')
      let n ← digitsIn 10 (w ++ f')
      some (decimalVal false n (e - f'.length))
    | [.word w] => if lower w == "inf" then some (.inf false) else if lower w == "nan" then some (.nan false) else none
    | _ => none

/-- The bit pattern of a literal in a directive's format, whether it is exact, and the pattern's bytes (03 R69). -/
def numberForm : String → Option (Nat × (Val → Nat × Flags))
  | ".float" => some (4, Fmt.deliver .fp32 .rne 0 0)
  | ".double" => some (8, specFp64.deliver .rne 0)
  | ".bf16" => some (2, Fmt.deliver .bf16 .rne 0 0)
  | ".fp8e4" => some (1, Fmt.deliver .e4m3 .rne 0 0)
  | ".fp8e5" => some (1, Fmt.deliver .e5m2 .rne 0 0)
  | _ => none

/-- Number data (03 R69). -/
def Asm.numbers (a : Asm) (line n : Nat) (form : Val → Nat × Flags) (args : List (List Tok)) : Except String Asm :=
  args.foldlM (fun a ts => do
    let v ← must "a floating literal" (floatOf ts)
    let (bits, fl) := form v
    let a := a.emit line n (.bytes (leBytes n bits))
    .ok (if fl.toNat % 2 = 1 then a.warn line "an inexact conversion" else a)) a

/-- `.e8m0`: an integer k from -127 to 127 gives byte k + 127, nan gives 0xFF (03 R69). -/
def Asm.e8m0 (a : Asm) (line : Nat) (args : List (List Tok)) : Except String Asm :=
  args.foldlM (fun a ts => do
    if isKeyword "nan" ts then .ok (a.emit line 1 (.bytes [0xFF]))
    else
      let k ← a.now (← a.expr ts)
      if k < -127 ∨ 127 < k then .error "an exponent from -127 to 127"
      .ok (a.emit line 1 (.bytes [BitVec.ofInt 8 (k + 127)]))) a

/-- Groups of four LNS6 codes in 24 bits; a last partial group is filled with zeros' code (03 R69). -/
def lnsGroups : List Nat → List Byte
  | [] => []
  | [x] => leBytes 3 (x + lnsZero * 0x41040)
  | [x, y] => leBytes 3 (x + y * 64 + lnsZero * 0x41000)
  | [x, y, z] => leBytes 3 (x + y * 64 + z * 4096 + lnsZero * 0x40000)
  | x :: y :: z :: w :: more => leBytes 3 (x + y * 64 + z * 4096 + w * 262144) ++ lnsGroups more

/-- `.lns6` (03 R69). -/
def Asm.lns6 (a : Asm) (line : Nat) (args : List (List Tok)) : Except String Asm := do
  let vs ← args.mapM fun ts => (must "a floating literal" (floatOf ts)).map (Fmt.deliver .lns6 .rne 0 0)
  let bs := lnsGroups (vs.map (·.1))
  let a := a.emit line bs.length (.bytes bs)
  .ok (if vs.any fun v => v.2.toNat % 2 == 1 then a.warn line "an inexact conversion" else a)

/-- Named codes of SPACE and FMT (03 R70). -/
def spaceNames : List String := ["TCM", "SPAD", "GLOBAL", "BSTORE", "ACC", "REMOTE", "IMM"]
def fmtNames : List String := ["FP32", "BF16", "E4M3", "E5M2", "LNS6", "INT8", "INT16", "INT32", "MXE4M3", "MXE5M2", "MXLNS6", "E8M0"]

/-- A value of a handle's field, by name for SPACE and FMT (03 R70). -/
def Asm.handleValue (a : Asm) (k : Nat) (ts : List Tok) : Except String Expr :=
  let names := if k = 1 then spaceNames else if k = 2 then fmtNames else []
  match ts with
  | [.word w] => match names.findIdx? (· == upper w) with
    | some v => .ok (.lit v)
    | none => a.expr ts
  | _ => a.expr ts

/-- `.handle` (03 R70); its label is that of the handle, which is aligned. -/
def Asm.handle (a : Asm) (line : Nat) (label : Option String) (args : List (List Tok)) : Except String Asm := do
  let a ← a.pad line 32
  let a ← match label with
    | some x => do
      let b ← a.label x
      pure { b with types := b.types ++ [(x, 3)], sizes := b.sizes ++ [(x, .lit 32)] }
    | none => pure a
  let fields ← args.mapM fun ts => do
    let (k, us) ← must "key=value" (keyOf ts)
    let i ← must "a field of a handle" (handleFields.findIdx? (· == upper k))
    .ok (i, ← a.handleValue i us)
  if !decide (fields.map (·.1)).Nodup then .error "a field twice"
  .ok (a.emit line 32 (.handle fields))

/-- PROTO codes of 03 R77. -/
def protoNames : List String := ["INV", "LSE", "UPD", "MIG", "WO", "CLS", "SWM"]

/-- `.task`, `.range` and `.launch` in their own sections (03 R71, R77); a label takes the entry's type and size. -/
def Asm.device (a : Asm) (line : Nat) (kind stype size : Nat) (label : Option String) (body : Body) : Except String Asm := do
  if a.sect.kind ≠ kind then .error "a directive outside its section"
  let a ← match label with
    | some x => do
      let b ← a.label x
      pure { b with types := b.types ++ [(x, stype)], sizes := b.sizes ++ [(x, .lit size)] }
    | none => pure a
  .ok (a.emit line size body)

def launchKeys : List String := ["entry", "arg0", "arg1", "arg2", "arg3", "arg4", "arg5", "arg6", "arg7", "hlo", "hhi", "threads", "pinned"]

def Asm.task (a : Asm) (line : Nat) (label : Option String) (args : List (List Tok)) : Except String Asm := do
  match args with
  | [e, lo, hi] => a.device line kindTasks 4 32 label (.object 32 [(0, ← a.expr e, true), (8, ← a.expr lo, false), (16, ← a.expr hi, false)] [] [])
  | _ => .error "entry, lo, hi"

def Asm.range (a : Asm) (line : Nat) (label : Option String) (args : List (List Tok)) : Except String Asm := do
  match args with
  | [b, n, [.word p]] =>
    let proto ← must "a protocol" (protoNames.findIdx? (· == upper p))
    a.device line kindRanges 2 32 label (.object 32 [(0, ← a.expr b, false), (8, ← a.expr n, false)] [] [(16, proto)])
  | _ => .error "base, size, PROTO"

def Asm.launch (a : Asm) (line : Nat) (label : Option String) (args : List (List Tok)) : Except String Asm := do
  let pairs ← args.mapM fun ts => do
    let (k, us) ← must "key=value" (keyOf ts)
    .ok (← must "a key of .launch" (launchKeys.findIdx? (· == k)), ← a.expr us)
  if !decide (pairs.map (·.1)).Nodup then .error "a key twice"
  a.device line kindLaunch 5 96 label
    (.object 96 (pairs.filterMap fun (k, e) => if k ≤ 10 then some (8 * k, e, k == 0) else none)
      (pairs.filterMap fun (k, e) => if 10 < k then some (88 + 2 * (k - 11), e) else none) [])

/-- Set or redefine a symbol by `.set` (03 R68). -/
def Asm.setSym (a : Asm) (name : String) (e : Expr) : Except String Asm :=
  match a.syms.find name with
  | some (.set _) => .ok { a with syms := a.syms.map fun p => if p.1 == name then (name, .set e) else p }
  | _ => a.define name (.set e)

def typeNames : List String := ["none", "func", "object", "handle", "task", "launch"]

/-- Data of n bytes a value (03 R68). -/
def Asm.data (a : Asm) (line n : Nat) (args : List (List Tok)) : Except String Asm :=
  args.foldlM (fun a ts => do .ok (a.emit line n (.data n (← a.expr ts)))) a

/-- The one word that names a symbol. -/
def symbolName (ts : List Tok) : Except String String := do
  let x ← oneWord ts
  if symbolOk x then .ok x else .error "a symbol"

/-- A name, a comma and an expression. -/
def Asm.nameExpr (a : Asm) (args : List (List Tok)) : Except String (String × Expr) := do
  match args with
  | [x, ts] => .ok (← symbolName x, ← a.expr ts)
  | _ => .error "name, expr"

def Asm.names (args : List (List Tok)) : Except String (List String) := args.mapM symbolName

/-- The directives that do nothing with a label of their line but define it first. -/
def Asm.plain (a : Asm) (line : Nat) (head : String) (rest : List Char) : Except String Asm := do
  let ts := lex rest
  let args := operands ts
  match lower head with
  | ".section" => do a.enter (← oneWord ts)
  | ".text" | ".data" | ".rodata" | ".tcm" | ".spad" => if ts.isEmpty then a.enter (lower head) else .error "no operands"
  | ".align" => do
    let n ← a.now (← a.expr ts)
    if n < 1 ∨ 65536 < n ∨ !isPower n.toNat then .error "a power of two from 1 to 65,536"
    a.pad line n.toNat
  | ".zero" | ".space" => do
    let n ← a.now (← a.expr ts)
    if n < 0 then .error "a count"
    .ok (a.emit line n.toNat (.fill n.toNat))
  | ".byte" => a.data line 1 args
  | ".half" => a.data line 2 args
  | ".word" => a.data line 4 args
  | ".dword" => a.data line 8 args
  | ".equ" => do
    let (x, e) ← a.nameExpr args
    a.define x (.equ e)
  | ".set" => do
    let (x, e) ← a.nameExpr args
    a.setSym x e
  | ".global" => do
    let xs ← Asm.names args
    .ok { a with globals := a.globals ++ xs }
  | ".local" => do
    let xs ← Asm.names args
    .ok { a with globals := a.globals.filter (!xs.contains ·) }
  | ".type" =>
    match args with
    | [x, [.word t]] => do
      let x ← symbolName x
      let k ← must "a type" (typeNames.findIdx? (· == lower t))
      if k = 0 then .error "a type"
      .ok { a with types := a.types ++ [(x, k)] }
    | _ => .error "name, type"
  | ".size" => do
    let (x, e) ← a.nameExpr args
    .ok { a with sizes := a.sizes ++ [(x, e)] }
  | ".e8m0" => a.e8m0 line args
  | ".lns6" => a.lns6 line args
  | ".la" => do
    let m ← oneWord ts
    if lower m == "auto" then .ok { a with laAuto := true } else if lower m == "explicit" then .ok { a with laAuto := false } else .error "auto or explicit"
  | ".enc" => do
    let (size, s) ← a.enc ts
    a.place line size s
  | d =>
    match numberForm d with
    | some (n, form) => a.numbers line n form args
    | none => .error "a directive"

/-! ### Lines: conditions and templates (03 R72) -/

def Asm.keeps (a : Asm) : Bool := (a.conds.head?.map (·.keep)).getD true

/-- A template's line with `%p` replaced by the text of p's argument, the longest parameter name that matches (03 R72). -/
def substitute (params : List (String × List Char)) : (fuel : Nat) → List Char → List Char
  | 0, cs => cs
  | _ + 1, [] => []
  | n + 1, c :: cs =>
    if c == '%' then
      let hits := params.filter fun p => p.1.toList.isPrefixOf cs
      match hits.foldl (fun (best : Option (String × List Char)) p =>
          if best.all fun b => b.1.length < p.1.length then some p else best) none with
      | some p => p.2 ++ substitute params n (cs.drop p.1.length)
      | none => c :: substitute params n cs
    else c :: substitute params n cs

/-- A line still to be read: its number, how deep its expansion is, and its text. -/
structure Pending where
  line : Nat
  depth : Nat
  text : List Char
  deriving DecidableEq, Repr

/-- The arguments of a template's call, as text. -/
def textArgs (rest : List Char) : List (List Char) := if (trim rest).isEmpty then [] else (splitBy (· == ',') rest).map trim

/-- Read a line that is kept: the assembler after it, and the lines that its expansion puts in front of the others. A macro's name is matched letter
for letter, and a call with another number of arguments is an error: DESIGN CHOICE (log 182). -/
def Asm.readStatement (a : Asm) (p : Pending) (l : Line) : Except String (Asm × List Pending) := do
  let d := lower l.head
  if placingDirectives.contains d then
    let args := operands (lex l.rest)
    let b ← match d with
      | ".handle" => a.handle p.line l.label args
      | ".task" => a.task p.line l.label args
      | ".range" => a.range p.line l.label args
      | _ => a.launch p.line l.label args
    .ok (b, [])
  else
    let a ← match l.label with
      | some x => a.label x
      | none => pure a
    if l.head.isEmpty then (if l.rest.isEmpty then .ok (a, []) else .error "a statement")
    else if plainDirectives.contains d then do .ok (← a.plain p.line l.head l.rest, [])
    else match a.templates.find? (·.name == l.head) with
      | some t =>
        let args := textArgs l.rest
        if args.length ≠ t.params.length then .error "the number of arguments"
        else if 64 ≤ p.depth then .error "expansion deeper than 64"
        else
          let ps := t.params.zip args
          .ok (a, t.body.map fun cs => { line := p.line, depth := p.depth + 1, text := substitute ps (cs.length + 1) cs })
      | none =>
        if pseudoNames.contains (upper l.head) then do
          let steps ← a.expand l.head (operands (lex l.rest))
          let b ← steps.foldlM (fun b (h, args) => b.mnemonic p.line h (joinArgs args)) a
          .ok (b, [])
        else do .ok (← a.mnemonic p.line l.head (lex l.rest), [])

/-- Open a definition: `.macro name p1, p2, …` (03 R72). -/
def Asm.openTemplate (a : Asm) (rest : List Char) : Except String Asm :=
  let (name, ps) := wordAt (trim rest)
  let name := String.ofList name
  if !symbolOk name ∨ (forms.any (·.name == upper name)) ∨ pseudoNames.contains (upper name) then .error "a name"
  else .ok { a with open? := some { name := name, params := (textArgs ps).map String.ofList, body := [] } }

/-- Read one line. A label precedes its line's statement (03 R55), so one on a line of a condition is kept where the lines in front of it are. -/
def Asm.readLine (a : Asm) (p : Pending) : Except String (Asm × List Pending) := do
  let l := Tool.readLine p.text
  let d := lower l.head
  match a.open? with
  | some t =>
    if d == ".endm" then
      -- a second definition of a name takes the place of the first: DESIGN CHOICE (log 182)
      let a ← match l.label with
        | some x => a.label x
        | none => pure a
      .ok ({ a with open? := none, templates := { t with body := t.body.reverse } :: a.templates.filter (·.name != t.name) }, [])
    else .ok ({ a with open? := some { t with body := p.text :: t.body } }, [])
  | none =>
    let a ← match l.label with
      | some x => if a.keeps && lineDirectives.contains d then a.label x else pure a
      | none => pure a
    if d == ".if" then
      if 16 ≤ a.conds.length then .error "conditions deeper than 16"
      else if a.keeps then
        let v ← a.now (← a.expr (lex l.rest))
        .ok ({ a with conds := ⟨v != 0, true, false⟩ :: a.conds }, [])
      else .ok ({ a with conds := ⟨false, false, false⟩ :: a.conds }, [])
    else if d == ".else" then
      match a.conds with
      | c :: cs => if c.elsed then .error ".else twice" else .ok ({ a with conds := ⟨c.outer && !c.keep, c.outer, true⟩ :: cs }, [])
      | [] => .error ".else without .if"
    else if d == ".endif" then
      match a.conds with
      | _ :: cs => .ok ({ a with conds := cs }, [])
      | [] => .error ".endif without .if"
    else if !a.keeps then .ok (a, [])
    else if d == ".macro" then do .ok (← a.openTemplate l.rest, [])
    else if d == ".endm" then .error ".endm without .macro"
    else a.readStatement p l

/-- An error and the line it stands on. -/
abbrev Located := Nat × String

/-- Read every line, and the lines that expansions put in front. -/
def Asm.readLines : (fuel : Nat) → Asm → List Pending → Except Located Asm
  | _, a, [] =>
    if a.open?.isSome ∨ !a.conds.isEmpty then .error (0, "a definition or condition is open at the end of the file") else .ok a
  | 0, _, p :: _ => .error (p.line, "expansion without end")
  | n + 1, a, p :: ps =>
    match a.readLine p with
    | .ok (b, more) => Asm.readLines n b (more ++ ps)
    | .error e => .error (p.line, e)

/-! ### From items to bytes and relocations -/

/-- A relocation before its symbol has a number. -/
structure Patch where
  off : Nat
  type : RelocType
  pcrel : Bool
  base : Base
  addend : Int
  deriving DecidableEq, Repr

/-- The field's bits for a value, if it fits; `whole` lets a signed field take its bits as an unsigned number too. -/
def Field.bits (f : Field) (v : Int) (whole : Bool := false) : Except String Nat :=
  let ok := if f.signed then decide (-(2 ^ (f.width - 1)) ≤ v ∧ v < 2 ^ (if whole then f.width else f.width - 1)) else decide (0 ≤ v ∧ v < 2 ^ f.width)
  if ok then .ok ((v % 2 ^ f.width).toNat * 2 ^ f.lo) else .error "a value outside its field"

/-- The place a base lies at, where this file defines it. -/
def placeOf (t : Symbols) : Base → Option (Nat × Nat)
  | .place s o => some (s, o)
  | .sym x =>
    match t.find x with
    | some (.label s o) => some (s, o)
    | _ => none
  | .none => none

/-- A value known at assembly time in its field. -/
def Slot.known (s : Slot) (v : Int) : Except String Nat :=
  if v % s.scale = 0 then s.field.bits (v / s.scale - s.minus) (s.use == .enc) else .error "an offset that is no multiple of the access size"

/-- A branch or jump from the instruction at (sect, off): its halfwords where the target lies in this section, else a relocation (03 R59), whose
PCREL is set though BOFF14 and J21 mean P by their type: DESIGN CHOICE (log 181). -/
def targetBits (t : Symbols) (sect off : Nat) (f : Field) (v : Value) : Except String (Nat × List Patch) :=
  match placeOf t v.base with
  | some (k, o) =>
    if k = sect then
      let d := (o : Int) + v.add - off
      if d % 2 = 0 then (f.bits (d / 2)).map (·, []) else .error "an odd distance"
    else far
  | none => far
where
  far : Except String (Nat × List Patch) :=
    if f.name = "off14" then .ok (0, [⟨off, .boff14, true, v.base, v.add⟩])
    else if f.name = "off21" then .ok (0, [⟨off, .j21, true, v.base, v.add⟩])
    else .error "a 16-bit form's target outside its section"

/-- The bits and relocations that an operand value gives the instruction at (sect, off) whose word begins with these bits (03 R57, R59, R76); `lo`
is for the I format's immediate. -/
def Slot.resolve (t : Symbols) (sect off word : Nat) (s : Slot) (x : FieldExpr) : Except String (Nat × List Patch) := do
  let v ← x.e.eval t
  let abs := decide (v.base = .none)
  let isImm14 := s.field.name == "imm14" && [2, 8, 26].contains (word / 4 % 32)
  match x.kind with
  | .plain =>
    match s.use with
    | .target => targetBits t sect off s.field v
    | .load => if abs then (s.known v.add).map (·, []) else .ok (0, [⟨off, .ldoff9, false, v.base, v.add⟩])
    | .raw | .enc => if abs then (s.known v.add).map (·, []) else .error "an absolute value is wanted"
  | .pcrel =>
    if ["off14", "off21", "off7", "off11"].contains s.field.name then targetBits t sect off s.field v else .error "pcrel of another field"
  | .hi =>
    if s.field.name ≠ "imm21" then .error "hi of another field"
    else if abs then (s.field.bits (hiOf v.add)).map (·, []) else .ok (0, [⟨off, .hi21, false, v.base, v.add⟩])
  | .lo =>
    if !isImm14 then .error "lo of another field"
    else if abs then (s.field.bits (loOf v.add)).map (·, []) else .ok (0, [⟨off, .lo14, false, v.base, v.add⟩])
  | .hiPcrel => if s.field.name = "imm21" then .ok (0, [⟨off, .hi21, true, v.base, v.add⟩]) else .error "hi of another field"
  | .loPcrel => if isImm14 then .ok (0, [⟨off, .lo14, true, v.base, v.add⟩]) else .error "lo of another field"

/-- An item as bytes and relocations; an instruction's la is not counted yet. -/
structure Done where
  line : Nat
  off : Nat
  bytes : List Byte
  patches : List Patch
  isIns : Bool
  auto : Bool
  deriving DecidableEq, Repr

/-- An integer of n bytes, signed or unsigned (03 R68). -/
def fitBytes (n : Nat) (v : Int) : Except String (List Byte) :=
  if -(2 ^ (8 * n - 1)) ≤ v ∧ v < 2 ^ (8 * n) then .ok (leBytes n (v % 2 ^ (8 * n)).toNat) else .error "a value that does not fit"

/-- The handle its fields make, and the relocation of its base (03 R70). -/
def handleItem (t : Symbols) (off : Nat) (fields : List (Nat × Expr)) : Except String (List Byte × List Patch) := do
  let parts ← fields.mapM fun (k, e) => do .ok (k, ← e.eval t)
  let space := ((parts.find? (·.1 == 1)).map fun p => p.2.add).getD 0
  let step := fun (acc : HWord × List Patch) (p : Nat × Value) =>
    let w := (handleField p.1).2
    if p.2.base = .none then
      (if -(2 ^ (w - 1)) ≤ p.2.add ∧ p.2.add < 2 ^ w ∧ (0 ≤ p.2.add ∨ p.1 = fieldStride) then
        .ok (handleSet acc.1 p.1 (p.2.add % 2 ^ w).toNat, acc.2)
      else .error "a value outside its field" : Except String (HWord × List Patch))
    else if p.1 = 0 ∧ 0 ≤ space ∧ space ≤ 2 then .ok (acc.1, acc.2 ++ [⟨off, .handleBase, false, p.2.base, p.2.add⟩])
    else .error "a relocatable field"
  let (h, ps) ← parts.foldlM step (0, [])
  if (handleReason h).isSome then .error "a handle that fails a check"
  .ok (leBytes 32 h.toNat, ps)

/-- Bytes written over others at an offset. -/
def overwrite (bs : List Byte) (off : Nat) (new : List Byte) : List Byte := bs.take off ++ new ++ bs.drop (off + new.length)

/-- Where a .launch entry holds FLAGS, of which bit 0 alone may be set (03 R77). -/
def launchFlags : Nat := 90

/-- A device object's bytes and relocations (03 R71, R77). -/
def objectItem (t : Symbols) (off size : Nat) (words : List (Nat × Expr × Bool)) (halves : List (Nat × Expr)) (code : List (Nat × Nat)) :
    Except String (List Byte × List Patch) := do
  let start := (List.replicate size (0 : Byte), ([] : List Patch))
  let (bs, ps) ← words.foldlM (fun (acc : List Byte × List Patch) (o, e, entry) => do
    let v ← e.eval t
    if v.base = .none then .ok (overwrite acc.1 o (leBytes 8 (v.add % 2 ^ 64).toNat), acc.2)
    else .ok (acc.1, acc.2 ++ [⟨off + o, if entry then .taskEntry else .abs64, false, v.base, v.add⟩])) start
  let bs ← halves.foldlM (fun bs (o, e) => do
    let v ← e.absolute t
    if v < 0 ∨ (if o = launchFlags then 2 else 65536) ≤ v then .error "a value that does not fit"
    .ok (overwrite bs o (leBytes 2 v.toNat))) bs
  .ok (code.foldl (fun bs (o, c) => overwrite bs o (leBytes 1 c)) bs, ps)

/-- What a bound or an entry can be compared by before the sections are placed: the section it lies in, or none for an absolute value, and the
distance from there; undefined symbols cannot be compared. -/
def Value.mark (t : Symbols) (v : Value) : Option (Option Nat × Int) :=
  match placeOf t v.base with
  | some (s, o) => some (some s, (o : Int) + v.add)
  | none => if v.base = .none then some (none, v.add % 2 ^ 64) else none

/-- Is x below y, as far as it is known when the file is assembled? Nothing lies below the absolute value 0. -/
def knownBelow (x y : Option (Option Nat × Int)) : Option Bool :=
  match x, y with
  | some (s, a), some (r, b) => if s = r then some (decide (a < b)) else if r = none ∧ b = 0 then some false else none
  | none, some (none, 0) => some false
  | _, _ => none

/-- Does nothing that is known contradict lo ≤ entry < hi (03 R71)? What the placement decides is left to the linker. -/
def boundsHold (t : Symbols) (entry lo hi : Expr) : Except String Bool := do
  let e := (← entry.eval t).mark t
  let l := (← lo.eval t).mark t
  let h := (← hi.eval t).mark t
  .ok (knownBelow e h != some false && knownBelow e l != some true && knownBelow l h != some false)

/-- An item's bytes and relocations. -/
def Item.resolve (t : Symbols) (sect : Nat) (x : Item) : Except String Done := do
  match x.body with
  | .ins size word slots auto => do
    let (w, ps) ← slots.foldlM (fun (acc : Nat × List Patch) (s, e) => do
      let (b, p) ← s.resolve t sect x.off word e
      .ok (acc.1 + b, acc.2 ++ p)) (word, [])
    .ok { line := x.line, off := x.off, bytes := leBytes size w, patches := ps, isIns := true, auto := auto }
  | .bytes bs => .ok { line := x.line, off := x.off, bytes := bs, patches := [], isIns := false, auto := false }
  | .fill n => .ok { line := x.line, off := x.off, bytes := List.replicate n 0, patches := [], isIns := false, auto := false }
  | .data n e => do
    let v ← e.eval t
    if v.base = .none then .ok { line := x.line, off := x.off, bytes := ← fitBytes n v.add, patches := [], isIns := false, auto := false }
    else if n = 8 then
      .ok { line := x.line, off := x.off, bytes := leBytes 8 0, patches := [⟨x.off, .abs64, false, v.base, v.add⟩], isIns := false, auto := false }
    else .error "a relocatable value"
  | .handle fields => do
    let (bs, ps) ← handleItem t x.off fields
    .ok { line := x.line, off := x.off, bytes := bs, patches := ps, isIns := false, auto := false }
  | .object size words halves code => do
    let (bs, ps) ← objectItem t x.off size words halves code
    if size = 32 ∧ code ≠ [] ∧ ofLeBytes ((bs.drop 8).take 8) = 0 ∧ ps.all (·.off ≠ x.off + 8) then .error "a range of size 0"
    else match size, words with
      | 32, [(0, e, true), (8, lo, _), (16, hi, _)] =>
        if (← boundsHold t e lo hi) then .ok { line := x.line, off := x.off, bytes := bs, patches := ps, isIns := false, auto := false }
        else .error "an entry outside its bounds"
      | _, _ => .ok { line := x.line, off := x.off, bytes := bs, patches := ps, isIns := false, auto := false }

/-! ### la=auto (03 R67) -/

def Done.ins (d : Done) : Option Instr :=
  if d.isIns then
    match decode d.bytes with
    | .ok (i, []) => some i
    | _ => none
  else none

/-- The major of an instruction's word; a 16-bit form has its expansion's (02 R41). -/
def wordMajor (bs : List Byte) : Nat :=
  let w := ofLeBytes bs
  if bs.length = 4 then w / 4 % 32
  else
    let op := w / 8192 % 8
    if w % 4 = 0 then [0, 0, 1, 1, 6, 6, 6, 8].getD op 0
    else if op = 0 then (if w / 4 % 8 = 0 then 2 else 3)
    else [0, 2, 2, 2, 2, 2, 25, 21].getD op 0

/-- Is a major of the V format (02 R30)? -/
def isV (major : Nat) : Bool := [15, 16, 17, 18, 22].contains major

/-- What la=auto looks for: a scalar register or a handle register (03 R67). -/
inductive Sought where
  | scalar (r : Reg)
  | handle (h : HReg)
  deriving DecidableEq, Repr

/-- The destination of a long-latency instruction (02 R43, 03 R67); none where it writes none. -/
def Done.sought (d : Done) : Option Sought :=
  match d.ins with
  | none => none
  | some i =>
    let w := ofLeBytes d.bytes
    if isV (wordMajor d.bytes) then some (.handle (hregAt w 7))
    else (instrDests i).head?.map .scalar

def Sought.named (i : Instr) : Sought → Bool
  | .scalar r => (instrSources i).contains r || (instrDests i).contains r
  | .handle h => (instrHandles i).contains h

/-- Does a follower end the count (03 R67, items 1 to 3)? -/
def endsCount (t : Sought) (bs : List Byte) (i : Instr) : Bool :=
  let m := wordMajor bs
  t.named i || [6, 7, 8, 26, 13, 21, 25, 27].contains m
    || (match t with
        | .handle _ => !(([2, 3, 4, 5, 9, 10, 11] : List Nat).contains m)
        | .scalar _ => false)

/-- The count of la=auto over the items that follow (03 R67). -/
def countLa (labelled : Nat → Bool) (t : Sought) : List Done → (most : Nat) → Nat
  | [], _ | _, 0 => 0
  | d :: ds, n + 1 =>
    if d.bytes.isEmpty then countLa labelled t ds (n + 1)
    else if labelled d.off then 0
    else match d.ins with
      | none => 0
      | some i => if endsCount t d.bytes i then 0 else 1 + countLa labelled t ds n

/-- The word with la = n; where that encodes no instruction, la may be 0 only (02 R43). -/
def Done.withLa (d : Done) (n : Nat) : Done :=
  let e := { d with bytes := leBytes 4 (ofLeBytes d.bytes + n * 2 ^ 19) }
  if n = 0 ∨ e.ins.isNone then d else e

/-- Fill la where it is auto; `body` counts the instructions of a REP body that are still to come (03 R67). -/
def fillLa (labelled : Nat → Bool) : (body : Nat) → List Done → List Done
  | _, [] => []
  | body, d :: ds =>
    let la := if d.auto && body == 0 then (d.sought.map fun t => countLa labelled t ds 15).getD 0 else 0
    let body' := match d.ins with
      | some (.rep _ len _ _ _) => len.toNat + 1
      | _ => if d.isIns then body - 1 else body
    d.withLa la :: fillLa labelled body' ds

/-- The la of an instruction's word: that of the formats that have the field (02 R26, R43). -/
def Done.la (d : Done) : Nat :=
  let w := ofLeBytes d.bytes
  if d.bytes.length = 4 ∧ (fieldsOf (w / 4 % 32) 0).any (·.name == "la") then w / 2 ^ 19 % 16 else 0

/-- Does one of the next n instructions name the destination? The sequence is followed as far as it runs straight on: to a branch, a jump, a
repetition or a trap's instruction, and to anything that is no instruction (03 R66). -/
def breaksWindow (t : Sought) : List Done → (n : Nat) → Bool
  | [], _ | _, 0 => false
  | d :: ds, n + 1 =>
    if d.bytes.isEmpty then breaksWindow t ds (n + 1)
    else match d.ins with
      | none => false
      | some i => t.named i || (!(([6, 7, 8, 26, 21, 25] : List Nat).contains (wordMajor d.bytes)) && breaksWindow t ds n)

/-- The lines of the instructions whose window provably holds one that names their destination (03 R66, 02 R45). -/
def brokenWindows : List Done → List Nat
  | [] => []
  | d :: ds =>
    let rest := brokenWindows ds
    match d.sought with
    | some t => if breaksWindow t ds d.la then d.line :: rest else rest
    | none => rest

/-! ### The object -/

/-- A section's items resolved, in order. -/
def Building.resolve (t : Symbols) (k : Nat) (s : Building) : Except Located (List Done) := do
  let ds ← s.items.reverse.mapM fun x =>
    match x.resolve t k with
    | .ok d => .ok d
    | .error e => .error (x.line, e)
  .ok (fillLa (fun off => t.any fun p => p.2 == .label k off) 0 ds)

/-- A symbol of the object: what a name of the file stands for (03 R75). One that stands for an undefined symbol and an offset has no entry: the
relocations of its uses name that other symbol, and it cannot be global. -/
def Asm.symbol (a : Asm) (p : String × SymDef) : Except Located (Option Symbol) := do
  let size ← match a.sizes.find? (·.1 == p.1) with
    | some (_, e) => (match e.absolute a.syms with | .ok v => .ok (v % 2 ^ 64).toNat | .error e => .error (0, e))
    | none => .ok 0
  let stype := ((a.types.reverse.find? (·.1 == p.1)).map (·.2)).getD 0
  let bind := if a.globals.contains p.1 then 1 else 0
  let e : Expr := match p.2 with
    | .label s o => .place s o
    | .equ e => e
    | .set e => e
  let v ← match e.eval a.syms with
    | .ok v => .ok v
    | .error e => .error (0, e)
  match placeOf a.syms v.base with
  | some (s, o) => .ok <| some { name := p.1, sect := s + 1, stype := stype, bind := bind, value := (((o : Int) + v.add) % 2 ^ 64).toNat, size := size }
  | none =>
    if v.base = .none then .ok <| some { name := p.1, sect := absSect, stype := stype, bind := bind, value := (v.add % 2 ^ 64).toNat, size := size }
    else if bind = 1 then .error (0, "a global symbol that stands for an undefined one")
    else .ok none

/-- The symbol a relocation names: a named one, or one without a name for a place or for the number 0. -/
def symbolFor (syms : List Symbol) (b : Base) : List Symbol × Nat :=
  let want : Symbol := match b with
    | .sym x => { name := x, sect := 0, stype := 0, bind := 1, value := 0, size := 0 }
    | .place s o => { name := "", sect := s + 1, stype := 0, bind := 0, value := o, size := 0 }
    | .none => { name := "", sect := absSect, stype := 0, bind := 0, value := 0, size := 0 }
  let hit := match b with
    | .sym x => syms.findIdx? (·.name == x)
    | _ => syms.findIdx? (· == want)
  match hit with
  | some k => (syms, k)
  | none => (syms ++ [want], syms.length)

/-- An object with its warnings. -/
structure Assembled where
  object : Hof
  warnings : List Located
  deriving DecidableEq, Repr

/-- The object of what has been read (03 R73 to R77). -/
def Asm.finish (a : Asm) : Except Located Assembled := do
  let done ← a.sects.zipIdx.mapM fun (s, k) => s.resolve a.syms k
  let sections := (a.sects.zip done).map fun (s, ds) =>
    ({ name := s.name, kind := s.kind, flags := kindFlags s.kind, addr := 0, size := s.size, bytes := ds.flatMap (·.bytes)
       align := s.align, entsize := kindEntry s.kind, laddr := 0 } : Section)
  let syms := (← a.syms.mapM a.symbol).filterMap id
  let undefined := (a.globals.filter fun x => (a.syms.find x).isNone).eraseDups.map fun x =>
    ({ name := x, sect := 0, stype := ((a.types.reverse.find? (·.1 == x)).map (·.2)).getD 0, bind := 1, value := 0, size := 0 } : Symbol)
  let patches := done.zipIdx.flatMap fun (ds, k) => ds.flatMap fun d => d.patches.map fun p => (k, p)
  let (syms, relocs) := patches.foldl (fun (acc : List Symbol × List Reloc) (k, p) =>
    let (syms, n) := symbolFor acc.1 p.base
    (syms, acc.2 ++ [{ offset := p.off, sect := k + 1, type := p.type, pcrel := p.pcrel, sym := n, addend := p.addend }]))
    (syms ++ undefined, [])
  let reserved := done.flatMap fun ds => ds.filterMap fun d => if d.isIns && d.ins.isNone then some (d.line, "a reserved code") else none
  let broken := (done.flatMap brokenWindows).map fun l => (l, "an instruction of its window names the destination")
  .ok { object := { kind := .relocatable, sections := sections, symbols := syms, relocs := relocs }, warnings := a.warnings ++ reserved ++ broken }

/-- Lines an assembly may read, expansions included; a file that has more is refused: DESIGN CHOICE (log 182), 03 R72 limits the nesting only. -/
def maxLines : Nat := 1000000

/-- `hsas`: the object a source file assembles to, or the first error, upon which no object is written (03 R61). -/
def assemble (text : String) : Except Located Assembled := do
  let lines := (sourceLines text).zipIdx.map fun (cs, k) => ({ line := k + 1, depth := 0, text := cs } : Pending)
  (← Asm.start.readLines maxLines lines).finish

end Sys2Proof.Tool
end

