-- ==== Sys2Proof/Machine/Linker.lean ====
section
/-!
DEFINITION. Sys2Proof/Machine/Linker.lean: `hsld`, from objects to an image whose sections a host places in memory (03 R76, R78).
-/

namespace Sys2Proof.Tool

open Sys2Proof.Machine

def alignUp (a n : Nat) : Nat := if n ≤ 1 then a else (a + n - 1) / n * n

/-- Bytes written over others at an offset. -/
def patchBytes (bs : List Byte) (off : Nat) (new : List Byte) : List Byte := bs.take off ++ new ++ bs.drop (off + new.length)

/-! ### Merging sections (03 R78, step 1) -/

/-- Where an input section begins: the object, its section's index, the merged section's position and the offset in it. -/
structure Origin where
  obj : Nat
  sect : Nat
  merged : Nat
  off : Nat
  deriving DecidableEq, Repr

/-- Add an input section to the merged ones. Where two sections of one name have different kinds, the first one's stays: DESIGN CHOICE (log 187). -/
def mergeOne (acc : List Section × List Origin) (obj idx : Nat) (s : Section) : List Section × List Origin :=
  match acc.1.findIdx? (·.name == s.name) with
  | some k =>
    let m := acc.1.getD k s
    let off := alignUp m.size s.align
    let m' := { m with bytes := m.contents ++ List.replicate (off - m.size) 0 ++ s.contents, size := off + s.size, align := max m.align s.align
                       flags := m.flags % 8 }
    (acc.1.set k m', acc.2 ++ [⟨obj, idx, k, off⟩])
  | none => (acc.1 ++ [s], acc.2 ++ [⟨obj, idx, acc.1.length, 0⟩])

def mergeAll (objs : List Hof) : List Section × List Origin :=
  objs.zipIdx.foldl (fun acc (o, k) => o.sections.zipIdx.foldl (fun acc (s, j) => mergeOne acc k (j + 1) s) acc) ([], [])

/-! ### Placement (03 R78, steps 2 to 4) -/

def imageBase : Nat := 0x100000000
def kindStep : Nat := 0x10000

/-- The global kinds in the order of their placement. -/
def globalKinds : List Nat := [kindText, kindRodata, kindData, kindHandles, kindTasks, kindRanges, kindLaunch]

/-- Place the sections of a kind one behind the other from a location; those the command line sets keep their address. -/
def placeKind (fixed : List (String × Nat)) (kind start : Nat) (ss : List Section) : List Section × Nat :=
  ss.foldl (fun (acc : List Section × Nat) s =>
    if s.kind ≠ kind ∨ fixed.any (·.1 == s.name) then (acc.1 ++ [s], acc.2)
    else
      let at' := alignUp acc.2 s.align
      (acc.1 ++ [{ s with addr := at' }], at' + s.size)) ([], start)

/-- Has a kind a section that the command line does not set? -/
def hasKind (fixed : List (String × Nat)) (kind : Nat) (ss : List Section) : Bool := ss.any fun s => s.kind == kind && !fixed.any (·.1 == s.name)

/-- Place every global section; the location behind them. -/
def placeGlobal (fixed : List (String × Nat)) (ss : List Section) : List Section × Nat :=
  globalKinds.foldl (fun acc kind => if hasKind fixed kind acc.1 then placeKind fixed kind (alignUp acc.2 kindStep) acc.1 else acc)
    (ss.map fun s => match fixed.find? (·.1 == s.name) with
      | some p => { s with addr := p.2 }
      | none => s, imageBase)

/-- Place the sections of TCM or the scratchpad from offset 0, and their load copies from a global location (03 R78, step 3). -/
def placeLocal (kind copy : Nat) (ss : List Section) : List Section × Nat :=
  let (ss, n) := placeKind [] kind 0 ss
  (ss.map fun s => if s.kind = kind then { s with laddr := copy + s.addr } else s, n)

def isLocalKind (kind : Nat) : Bool := kind == kindTcm || kind == kindSpad

/-- The global ranges a section takes. -/
def Section.extent (s : Section) : Nat × Nat := (if isLocalKind s.kind then s.laddr else s.addr, s.size)

def meets (x y : Nat × Nat) : Bool := decide (0 < x.2) && decide (0 < y.2) && decide (x.1 < y.1 + y.2) && decide (y.1 < x.1 + x.2)

def overlaps : List (Nat × Nat) → Bool
  | [] => false
  | x :: xs => xs.any (meets x) || overlaps xs

/-- Place everything (03 R78, steps 2 to 4). -/
def placeAll (fixed : List (String × Nat)) (ss : List Section) : Except String (List Section) :=
  if !fixed.all fun p => ss.any fun s => s.name == p.1 && !isLocalKind s.kind then .error "a placement of no global section"
  else if ss.any fun s => fixed.any fun p => p.1 == s.name && p.2 % max s.align 1 != 0 then .error "a placement that breaks an alignment"
  else
    let (ss, cur) := placeGlobal fixed ss
    let copy := alignUp cur kindStep
    let (ss, tcm) := placeLocal kindTcm copy ss
    let copy' := if tcm = 0 then copy else alignUp (copy + tcm) kindStep
    let (ss, spad) := placeLocal kindSpad copy' ss
    if 764 * 1024 < tcm then .error "more than 764 KiB of TCM"
    else if 4 * 1024 * 1024 < spad then .error "more than 4 MiB of scratchpad"
    else if overlaps (ss.map (·.extent)) then .error "placements that overlap"
    else .ok ss

/-! ### Symbols (03 R78, step 5) -/

/-- A symbol of an object as it lies in the image; none where it is undefined. -/
def finalSymbol (ss : List Section) (os : List Origin) (obj : Nat) (y : Symbol) : Option Symbol :=
  if y.sect = absSect then some y
  else if y.sect = 0 then none
  else (os.find? fun o => o.obj == obj && o.sect == y.sect).map fun o =>
    { y with sect := o.merged + 1, value := ((ss.getD o.merged ⟨"", 0, 0, 0, 0, [], 1, 0, 0⟩).addr + o.off + y.value) % 2 ^ 64 }

/-- The global definitions of all objects. -/
def globalSymbols (ss : List Section) (os : List Origin) (objs : List Hof) : List Symbol :=
  objs.zipIdx.flatMap fun (o, k) => o.symbols.filterMap fun y => if y.bind = 1 then finalSymbol ss os k y else none

/-- The symbol that number n of an object stands for. -/
def resolveSymbol (ss : List Section) (os : List Origin) (objs : List Hof) (obj n : Nat) : Except String Symbol :=
  match (objs.getD obj ⟨.relocatable, [], [], []⟩).symbols[n]? with
  | none => .error "a symbol index"
  | some y =>
    match finalSymbol ss os obj y with
    | some z => .ok z
    | none =>
      match (globalSymbols ss os objs).find? (·.name == y.name) with
      | some z => .ok z
      | none => .error "an undefined global"

/-! ### Relocations (03 R76, R78, step 6) -/

def fitsSigned (v : Int) (n : Nat) : Bool := decide (-(2 ^ (n - 1)) ≤ v) && decide (v < 2 ^ (n - 1))

/-- The word at an offset with a field of it written. -/
def putField (bs : List Byte) (off lo width : Nat) (v : Int) : List Byte :=
  let w := BitVec.ofNat 32 (ofLeBytes ((bs.drop off).take 4))
  patchBytes bs off (leBytes 4 (putBits w lo width (v % 2 ^ width).toNat).toNat)

/-- The access size of an LD-format word (05 R110). -/
def loadSize (w : Nat) : Nat := [1, 2, 4, 8, 1, 2, 4].getD (w / 65536 % 8) 1

def loPart (v : Int) : Int := v % 8192
def hiPart (v : Int) : Int := (v - loPart v) / 8192

/-- The kind of section a handle's SPACE wants its base in (03 R76); an absolute symbol, of kind 0 here, lies in none and is taken as global: DESIGN
CHOICE (log 186). -/
def spaceTakes (space kind : Nat) : Bool :=
  if space = 0 then kind == kindTcm else if space = 1 then kind == kindSpad else space == 2 && !isLocalKind kind

/-- Is an address inside a section that may be executed? -/
def inExec (ss : List Section) (a : Nat) : Bool := ss.any fun s => s.flags / 4 % 2 == 1 && decide (s.addr ≤ a) && decide (a < s.addr + s.size)

/-- The final value of a symbol: an absolute one is a number in two's complement (03 R57). -/
def Symbol.final (y : Symbol) : Int := if y.sect = absSect then (BitVec.ofNat 64 y.value).toInt else y.value

/-- Apply a relocation at an offset of a merged section (03 R76): S the symbol's value, A the addend, P the final address. -/
def applyReloc (ss : List Section) (sect : Section) (off : Nat) (r : Reloc) (y : Symbol) (pairHolds : Bool) : Except String (List Byte) :=
  let v : Int := y.final + r.addend
  let p : Int := sect.addr + off
  let kind := if y.sect = 0 ∨ y.sect = absSect then 0 else (ss.getD (y.sect - 1) ⟨"", 0, 0, 0, 0, [], 1, 0, 0⟩).kind
  let bs := sect.bytes
  if r.pcrel && isLocalKind kind then .error "PCREL against a symbol of a local section"
  else match r.type with
    | .abs64 => .ok (patchBytes bs off (leBytes 8 (v % 2 ^ 64).toNat))
    | .hi21 =>
      let h := hiPart (if r.pcrel then v - p else v)
      if fitsSigned h 21 then .ok (putField bs off 11 21 h) else .error "HI21 out of range"
    | .lo14 =>
      if r.pcrel && !pairHolds then .error "LO14 without its HI21"
      else .ok (putField bs off 18 14 (loPart (if r.pcrel then v - (p - 4) else v)))
    | .boff14 =>
      let d := v - p
      if d % 2 ≠ 0 ∨ !fitsSigned (d / 2) 14 then .error "BOFF14 out of range" else .ok (putField bs off 18 14 (d / 2))
    | .j21 =>
      let d := v - p
      if d % 2 ≠ 0 ∨ !fitsSigned (d / 2) 21 then .error "J21 out of range" else .ok (putField bs off 11 21 (d / 2))
    | .ldoff9 =>
      let n := loadSize (ofLeBytes ((bs.drop off).take 4))
      if v % n ≠ 0 ∨ !fitsSigned (v / n) 9 then .error "LDOFF9 out of range" else .ok (putField bs off 23 9 (v / n))
    | .handleBase =>
      if v < 0 ∨ 2 ^ 48 ≤ v then .error "HANDLE_BASE out of range"
      else if !spaceTakes (ofLeBytes ((bs.drop (off + 6)).take 1) % 8) kind then .error "HANDLE_BASE against another kind of section"
      else .ok (patchBytes bs off (leBytes 6 v.toNat))
    | .taskEntry =>
      if v % 2 ≠ 0 ∨ v < 0 ∨ !inExec ss v.toNat then .error "TASK_ENTRY" else .ok (patchBytes bs off (leBytes 8 v.toNat))

/-- Apply one object's relocation to the merged sections. -/
def relocOne (os : List Origin) (objs : List Hof) (obj : Nat) (all : List Reloc) (ss : List Section) (r : Reloc) : Except String (List Section) := do
  match os.find? fun o => o.obj == obj && o.sect == r.sect with
  | none => .error "a relocation of no section"
  | some o =>
    match ss[o.merged]? with
    | none => .error "a relocation of no section"
    | some sect =>
      let y ← resolveSymbol ss os objs obj r.sym
      let pair := all.any fun q => q.type == .hi21 && q.pcrel && q.sect == r.sect && q.offset + 4 == r.offset && q.sym == r.sym && q.addend == r.addend
      let bs ← applyReloc ss sect (o.off + r.offset) r y pair
      .ok (ss.set o.merged { sect with bytes := bs })

/-! ### The image (03 R78) -/

/-- The 64 bits at an offset. -/
def dwordAt (bs : List Byte) (off : Nat) : Nat := ofLeBytes ((bs.drop off).take 8)

/-- lo ≤ entry < hi in every entry of a section, where HHI is not zero (03 R78, step 7). -/
def boundsOk (size elo ehi : Nat) (bs : List Byte) : Bool :=
  (List.range (bs.length / size)).all fun k =>
    let e := dwordAt bs (k * size)
    let lo := dwordAt bs (k * size + elo)
    let hi := dwordAt bs (k * size + ehi)
    hi == 0 || (decide (lo ≤ e) && decide (e < hi))

def Section.boundsOk (s : Section) : Bool :=
  if s.kind = kindTasks then Tool.boundsOk 32 8 16 s.contents else if s.kind = kindLaunch then Tool.boundsOk 96 72 80 s.contents else true

/-- `hsld`: the image of objects in command-line order, with the addresses that the command line sets (03 R78). -/
def link (objs : List Hof) (fixed : List (String × Nat)) : Except String Hof := do
  let (merged, os) := mergeAll objs
  let ss ← placeAll fixed merged
  let globals := globalSymbols ss os objs
  if !decide (globals.map (·.name)).Nodup then .error "two definitions of one global"
  if objs.any fun o => o.symbols.any fun y => y.sect == 0 && !globals.any (·.name == y.name) then .error "an undefined global"
  let done ← objs.zipIdx.foldlM (fun ss (o, k) => o.relocs.foldlM (relocOne os objs k o.relocs) ss) ss
  if !done.all (·.boundsOk) then .error "an entry outside its bounds"
  let syms := objs.zipIdx.flatMap fun (o, k) => o.symbols.filterMap fun y => if y.name.isEmpty then none else finalSymbol ss os k y
  .ok { kind := .image, sections := done, symbols := syms, relocs := [] }

/-! ### What the host places (03 R74, R78) -/

/-- The bytes a host places in global memory for an image: each section at its ADDR, a local one at its LADDR. -/
def Hof.loads (f : Hof) : List (Nat × List Byte) := f.sections.map fun s => (s.extent.1, s.contents)

/-- TCMIMG and TCMLEN, or SPADIMG and SPADLEN, that an image gives a region control block: the load copy of its first section of the kind (03 R78). -/
def Hof.localImage (f : Hof) (kind : Nat) : Nat × Nat := ((f.sections.find? (·.kind == kind)).map fun s => (s.laddr, s.size)).getD (0, 0)

/-- The value of a symbol of an image. -/
def Hof.symbol (f : Hof) (name : String) : Option Nat := (f.symbols.find? (·.name == name)).map (·.value)

end Sys2Proof.Tool
end

