-- ==== Sys2Proof/Tests/Slice0.lean ====
section
/-!
SUPPORT. Sys2Proof/Tests/Slice0.lean: tests on fixed values, each from the spec's own words or counted by hand from its rules: ill-formed terms,
words of every encoded row, single steps, and for every statement with hypotheses a state and operands that meet them.
-/

set_option Elab.async false

namespace Sys2Proof.Tests

open Sys2Proof Sys2Proof.Machine

/-! ### Ill-formed terms -/

/-- Ill-formed floating-point forms: a rounding mode of 5 or 6 (02 R34), a format or a sign form that is reserved. -/
theorem test_illFormedFpAreRefused :
  ([.fadd 0 0 0 5 0, .fadd 0 0 0 6 0, .fadd 0 0 0 0 2, .fsub 0 0 0 5 0, .fsub 0 0 0 6 0, .fsub 0 0 0 0 2, .fmul 0 0 0 5 0, .fmul 0 0 0 6 0,
    .fmul 0 0 0 0 2, .fmin 0 0 0 2, .fmax 0 0 0 2, .fsgnj 0 0 0 3 0, .fsgnj 0 0 0 0 2, .feq 0 0 0 2, .flt 0 0 0 2, .fle 0 0 0 2, .fclass 0 0 2,
    .fcvtFI 0 0 false false 5 0, .fcvtFI 0 0 false false 6 0, .fcvtFI 0 0 false false 0 2, .fcvtIF 0 0 false false 5 0, .fcvtIF 0 0 false false 6 0,
    .fcvtIF 0 0 false false 0 2, .fcvtFF 0 0 5 0, .fcvtFF 0 0 6 0, .fcvtFF 0 0 0 2, .fmac 0 0 0 5 0, .fmac 0 0 0 6 0, .fmac 0 0 0 0 2,
    .fdiv 0 0 0 5 false 0, .fdiv 0 0 0 6 false 0, .fsqrt 0 0 5 false 0, .fsqrt 0 0 6 false 0] : List Instr).all (!·.wellFormed) = true := by decide

/-- Ill-formed instructions of other majors: field numbers, selectors and fixed fields that 02 R31 to R41 reserve. -/
theorem test_illFormedInstructionsAreRefused :
  ([.fence 3 0, .fence 0 5, .hset 0 0 12, .hget 0 0 12, .rep 0 0 0 0 7, .mrem 0 0 0 0 7, .xset 0 13 0, .xstat 0 0 5 0, .xstat 0 1 4 0,
    .reseed 0 0 1 false false 0, .plq 0 0 4 0, .pclass 0 0 4 0, .compose 0 0, .cLw 0 0 0] : List Instr).all (!·.wellFormed) = true := by decide

/-- Ill-formed events: cores, slots, units and dies that the module does not have (01 R9). -/
theorem test_illFormedEventsOfCoresAreRefused :
  ([.slotSelection 512 0, .slotSelection 0 64, .chunkCommit 512 0, .chunkCommit 0 64, .syscallService 512 0, .syscallService 0 64,
    .messageArrival 513 0, .messageArrival 0 512, .messageResend 512 0, .messageDispatch 512, .transferStart 512 0, .transferChunkLanding 512 0 0,
    .transferCancellation 512 0, .mzeroExecute 64 0, .mzeroExecute 0 512, .mbldExecute 64 0, .mbldExecute 0 512, .mmulExecute 64 0,
    .mmulExecute 0 512, .mdrainExecute 64 0, .mdrainExecute 0 512, .remoteMatrixCommand 64 0, .remoteMatrixCommand 0 512, .collectiveTimeout 512 0,
    .collectiveTimeout 0 64, .bwaitTimeout 512 0, .bwaitTimeout 0 64, .sleepTimeout 512 0, .sleepTimeout 0 64, .wfiTimeout 512 0, .wfiTimeout 0 64,
    .xwaitTimeout 512 0, .xwaitTimeout 0 64, .carrywTimeout 512 0, .carrywTimeout 0 64, .leaseExpiry 512 0] : List Instr).all (!·.wellFormed) = true := by decide

/-- Ill-formed events: cores, dies, slices and ports that the module does not have. -/
theorem test_illFormedEventsOfPartsAndPortsAreRefused :
  ([.remotePackedStore 512, .gets 512 0, .getm 512 0, .upgrade 512 0, .puts 512 0, .putm 512 0, .atomic 512 0, .write 512 0, .fwdtagConsume 512 0,
    .inv 4 0, .fwdS 4 0, .fwdM 4 0, .update 4 0, .dieRecall 4 0, .ack 4 0, .data 4 0, .coreSparing 512, .sliceSparing 4 0, .sliceSparing 0 64,
    .partnerDetected 100, .linkTrained 100 0, .linkFault 96 false, .rtlimitExpiry 100, .linkRepair 96, .uePortFault 4, .dataFlit 96 [],
    .ackFlit 96 [], .nakFlit 96 [], .trainingFlit 96 [], .flitResendLimit 96, .carryResend 512 0, .carryAcknowledgement 512 0 .accepted,
    .watchdogExpiry 4, .wdogKick 512 0, .plbFlush 512, .partnerLost 100, .idleFlit 96 []] : List Instr).all (!·.wellFormed) = true := by decide

/-! ### Decoding: words written out from the encoding tables of the chapter "Instruction encoding" (02 R25 to R42) -/

/-- Each word, as `n` bytes in memory order, decodes to the instruction beside it. -/
def readsAll (n : Nat) (l : List (Nat × Instr)) : Bool :=
  l.all fun p => match decode (wordBytes n p.1) with
    | .ok (i, []) => i == p.2
    | _ => false

/-- Words that the spec prints beside their source text. -/
theorem test_decodesPrintedWords :
  readsAll 4
   [(0x801EAA8B, .srai 5 5 7), (0x04832A27, .divu 4 5 6 true 0), (0x0022091B, .blt 1 2 8), (0x0082C983, .lw 3 9 1 0 true),
    (0x00229387, .sdRel 2 7 8), (0x006990AB, .fmac 1 2 3 0 0), (0x408211B3, .amoAdd 3 2 4 1 true 0), (0xE40211B3, .amoCas 3 2 4 3 false 0),
    (0x28033AB3, .amoFadd 5 7 6 0 0), (0x01800037, .fence 0 3), (0x09080037, .fenceX false 1 2), (0x00283A37, .sleep 4 7), (0x00302837, .unwatch 5),
    (0x0C0002E7, .crr 5 0x18), (0x02883B67, .crw 6 7 5), (0x00B00067, .brk 1), (0x070346BF, .vsel 5 1 2 3 0), (0x210682CB, .mmul 5 0 4 6 false true 0)]
   = true := by decide +kernel

theorem test_decodesLoad :
  readsAll 4
   [(0x80C8B283, .lb 5 6 257 9 true), (0x80C9B283, .lh 5 6 257 9 true), (0x80CAB283, .lw 5 6 257 9 true), (0x80CBB283, .ld 5 6 257 9 true),
    (0x80CCB283, .lbu 5 6 257 9 true), (0x80CDB283, .lhu 5 6 257 9 true), (0x80CEB283, .lwu 5 6 257 9 true)] = true := by decide +kernel

theorem test_decodesStore :
  readsAll 4
   [(0x80042B07, .sb 5 6 8193), (0x8004AB07, .sh 5 6 8193), (0x80052B07, .sw 5 6 8193), (0x8005AB07, .sd 5 6 8193), (0x80062B07, .swRel 5 6 8193),
    (0x8006AB07, .sdRel 5 6 8193), (0x80072B07, .sdFwd 5 6 8193)] = true := by decide +kernel

theorem test_decodesOpi :
  readsAll 4
   [(0x8004328B, .addi 5 6 8193), (0x0084B28B, .slli 5 6 33), (0x8005328B, .slti 5 6 8193), (0x8005B28B, .sltiu 5 6 8193),
    (0x8006328B, .xori 5 6 8193), (0x0086B28B, .srli 5 6 33), (0x8086B28B, .srai 5 6 33), (0x8007328B, .ori 5 6 8193), (0x8007B28B, .andi 5 6 8193)] = true := by decide +kernel

theorem test_decodesOp :
  readsAll 4
   [(0x0003B28F, .add 5 6 7), (0x000BB28F, .sub 5 6 7), (0x0013B28F, .sll 5 6 7), (0x001BB28F, .slt 5 6 7), (0x0023B28F, .sltu 5 6 7),
    (0x002BB28F, .xor 5 6 7), (0x0033B28F, .srl 5 6 7), (0x003BB28F, .sra 5 6 7), (0x0043B28F, .or 5 6 7), (0x004BB28F, .and 5 6 7),
    (0x0053B28F, .min 5 6 7), (0x005BB28F, .max 5 6 7), (0x0063B28F, .minu 5 6 7), (0x006BB28F, .maxu 5 6 7), (0x0073B28F, .mul 5 6 7),
    (0x00F3B28F, .mulh 5 6 7), (0x0173B28F, .mulhu 5 6 7), (0x01F0328F, .clz 5 6), (0x0270328F, .ctz 5 6), (0x02F0328F, .popc 5 6),
    (0x0370328F, .brev 5 6), (0x007BB28F, .seq 5 6 7), (0x00FBB28F, .sne 5 6 7), (0x017BB28F, .addw 5 6 7), (0x01FBB28F, .subw 5 6 7)] = true := by decide +kernel

theorem test_decodesUpper :
  readsAll 4
   [(0x80000A93, .lui 5 1048577), (0x80000A97, .auipc 5 1048577)] = true := by decide +kernel

theorem test_decodesBranch :
  readsAll 4
   [(0x80042B1B, .beq 5 6 8193), (0x8004AB1B, .bne 5 6 8193), (0x80062B1B, .blt 5 6 8193), (0x8006AB1B, .bge 5 6 8193), (0x80072B1B, .bltu 5 6 8193),
    (0x8007AB1B, .bgeu 5 6 8193)] = true := by decide +kernel

theorem test_decodesJump :
  readsAll 4
   [(0x80000A9F, .jal 5 1048577), (0x800432A3, .jalr 5 6 8193)] = true := by decide +kernel

theorem test_decodesMuldiv :
  readsAll 4
   [(0x00CBB2A7, .div 5 6 7 true 9), (0x04CBB2A7, .divu 5 6 7 true 9), (0x08CBB2A7, .rem 5 6 7 true 9), (0x0CCBB2A7, .remu 5 6 7 true 9)] = true := by decide +kernel

theorem test_decodesFp :
  readsAll 4
   [(0x0283B2AB, .fadd 5 6 7 1 1), (0x028BB2AB, .fsub 5 6 7 1 1), (0x0293B2AB, .fmul 5 6 7 1 1), (0x009BB2AB, .fmin 5 6 7 1),
    (0x00A3B2AB, .fmax 5 6 7 1), (0x20ABB2AB, .fsgnj 5 6 7 2 1), (0x00B3B2AB, .feq 5 6 7 1), (0x00BBB2AB, .flt 5 6 7 1), (0x00C3B2AB, .fle 5 6 7 1),
    (0x00C832AB, .fclass 5 6 1), (0x32D032AB, .fcvtFI 5 6 true true 1 1), (0x32D832AB, .fcvtIF 5 6 true true 1 1), (0x02E032AB, .fcvtFF 5 6 1 1),
    (0x02EBB2AB, .fmac 5 6 7 1 1)] = true := by decide +kernel

theorem test_decodesFpl :
  readsAll 4
   [(0x20CBB2AF, .fdiv 5 6 7 1 true 9), (0x24C832AF, .fsqrt 5 6 1 true 9)] = true := by decide +kernel

theorem test_decodesAtom :
  readsAll 4
   [(0xC0CBB2B3, .amoAdd 5 6 7 3 true 9), (0xC4CBB2B3, .amoAnd 5 6 7 3 true 9), (0xC8CBB2B3, .amoOr 5 6 7 3 true 9),
    (0xCCCBB2B3, .amoXor 5 6 7 3 true 9), (0xD0CBB2B3, .amoMin 5 6 7 3 true 9), (0xD4CBB2B3, .amoMax 5 6 7 3 true 9),
    (0xD8CBB2B3, .amoMinu 5 6 7 3 true 9), (0xDCCBB2B3, .amoMaxu 5 6 7 3 true 9), (0xE0CBB2B3, .amoSwap 5 6 7 3 true 9),
    (0xE4CBB2B3, .amoCas 5 6 7 3 true 9), (0xE84BB2B3, .amoFadd 5 6 7 3 9)] = true := by decide +kernel

theorem test_decodesSync :
  readsAll 4
   [(0x09800037, .fence 2 3), (0xCC880037, .fenceX true 9 9), (0x00100037, .chunk), (0x00182837, .seam 5), (0x002032B7, .watch 5 6),
    (0x002832B7, .sleep 5 6), (0x00302837, .unwatch 5)] = true := by decide +kernel

theorem test_decodesHandle :
  readsAll 4
   [(0x040829BB, .hld 3 5 129), (0x0C0829BB, .hst 3 5 129), (0x105281BB, .hset 3 5 10), (0x185281BB, .hget 3 5 10), (0x200801BB, .hmov 3 1),
    (0x280329BB, .hadv 3 5 6), (0x300001BB, .hzero 3)] = true := by decide +kernel

theorem test_decodesLoop :
  readsAll 4
   [(0x8DB4286B, .rep 5 17 5 5 5)] = true := by decide +kernel

theorem test_decodesVec0 :
  readsAll 4
   [(0x204885BF, .vadd 3 1 4 1 9), (0x20C885BF, .vsub 3 1 4 1 9), (0x214885BF, .vmul 3 1 4 1 9), (0x21CA85BF, .vfma 3 1 4 2 1 9),
    (0x224885BF, .vmin 3 1 4 1 9), (0x22C885BF, .vmax 3 1 4 1 9), (0x234805BF, .vabs 3 1 1 9), (0x23C805BF, .vneg 3 1 1 9),
    (0x044885BF, .vand 3 1 4 9), (0x04C885BF, .vor 3 1 4 9), (0x054885BF, .vxor 3 1 4 9), (0x05C885BF, .vshl 3 1 4 9), (0x064885BF, .vshr 3 1 4 9),
    (0x06C885BF, .vsra 3 1 4 9), (0x074A85BF, .vsel 3 1 4 2 9), (0x07C885BF, .vcmpeq 3 1 4 9), (0x084885BF, .vcmplt 3 1 4 9),
    (0x08C885BF, .vcmple 3 1 4 9), (0x294805BF, .vset 3 1 1 9), (0x09C805BF, .vcopy 3 1 9)] = true := by decide +kernel

theorem test_decodesVec1 :
  readsAll 4
   [(0x204805C3, .vrcp 3 1 1 9), (0x20C805C3, .vrsq 3 1 1 9), (0x214805C3, .vsqrt 3 1 1 9), (0x21C885C3, .vdiv 3 1 4 1 9),
    (0x224805C3, .vexp2 3 1 1 9), (0x22C805C3, .vlog2 3 1 1 9), (0x234805C3, .vtanh 3 1 1 9), (0x23C805C3, .vsigm 3 1 1 9),
    (0x244805C3, .vsinpi 3 1 1 9), (0x24C805C3, .vcospi 3 1 1 9), (0x254805C3, .vcvt 3 1 1 9), (0x258285C3, .vqsplit 3 1 4 2 1),
    (0x264885C3, .vscale 3 1 4 1 9), (0x26C885C3, .viota 3 1 4 1 9)] = true := by decide +kernel

theorem test_decodesVec2 :
  readsAll 4
   [(0x404805C7, .vredRowAdd 3 1 1 9), (0x00C805C7, .vredRowMax 3 1 9), (0x014805C7, .vredRowMin 3 1 9), (0x41C805C7, .vredColAdd 3 1 1 9),
    (0x024805C7, .vredColMax 3 1 9), (0x02C805C7, .vredColMin 3 1 9), (0x634805C7, .vscanRowAdd 3 1 1 true 9),
    (0x638285C7, .vscanRowAff 3 1 4 2 1 true), (0x644805C7, .vscanColAdd 3 1 1 true 9), (0x648285C7, .vscanColAff 3 1 4 2 1 true),
    (0x254805C7, .vscanRowMax 3 1 true 9), (0x05C885C7, .vgather 3 1 4 9), (0x064885C7, .vscatter 3 1 4 9), (0x06C805C7, .vtrn 3 1 9),
    (0x074805C7, .vbcastRow 3 1 9), (0x07C805C7, .vbcastCol 3 1 9), (0x084885C7, .vpack 3 1 4 9), (0x08C885C7, .vunpack 3 1 4 9)] = true := by decide +kernel

theorem test_decodesMat :
  readsAll 4
   [(0x20002C4B, .mctx 3 1 1), (0x00C805CB, .mbld 3 1 9), (0x614A85CB, .mmul 3 1 4 2 true true 9), (0x21C805CB, .mdrain 3 1 true 9),
    (0x024801CB, .mzero 3 9), (0x0280004B, .mwait), (0xA30285CB, .mrem 3 1 4 2 5)] = true := by decide +kernel

theorem test_decodesGrp :
  readsAll 4
   [(0x604805DB, .gscanAdd 3 1 1 true 9), (0x60C885DB, .gscanAff 3 1 4 1 true 9), (0x214805DB, .gscanMax 3 1 true 9), (0x41C805DB, .gredAdd 3 1 1 9),
    (0x024805DB, .gredMax 3 1 9), (0x02C885DB, .gbcast 3 1 4 9), (0x0300005B, .gsync)] = true := by decide +kernel

theorem test_decodesXfer :
  readsAll 4
   [(0x2448284F, .xset 5 9 9), (0x404802CF, .xgo 5 9), (0x46CBB2CF, .xwait 5 6 7 5 9), (0x484832CF, .xtest 5 6 9), (0x4C4832CF, .xcancel 5 6 9),
    (0x51C832CF, .xstat 5 6 3 9)] = true := by decide +kernel

theorem test_decodesBarr :
  readsAll 4
   [(0x004BB2D3, .binit 5 6 7 9), (0x044BB2D3, .barrive 5 6 7 9), (0x084BB2D3, .bexpect 5 6 7 9), (0x0C4BB2D3, .bwait 5 6 7 9),
    (0x104BB2D3, .btry 5 6 7 9), (0x144BB2D3, .barriveExp 5 6 7 9)] = true := by decide +kernel

theorem test_decodesMsg :
  readsAll 4
   [(0x004BB2D7, .send 5 6 7 9), (0x044BB2D7, .sendm 5 6 7 9), (0x084BB2D7, .spawn 5 6 7 9), (0x0C000057, .done), (0x11C802D7, .qstat 5 3 9),
    (0x144BB2D7, .carry 5 6 7 9), (0x184BB2D7, .carryw 5 6 7 9), (0x1C0002D7, .yield 5)] = true := by decide +kernel

theorem test_decodesOwn :
  readsAll 4
   [(0x01CBB2DF, .reseed 5 6 7 true true 9), (0x044832DF, .draw 5 6 9), (0x09C832DF, .exq 5 6 true true 9), (0x0DCBB2DF, .excurve 5 6 7 true true 9),
    (0x11C832DF, .plq 5 6 3 9)] = true := by decide +kernel

theorem test_decodesMemsys :
  readsAll 4
   [(0x00CBB2E3, .xlpin 5 6 7 true 9), (0x044832E3, .xlunpin 5 6 9), (0x09C832E3, .pclass 5 6 3 9), (0x0C4832E3, .rangeq 5 6 9),
    (0x104BB2E3, .regsw 5 6 7 9), (0x144BB2E3, .pload 5 6 7 9), (0x184BB2E3, .replay 5 6 7 9), (0x1C4BB2E3, .migrate 5 6 7 9),
    (0x20CBB2E3, .shoot 5 6 7 true 9)] = true := by decide +kernel

theorem test_decodesCloak :
  readsAll 4
   [(0x010002EF, .compose 5 2), (0x040002EF, .release 5), (0x084802EF, .cstat 5 9)] = true := by decide +kernel

theorem test_decodesSys :
  readsAll 4
   [(0x808002E7, .crr 5 257), (0x808832E7, .crw 5 6 257), (0x809032E7, .crs 5 6 257), (0x809832E7, .crc 5 6 257), (0x00202867, .trap 5),
    (0x00280067, .eret), (0x80B00067, .brk 257), (0x00380067, .nop), (0x00432867, .synci 5 6), (0x004832E7, .carve 5 6), (0x005032E7, .capmint 5 6),
    (0x005802E7, .wfi 5)] = true := by decide +kernel

theorem test_decodesShort :
  readsAll 2
   [(0x0AD4, .cLw 5 6 5), (0x2AD4, .cLd 5 6 5), (0x4CB4, .cSw 5 6 5), (0x6CB4, .cSd 5 6 5), (0x8B04, .cBeqz 5 65), (0xAB04, .cBnez 5 65),
    (0xD004, .cJ 1025), (0xEA00, .cJr 5), (0x0AC2, .cMv 5 6), (0x0AC6, .cAdd 5 6), (0x0ACA, .cSub 5 6), (0x0ACE, .cAnd 5 6), (0x0AD2, .cOr 5 6),
    (0x0AD6, .cXor 5 6), (0x2B06, .cAddi 5 65), (0x4B06, .cLi 5 65), (0x6B0A, .cSlli 5 33), (0x8B0A, .cSrli 5 33), (0xAB0A, .cSrai 5 33),
    (0xC002, .cNop), (0xE002, .cDone)] = true := by decide +kernel

/-! ### States that the tests are about -/

/-- A thread with this PRV that runs on core 0, slot 0, with these registers from s0 up. -/
def threadAt (prv : Word) (regs : List Word) : State :=
  let a := { Arch.zero with regs := Vector.ofFn fun i : Fin 16 => regs.getD i.val 0, pc := 0x1000, status := prv }
  { State.reset with cur := (0, 0), ctx := { Context.free with life := .running, arch := a, chunk := Chunk.fresh a } }

/-- A user-level thread. -/
def thread (regs : List Word) : State := threadAt 0 regs

/-- The first byte of the TCM window. -/
def tcm : Word := 0x00FFFF0000000000

/-- A piece of work ends with a value and a state, and the value meets a test. -/
def gives {α : Type} (m : M α) (s : State) (p : α → State → Bool := fun _ _ => true) : Bool :=
  match m s with
  | .ok (a, t) => p a t
  | .error _ => false

theorem gives_ok {α : Type} {m : M α} {s : State} {p : α → State → Bool} (h : gives m s p = true) : ∃ a t, m s = .ok (a, t) ∧ p a t = true := by
  unfold gives at h
  split at h
  · exact ⟨_, _, by assumption, h⟩
  · cases h

/-- A handle whose window is its whole tile: SPACE, FMT, BASE, rows, columns, the bytes of a row. -/
def handle (space fmt base rows cols stride : Nat) : HWord :=
  BitVec.ofNat 256 (base + space * 2 ^ 48 + fmt * 2 ^ 52 + rows * 2 ^ 64 + cols * 2 ^ 80 + stride * 2 ^ 96)

/-- A thread with these handles from h0 up. -/
def withHandles (s : State) (l : List HWord) : State := s.mapArch fun a => { a with handles := Vector.ofFn fun i : Fin 8 => l.getD i.val 0 }

/-- Owner 1's partition record: domain 1, cluster 0 and slice 0 of die 0, pseudo-channel 0, one owner allowed at each structure (11 R244). -/
def record : List Byte :=
  leBytes 8 0x10001 ++ leBytes 8 0 ++ leBytes 8 1 ++ leBytes 32 1 ++ leBytes 4 0x10001 ++ leBytes 4 0 ++ leBytes 64 1 ++ List.replicate 8 1 ++ leBytes 32 0 ++ leBytes 24 0

def owner : Owner := { ownerOf record with state := .active }

/-- A user-level thread of owner 1 on its core 0. -/
def tenant (regs : List Word) : State :=
  let s := ((thread regs).putOwner owner).mapCore 0 fun c => { c with owner := 1, domain := 1, knum := 1 }
  { s with ctx := { s.ctx with owner := 1, domain := 1, knum := 1 } }

/-- The node of a launch: one thread, one core, entry 0x10000 (07 R157): ENTRY, THREADS and CORES are set. -/
def node : Node := { addr := 0x40, bytes := leBytes 8 0x10000 ++ leBytes 80 0 ++ leBytes 16 1 ++ leBytes 4 0x809 ++ leBytes 12 0 ++ leBytes 2 1 ++ leBytes 134 0 }

/-- A request of host endpoint 7 for owner 1. -/
def request (op : Nat) : Request := { op := op, mflags := 0, owner := 1, rcb := 0x40, tag := 5, cred := 0, chand := 0, source := .host 7 }

/-- Kernel 1 of owner 1 in a state, on core 0, with `n` ranks. -/
def kernel (st : KernelState) (n : Nat := 1) : Kernel :=
  { kernelOf owner (request 1) [node] with state := st, held := [0], threads := n, groups := [{ index := 0, state := .running, cores := [0], retired := [], lost := none }] }

/-- A rank of that kernel, running. -/
def rank (regs : List Word) (st : KernelState := .running) (n : Nat := 1) : State := (tenant regs).putKernel (kernel st n)

/-- The page at 0x10000 that owner 1 may read, write and execute, in a class. -/
def page (cls : Nat := 0) (p : Bool := true) : Leaf :=
  { va := 0x10000, size := 65536, entry := 0x14010, cls := cls, pcore := 0, gdom := 0, grights := 0, domain := 1, rights := 7, home := 0, frame := 0x20000
    h := false, p := p }

/-- Page tables at 0, 0x10000, 0x12000 and 0x14000 that map that page alone, written out byte by byte from 22 R377, and more bytes after them. -/
def mapping (s : State) (cls : Byte := 0) (more : List Host.Cell := []) : State :=
  { s with mem := [(0, 1), (2, 1), (0x10000, 1), (0x10001, 0x20), (0x10002, 1), (0x12000, 1), (0x12001, 0x40), (0x12002, 1), (0x14010, 7), (0x14012, 2)
                   , (0x1401A, 0x17)] ++ (if cls = 0 then [] else [(0x1401F, 2 * cls)]) ++ more }

/-! ### Witnesses: for each statement with hypotheses, a state and operands that meet them, clause by clause -/

/-- Any registers will do for OpWritesItsResult, BitCountsAndReversal, ImmediatesAndShortFormsWriteTheirResult, DivisionWritesItsResult,
HandleInstructionsDoTheirWork's register clauses and TrappingInstructionsTakeTheirTrap. -/
theorem witness_plainThreads : (thread [1, 2, 3]).plain ∧ (threadAt 3 []).plain := ⟨⟨rfl, rfl⟩, ⟨rfl, rfl⟩⟩

/-- BranchesGoWhereTheyCompare: a branch that is not taken, and one whose target is the last halfword of the 56-bit space. -/
theorem witness_branches : let s := (thread [0, 1, 2]).mapArch fun a => { a with pc := 0x00FFFFFFFFFFFFFC }
    s.plain ∧ (s.x 1 == s.x 2) = false ∧ (s.x 1 == s.x 1) = true ∧ (s.ctx.arch.pc + (1 : BitVec 14).signExtend 64 * 2).toNat = 2 ^ 56 - 2 :=
  ⟨⟨rfl, rfl⟩, by decide +kernel⟩

/-- JumpsLinkAndGoOrTrap: targets at the last halfword of the space and at the first byte past it. -/
theorem witness_jumps : let s := (thread [0, 0x00FFFFFFFFFFFFFF, 0x0100000000000000]).mapArch fun a => { a with pc := 0x00FFFFFFFFFFFFFC }
    s.plain ∧ ((s.x 1 + (0 : BitVec 14).signExtend 64) &&& ~~~1).toNat = 2 ^ 56 - 2 ∧ (s.x 1 &&& ~~~1).toNat < 2 ^ 56
      ∧ (s.ctx.arch.pc + (1 : BitVec 21).signExtend 64 * 2).toNat < 2 ^ 56 ∧ 2 ^ 56 ≤ (s.ctx.arch.pc + (2 : BitVec 21).signExtend 64 * 2).toNat
      ∧ 2 ^ 56 ≤ (s.ctx.arch.pc + (2 : BitVec 14).signExtend 64 * 2).toNat ∧ ((s.x 2 + (0 : BitVec 14).signExtend 64) &&& ~~~1).toNat = 2 ^ 56 :=
  ⟨⟨rfl, rfl⟩, by decide +kernel⟩

/-- RetiringAndJumpingChangeTheThreadAlone, RegisterAndHandleWritesLeaveTheRest, LookaheadWindowsGuardAndCount: the last instruction but one of a
chunk of 512, outside a repetition and a cloak. -/
theorem witness_chunkGoesOn : let s := (thread []).mapChunk fun c => { c with ins := 510 }
    s.plain ∧ s.chunkGoesOn ∧ s.ctx.arch.inRep = false ∧ s.ctx.cloak.state ≠ .bound :=
  ⟨⟨rfl, rfl⟩, by unfold State.chunkGoesOn; decide +kernel⟩

/-- LoadsReadMemory and StoresWriteMemory: the first and the last doubleword of the TCM window. -/
theorem witness_loadsAndStores : let s := thread [0, tcm, tcm + 782328]
    s.plain ∧ (∃ p u, placeOf (s.x 1).toNat 8 .load s = .ok (p, u)) ∧ (∃ p u, placeOf (s.x 2).toNat 8 .load s = .ok (p, u))
      ∧ (∃ r, reserveLines [s.lineKey s.coreId (s.x 2).toNat] s = .ok ((), r) ∧ ∃ p u, placeOf (s.x 2).toNat 8 .store r = .ok (p, u)
          ∧ ¬ (p.kind = kindWo ∧ p.lineKey ∈ u.coh.written))
      ∧ s.canCommit = true ∧ s.commitCur.plain :=
  ⟨⟨rfl, rfl⟩, ⟨_, _, rfl⟩, ⟨_, _, rfl⟩, ⟨_, rfl, _, _, rfl, by decide +kernel⟩, by decide +kernel, ⟨rfl, rfl⟩⟩

/-- BytesReadBackAndNoOthersChange: no SWM copies, and a chunk whose table of parts is in its form. -/
theorem witness_bytesReadBack : (thread []).coh.swm = [] ∧ wfT 0 (thread []).ctx.chunk.parts = true := by decide +kernel

/-- AddressChecksComeInOrderAndWindowsReachTheirMemory: one address for each check, at the edges of the space and of the windows. -/
theorem witness_addressChecks : let s := thread [0, tcm + 1, 0x0100000000000000, tcm + 782336, 0x00FFFF0100400000]
    s.plain ∧ (s.x 1).toNat % 8 ≠ 0 ∧ ((s.x 2).toNat % 8 = 0 ∧ 2 ^ 56 ≤ (s.x 2).toNat)
      ∧ (∀ r ∈ [(3 : Reg), 4], (s.x r).toNat % 8 = 0 ∧ s.transferHolds s.coreId (s.x r).toNat 8 = false ∧ inWindowRegion (s.x r).toNat = true
          ∧ s.windowLoc s.coreId (s.x r).toNat = none ∧ (reserveLines [s.lineKey s.coreId (s.x r).toNat] s matches .ok _) = true) :=
  ⟨⟨rfl, rfl⟩, by decide +kernel⟩

/-- AtomicsReturnTheOldValueAndReplaceIt, in the TCM window: an access that adds, one that compares and one that adds FP32 numbers with no flag. -/
theorem witness_atomics : let s := thread [0, tcm, 7, 0x3F800000]
    s.plain ∧ gives (amoAccess 0 (s.x 1).toNat 8 fun old => (atomicNew 8 old 7)[0]?) s (fun r _ => r == (0, false)) = true
      ∧ gives (amoAccess 0 (s.x 1).toNat 4 fun old => if old = 0 then some 7 else none) s (fun r _ => r == (0, false)) = true
      ∧ gives (amoAccess 0 (s.x 1).toNat 4 fun old => some (fadd32 old 0x3F800000).1.toNat) s
          (fun r t => (fadd32 r.1 0x3F800000).2 &&& BitVec.ofNat 5 (t.ctx.arch.fcsr.toNat / 256 % 32) == 0) = true
      ∧ s.chunkGoesOn ∧ s.coh.swm = [] ∧ wfT 0 s.ctx.chunk.parts = true ∧ (s.x 1).toNat % 8 = 0 ∧ inWindowRegion (s.x 1).toNat = true
      ∧ s.windowLoc s.coreId (s.x 1).toNat = some (tcmLoc 0 0) ∧ s.transferHolds s.coreId (s.x 1).toNat 8 = false
      ∧ s.ctx.chunk.vaLines.length < s.ctx.chunk.maxLines :=
  ⟨⟨rfl, rfl⟩, by unfold State.chunkGoesOn; decide +kernel⟩

/-- FloatingPointWritesItsResult, ResultsAreRoundedOnceFromExactValues and FloatingPointTrapsAreTaken: 1.0 times 1.0 raises nothing; with the dynamic
modes 4 and 5; 1.0 over 3.0 in FP64 is inexact, and its trap is enabled. -/
theorem witness_floatingPoint : let s := thread [0, 0x3FF0000000000000, 0x3FD5555555555555]
    let dynamic := fun (n : Word) => s.mapArch fun a => { a with fcsr := n * 32 }
    let trapping := s.mapArch fun a => { a with fcsr := 0x1F00 }
    let r := fun (a b : Word) => fpDeliver true .rne (Val.mul (fpVal true a) (fpVal true b))
    s.plain ∧ RMode.ofCode 0 = some .rne ∧ (r (s.x 1) (s.x 1)).2 &&& BitVec.ofNat 5 (s.ctx.arch.fcsr.toNat / 256 % 32) = 0
      ∧ ((dynamic 4).plain ∧ (dynamic 4).ctx.arch.fcsr.toNat / 32 % 8 = 4 ∧ (RMode.ofCode 4).isSome)
      ∧ ((dynamic 5).plain ∧ 5 ≤ (dynamic 5).ctx.arch.fcsr.toNat / 32 % 8)
      ∧ (trapping.plain ∧ (r (s.x 2) (s.x 2)).2 &&& BitVec.ofNat 5 (trapping.ctx.arch.fcsr.toNat / 256 % 32) ≠ 0)
      ∧ (specFp64.value 0x7FF0000000000001).isNan = true ∧ (specFp32.value 0x80000000).isNan = false ∧ (specBf16.value 0x7F80).isNan = false :=
  ⟨⟨rfl, rfl⟩, by decide +kernel, by decide +kernel, ⟨⟨rfl, rfl⟩, by decide +kernel⟩, ⟨⟨rfl, rfl⟩, by decide +kernel⟩,
    ⟨⟨rfl, rfl⟩, by decide +kernel⟩, by decide +kernel⟩

/-- FencesAndChunkComplete: a thread whose chunk may commit and which has no write on a link. -/
theorem witness_fences : let s := thread []
    s.plain ∧ s.canCommit = true ∧ gives (awaitLinks s.commitCur) s.commitCur (fun _ t => t == s.commitCur) = true
      ∧ s.commitCur.linkLost s.commitCur.coreId s.commitCur.cur.2 = none :=
  ⟨⟨rfl, rfl⟩, by decide +kernel⟩

/-- A thread with these watch entries on its core. -/
def watching (l : List Watch) (regs : List Word := []) : State := (thread regs).mapCore 0 fun c => { c with watches := l }

/-- An entry of slot 0 on a virtual line. -/
def entry (e line : Nat) (fired : Bool) : Watch := { entry := e, slot := 0, line := line, fired := fired, reported := false }

/-- WatchesAreArmedReportedAndFreed: no entry; an entry on the line; sixteen of another line; one that has fired. -/
theorem witness_watches :
    let none' := watching []
    let mine := watching [entry 15 0 false]
    let full := watching ((List.range 16).map fun e => { entry e 9 false with slot := 1 })
    let fired := watching [entry 15 0 true]
    let held := fun (s : State) => s.commitCur.myCore.watches.find? fun w => w.slot == s.commitCur.cur.2 && w.line == s.commitCur.lineKey s.commitCur.coreId 0
    (none'.plain ∧ none'.canCommit = true ∧ held none' = none ∧ none'.commitCur.myCore.freeWatch = some 0
        ∧ none'.commitCur.myCore.firedEntry 0 = none ∧ none'.commitCur.myCore.watches.any (·.slot == 0) = false)
      ∧ (mine.plain ∧ mine.canCommit = true ∧ (held mine).isSome = true)
      ∧ (full.plain ∧ full.canCommit = true ∧ held full = none ∧ full.commitCur.myCore.freeWatch = none)
      ∧ (fired.plain ∧ fired.canCommit = true ∧ fired.commitCur.myCore.firedEntry 0 = some 15) :=
  ⟨⟨⟨rfl, rfl⟩, by decide +kernel⟩, ⟨⟨rfl, rfl⟩, by decide +kernel⟩, ⟨⟨rfl, rfl⟩, by decide +kernel⟩, ⟨⟨rfl, rfl⟩, by decide +kernel⟩⟩

/-- HandleInstructionsDoTheirWork: the last 32 bytes of the TCM window, and the field of the highest number. -/
theorem witness_handles : let s := thread [0, tcm + 782304]
    s.plain ∧ ((11 : BitVec 8).toNat ≤ 11) ∧ (∃ p u, placeOf (s.x 1).toNat 32 .load s = .ok (p, u))
      ∧ (∃ r, reserveLines [s.lineKey s.coreId (s.x 1).toNat] s = .ok ((), r) ∧ ∃ p u, placeOf (s.x 1).toNat 32 .store r = .ok (p, u)
          ∧ ¬ (p.kind = kindWo ∧ p.lineKey ∈ u.coh.written)) :=
  ⟨⟨rfl, rfl⟩, by decide, ⟨_, _, rfl⟩, ⟨_, rfl, _, _, rfl, by decide +kernel⟩⟩

/-- NOP at 0x1004, for a machine-level thread without translation that starts at 0x1000. -/
def nopAhead (regs : List Word) : State := { threadAt 3 regs with mem := [(0x1004, 0x67), (0x1006, 0x38)] }

/-- A body of two instructions that the repetition in progress holds, at the second of them. -/
def inBody (count : Word) : Arch :=
  let b := fun (at' : Nat) => { addr := at', len := 4, bits := 0x380067, ins := .nop : BodyIns }
  { (thread []).ctx.arch with inRep := true, status := 256, repBase := 0x1004, repCnt := count, body := [b 0x1004, b 0x1008], pc := 0x1008 }

/-- RepetitionsBeginFollowAndRename: REP with a count of 0 and of 3 before a body of one NOP; at the last body instruction with two passes and with
one to go, and at the first. -/
theorem witness_repetitions :
    let s := nopAhead [0, 3]
    (s.plain ∧ ¬ (s.ctx.arch.inh = true ∧ s.ctx.arch.repAct = true) ∧ s.x 0 = 0 ∧ s.x 1 ≠ 0
      ∧ gives (captureBody 1 (s.ctx.arch.pc + 4).toNat) s (fun b u => b == [{ addr := 0x1004, len := 4, bits := 0x380067, ins := .nop }]
          && decide (u.ctx.chunk.ins + 1 < u.ctx.chunk.maxIns) && u.ctx.arch == s.ctx.arch) = true)
      ∧ (let a := inBody 2
         a.inRep = true ∧ a.repAct = true ∧ (∃ last, a.body.getLast? = some last ∧ last.addr = a.pc.toNat) ∧ 1 < a.repCnt.toNat)
      ∧ (let a := inBody 1
         a.repAct = true ∧ (∃ last, a.body.getLast? = some last ∧ last.addr = a.pc.toNat) ∧ a.repCnt.toNat ≤ 1)
      ∧ (let a := { inBody 1 with pc := 0x1004 }
         a.repAct = true ∧ ∃ last, a.body.getLast? = some last ∧ last.addr ≠ a.pc.toNat) :=
  ⟨⟨⟨rfl, rfl⟩, by decide +kernel⟩, ⟨rfl, by decide +kernel, ⟨_, rfl, by decide +kernel⟩, by decide +kernel⟩,
    ⟨by decide +kernel, ⟨_, rfl, by decide +kernel⟩, by decide +kernel⟩, ⟨by decide +kernel, ⟨_, rfl, by decide +kernel⟩⟩⟩

/-- ControlRegistersAreReadModifiedOrIllegal: a register of each kind (CR_GCT, CR_SCRATCH, CR_STATUS, the privileged ones at either end), at both
levels, and indices that are not listed; CR_CHUNKCTL's group ends the chunk. -/
theorem witness_controlRegisters :
    let s := thread []
    let m := threadAt 3 []
    s.plain ∧ m.plain ∧ s.commitCur.plain ∧ m.commitCur.plain ∧ s.canCommit = true ∧ m.canCommit = true
      ∧ ((s.crRead 0x18).isSome ∧ crReadOnly 0x18 = true) ∧ ((s.crRead 5).isSome ∧ crReadOnly 5 = false ∧ crEndsChunk 5 = false)
      ∧ ((s.crRead 0x70).isSome ∧ (s.crRead 0x76).isSome ∧ (s.crRead 0x20).isSome ∧ crReadOnly 0x70 = false ∧ crReadOnly 0x20 = false
          ∧ crEndsChunk 0x70 = true ∧ s.isUser = true ∧ m.isUser = false)
      ∧ s.crRead 0x77 = none ∧ s.crRead 9 = none ∧ s.crRead 0x0F = none ∧ s.crRead 0x29 = none ∧ s.crRead 0x1FF = none :=
  ⟨⟨rfl, rfl⟩, ⟨rfl, rfl⟩, ⟨rfl, rfl⟩, ⟨rfl, rfl⟩, by decide +kernel⟩

/-- StatusWritesKeepReadOnlyFields: user level and machine level, and a PPRV that is written. -/
theorem witness_statusWrites : (0 : Word).extractLsb' 0 2 = 0 ∧ (3 : Word).extractLsb' 0 2 ≠ 0 ∧ (4 : Word).extractLsb' 2 2 ≠ 2 := by decide

/-- TrapsEnterTheirHandlerOrLysa: a delegated cause at user level, a trap above it, and causes that go to lysa: SYSCALL, a page fault within the
space and one beyond it, and ILLEGAL. -/
theorem witness_traps :
    let s := (thread []).mapCore 0 fun c => { c with k := { c.k with tdeleg := 0xFFFFF } }
    let m := threadAt 3 []
    let u := thread []
    (s.canCommit = true ∧ s.commitCur.prv = 0 ∧ s.commitCur.myCore.k.tdeleg.getLsbD 19 = true ∧ s.commitCur.myCore.k.tdeleg.getLsbD 1 = true
        ∧ s.commitCur.ctx.arch.status.getLsbD 4 = false)
      ∧ (m.canCommit = true ∧ m.commitCur.prv ≠ 0)
      ∧ (u.canCommit = true ∧ u.commitCur.prv = 0 ∧ u.commitCur.delegates 18 = false ∧ u.commitCur.delegates 5 = false ∧ u.commitCur.delegates 1 = false
          ∧ (0x00FFFFFFFFFFFFFF : Word).toNat < 2 ^ 56 ∧ ¬ (0x0100000000000000 : Word).toNat < 2 ^ 56) := by decide +kernel

/-- ReturningGoesBackWhereTheTrapWas: ERET at user level outside a handler, within one, and above user level. -/
theorem witness_returns :
    let u := thread []
    let h := threadAt 16 []
    let m := threadAt 3 []
    (u.plain ∧ u.canCommit = true ∧ u.isUser = true ∧ u.ctx.arch.inh = false)
      ∧ (∀ s ∈ [h, m], s.canCommit = true ∧ (s.isUser = false ∨ s.ctx.arch.inh = true) ∧ s.commitCur.ctx.arch.status.getLsbD 8 = false
          ∧ s.commitCur.ctx.chunk.ins + 1 < s.commitCur.ctx.chunk.maxIns ∧ s.commitCur.ctx.rollbackNotice = none)
      ∧ h.plain ∧ m.plain :=
  ⟨⟨⟨rfl, rfl⟩, by decide +kernel⟩, by decide +kernel, ⟨rfl, rfl⟩, ⟨rfl, rfl⟩⟩

/-- SystemInstructionsComplete: CARVE of 0, 1, 8 and 9 granules, of 1 beside eight other threads, a queued message, and a fired watch. -/
theorem witness_system :
    let s := thread [0, 1, 8, 9]
    let crowd := { s with ctxs := (List.range 8).map fun k => (k + 1, { Context.free with life := .ready }) }
    let mail := s.mapCore 0 fun c => { c with queue := [{ handler := 0, stamp := 0, payload := [], sender := 0, key := .root 0 0 }] }
    let fired := watching [entry 0 0 true]
    (s.plain ∧ s.canCommit = true ∧ (s.x 0).toNat = 0 ∧ 8 < (s.x 3).toNat ∧ (1 ≤ (s.x 1).toNat ∧ (s.x 2).toNat ≤ 8)
        ∧ (s.commitCur.resident s.commitCur.coreId).length ≤ 8 * (s.x 1).toNat ∧ s.isUser = true)
      ∧ (crowd.plain ∧ crowd.canCommit = true ∧ 8 * (crowd.x 1).toNat < (crowd.commitCur.resident crowd.commitCur.coreId).length)
      ∧ (mail.plain ∧ mail.canCommit = true ∧ mail.commitCur.myCore.queue ≠ [])
      ∧ (fired.plain ∧ fired.canCommit = true ∧ fired.commitCur.myCore.queue = [] ∧ fired.commitCur.hasFired fired.commitCur.coreId fired.commitCur.cur.2 = true)
      ∧ ((threadAt 3 []).plain ∧ (threadAt 3 []).canCommit = true ∧ (threadAt 3 []).isUser = false) :=
  ⟨⟨⟨rfl, rfl⟩, by decide +kernel⟩, ⟨⟨rfl, rfl⟩, by decide +kernel⟩, ⟨⟨rfl, rfl⟩, by decide +kernel⟩, ⟨⟨rfl, rfl⟩, by decide +kernel⟩,
    ⟨⟨rfl, rfl⟩, by decide +kernel⟩⟩

/-- StepRunsTheDecodedInstruction: a machine-level thread at a NOP just below the windows, and a thread in a repetition's body. -/
theorem witness_step :
    let s := (threadAt 3 []).mapArch fun a => { a with pc := 0x00FFFEFFFFFFFFFC }
    let b := (thread []).setArch (inBody 2)
    (s.undisturbed ∧ s.ctx.arch.windows = [] ∧ s.ctx.arch.bodyAt = none ∧ s.ctx.arch.pc ≠ 0 ∧ gives (fetchIns s.ctx.arch.pc.toNat) s = true ∧ s.prv = 3
        ∧ s.myCore.plbEn = false ∧ s.myCore.l1i = [] ∧ s.ctx.arch.pc.toNat % 2 = 0 ∧ s.ctx.arch.pc.toNat + 4 ≤ tcmWindow)
      ∧ (b.undisturbed ∧ b.ctx.arch.windows = [] ∧ ∃ x, b.ctx.arch.bodyAt = some x ∧ repForbidden x.ins = false) :=
  ⟨⟨⟨rfl, rfl, ⟨rfl, rfl⟩, by decide +kernel⟩, by decide +kernel⟩, ⟨⟨rfl, rfl, ⟨rfl, rfl⟩, by decide +kernel⟩, by decide +kernel, ⟨_, rfl, by decide +kernel⟩⟩⟩

/-- LookaheadWindowsGuardAndCount: an ADD that reads the destination of an open window. -/
theorem witness_lookahead : let s := (thread []).mapArch fun a => { a with windows := [{ addr := 0x0FFC, dest := .reg 2, left := 1 }] }
    s.plain ∧ s.ctx.arch.windows.find? (s.violates (.add 1 2 3)) = some { addr := 0x0FFC, dest := .reg 2, left := 1 }
      ∧ s.trapsEarly (.add 1 2 3) = false ∧ s.chunkGoesOn :=
  ⟨⟨rfl, rfl⟩, by unfold State.chunkGoesOn; decide +kernel⟩

/-! ### Handles, vectors and the matrix unit -/

/-- Every part of `vectorReady` but the thread's own state, and what follows from the state the reservation leaves. -/
def vectorMeets (s : State) (hd : HReg) (uses needed : List HReg) (needs : List Need) (meets reserves : List Tile) (p : State → Bool) : Bool :=
  gives (checkHandles (hd :: uses)) s (fun _ t => t == s) && !(operandOf s hd).isEmpty && needed.all (fun h => s.hreg h != 0)
    && gives (checkNeeds needs) s (fun _ t => t == s) && gives (awaitCopies meets) s (fun _ t => t == s)
    && gives (reserveWindows reserves) s fun _ r => p r

/-- What `valueMember` asks beyond the thread's own state. -/
def valueMeets (s : State) (hd : HReg) (srcs : List HReg) (needs : List Need) (m : RMode) (f : List (Grid Val) → Nat → Nat → Val × Flags) : Bool :=
  let d := operandOf s hd
  let ts := srcs.map (operandOf s)
  vectorMeets s hd srcs srcs needs (d :: ts) [d] fun r => gives (ts.mapM Tile.readValues) r fun gs u =>
    let out := d.deliver m (mkGrid d.er d.ec (f gs))
    gives (d.store out) u fun _ w => allFlags out.flags &&& BitVec.ofNat 5 (w.ctx.arch.fcsr.toNat / 256 % 32) == 0

/-- h0 and h1: one row of two FP32 elements in TCM; h2: one BF16 element; h3: an INT32 immediate 1; h4: two INT32 elements; h5: a column of two; h6: the
IMM pattern of K = 1 and O = 0; h7: two BF16 elements. -/
def tiles : State := withHandles (thread [])
  [handle 0 0 0 1 2 8, handle 0 0 0x400 1 2 8, handle 0 1 0x800 1 1 2, handle 6 7 1 0 0 0, handle 0 7 0xC00 1 2 8, handle 0 0 0x1000 2 1 4,
   handle 6 7 1 0 0 0, handle 0 1 0x1400 1 2 4]

/-- VectorValueMembersDeliverTheirFunction: members of one, two and three sources, a shift by an immediate, and the ramp. -/
theorem witness_vectorValues : let s := tiles
    let d := operandOf s 0
    let src := fun (h : HReg) => needSrc (operandOf s h) fmtAll (spreads d (operandOf s h))
    s.plain ∧ RMode.ofCode 0 = some .rne
      ∧ valueMeets s 0 [1, 2] [needDst d fmtAll, src 1, src 2] .rne (fun gs i j => Val.add .rne (operand gs 0 i j) (operand gs 1 i j)) = true
      ∧ valueMeets s 0 [1, 1, 2] [needDst d fmtAll, src 1, src 1, src 2] .rne
          (fun gs i j => Val.fma .rne (operand gs 0 i j) (operand gs 1 i j) (operand gs 2 i j)) = true
      ∧ valueMeets s 0 [1, 4] [needDst d fmtPlain, src 1, src 4] .rne
          (fun gs i j => (boolVal (cmpVals .eq (operand gs 0 i j) (operand gs 1 i j)).1, (cmpVals .eq (operand gs 0 i j) (operand gs 1 i j)).2)) = true
      ∧ valueMeets s 0 [7] [needDst d fmtAll, needSrc (operandOf s 7) fmtAll (sameShape d (operandOf s 7))] .rne (fun gs i j => (operand gs 0 i j, 0)) = true
      ∧ valueMeets s 0 [1, 3] [needDst d fmtAll, src 1, needSrc (operandOf s 3) [7] (spreads d (operandOf s 3))] .rne
          (fun gs i j => ((operand gs 0 i j).scale (operand gs 1 i j).toInt, 0)) = true
      ∧ valueMeets s 0 [2, 3] [needDst d fmtAll, needSrc (operandOf s 2) fmtAll (oneElement (operandOf s 2)), needSrc (operandOf s 3) fmtAll (oneElement (operandOf s 3))]
          .rne (fun gs i j => Val.fma .rne (.ofInt (i * d.ec + j : Nat)) (operand gs 1 i j) (operand gs 0 i j)) = true :=
  ⟨⟨rfl, rfl⟩, by decide +kernel⟩

/-- The clauses of the vector statements on members that do nothing: an empty destination, and a null source. -/
theorem witness_idleMembers : let e := withHandles (thread []) [handle 0 0 0 0 2 8, handle 0 0 0x400 1 2 8]
    let n := withHandles (thread []) [handle 0 0 0 1 2 8, 0]
    (e.plain ∧ n.plain) ∧ (operandOf e 0).isEmpty = true ∧ n.hreg 1 = 0
      ∧ ∀ uses ∈ [[(1 : HReg)], [1, 1], [1, 1, 1]], gives (checkHandles (0 :: uses)) e (fun _ t => t == e) = true ∧ gives (checkHandles (0 :: uses)) n (fun _ t => t == n) = true :=
  ⟨⟨⟨rfl, rfl⟩, ⟨rfl, rfl⟩⟩, by decide +kernel⟩

/-- VectorRawMembersMovePatterns: two sources combined, a shift, a selection, a transpose and a broadcast, each with reads and writes that succeed. -/
theorem witness_vectorRaw : let s := tiles
    let d := operandOf s 0
    let raw := fun (h : HReg) => needRaw d (operandOf s h) (spreads d (operandOf s h))
    let reads := fun (hs : List HReg) (r : State) => gives ((hs.map fun h => (operandOf s h).takenIn d).mapM Tile.readAll) r fun _ u =>
      gives (d.writeAll (mkGrid d.er d.ec fun _ _ => 1)) u
    s.plain ∧ vectorMeets s 0 [1, 1] [1, 1] [needDst d fmtRaw, raw 1, raw 1] [d, operandOf s 1] [d] (reads [1, 1]) = true
      ∧ (let e := operandOf s 4
         vectorMeets s 4 [4, 3] [4, 3] [needDst e fmtInt, needRaw e e (spreads e e), needRaw e (operandOf s 3) (spreads e (operandOf s 3))] [e] [e] (fun _ => true) = true)
      ∧ vectorMeets s 0 [1, 1, 7] [1, 1, 7] [needDst d fmtRaw, raw 1, raw 1, needSrc (operandOf s 7) fmtAll (spreads d (operandOf s 7))] [d] [d]
          (fun r => gives (operandOf s 7).readValues r) = true
      ∧ vectorMeets s 0 [1] [1] [needDst d fmtAll, { needSrc (operandOf s 1) [d.fmt] (sameShape d (operandOf s 1)) with cover := true }] [d, operandOf s 1] [d]
          (fun r => gives (operandOf s 1).readAll r && !d.form.isMx) = true
      ∧ vectorMeets s 0 [5] [5] [needDst d fmtRaw, needRaw d (operandOf s 5) ((operandOf s 5).er == d.ec && (operandOf s 5).ec == d.er)] [d] [d] (reads [5]) = true
      ∧ vectorMeets s 0 [1] [1] [needDst d fmtRaw, needRaw d (operandOf s 1) ((operandOf s 1).er == 1 && (operandOf s 1).ec == d.ec)] [d] [d] (reads [1]) = true :=
  ⟨⟨rfl, rfl⟩, by decide +kernel⟩

/-- TreesGathersAndPacksDeliverTheirResult: a reduction of a column's two elements, a scan, a gather by INT32 indices and VPACK with K = 1. -/
theorem witness_trees : let s := tiles
    let one := withHandles (thread []) [handle 0 0 0 1 1 4, handle 0 0 0x400 1 2 8]
    let dO := operandOf one 0
    let aO := operandOf one 1
    let d := operandOf s 0
    s.plain ∧ one.plain
      ∧ vectorMeets one 0 [1] [1] [needDst dO [0], needSrc aO fmtTree (dO.ec == 1 && (aO.isImm || dO.er == aO.er))] [dO, aO] [dO]
          (fun r => gives aO.readValues r fun g u =>
            gives (dO.store (dO.deliver .rne (((mkGrid dO.er aO.ec (gridAt (.zero false) g)).map (reduceLine (addFp32 .rne))).map fun x => [x]))) u) = true
      ∧ vectorMeets s 0 [1] [1] [needDst d [0], needSrc (operandOf s 1) fmtTree (sameShape d (operandOf s 1))] [d] [d] (fun r => gives (operandOf s 1).readValues r) = true
      ∧ vectorMeets s 0 [1, 4] [1, 4] [needDst d fmtRaw, needRaw d (operandOf s 1) true, needIndex (operandOf s 4) (sameShape d (operandOf s 4))] [d] [d] (fun r =>
          gives (forGrid 1 2 (fun i j => attempt ((operandOf s 4).read i j))) r fun idx _ => idx.flatten.all fun e => e matches .ok _) = true
      ∧ vectorMeets s 0 [1, 6] [1, 6] [needDst d fmtRaw, needRaw d (operandOf s 1) ((operandOf s 1).er == d.er),
          { tile := operandOf s 6, spaces := [spImm], fmts := [7], shape := true, cover := false }] [d] [d] (fun _ => true) = true
      ∧ (operandOf s 6).base % 2 ^ 16 ≠ 0 ∧ (operandOf s 6).base / 2 ^ 16 % 2 ^ 16 + ((operandOf s 1).ec - 1) * 1 < d.ec :=
  ⟨⟨rfl, rfl⟩, ⟨rfl, rfl⟩, by decide +kernel⟩

/-- h0: accumulation slot 3 of 32 rows; h1 and h6: B slot 0 of BF16 and of LNS6; h2: an A tile in TCM; h3: MBLD's source; h4: where 32 rows of
FP32 drain to. -/
def matrices : State := withHandles (thread [])
  [handle 4 0 3 32 128 0, handle 3 1 0 128 128 0, handle 0 1 0 32 128 256, handle 0 4 0x2000 128 128 128, handle 0 0 0xA000 32 128 512, 0,
   handle 3 4 0 128 128 0]

/-- The same with the slot EMPTY, or READY, and the B slot loaded. -/
def accumulating (st : AccState) : State :=
  matrices.mapCluster 0 fun u => { u with acc := u.acc.setIfInBounds 3 { state := st, holder := 0, m := 32, k := 0 }, bslots := [(0, 1)] }

/-- MatrixInstructionsAreAccepted: each command's checks pass, with the state that it needs; MWAIT has nothing to wait for. -/
theorem witness_matrixAccepted : let s := matrices
    let c := s.commitCur
    let e := (accumulating .empty).commitCur
    let r := (accumulating .ready).commitCur
    (s.plain ∧ c.plain) ∧ c.keysRise ∧ r.keysRise
      ∧ (s.canCommit = true ∧ c.held (·.matrix) = false ∧ (c.cluster 0).queued 0 false < 2 ∧ (accumulating .empty).canCommit = true)
      ∧ (gives (checkHandles [2, 1]) c (fun _ t => t == c) = true ∧ pairAccepted (operandOf c 2).fmt (operandOf c 1).fmt = true)
      ∧ gives (acceptZero c.matReq 0) c = true ∧ gives (acceptLoad c.matReq 6 3) c = true ∧ gives (acceptMul e.matReq 0 2 1 5 true true true) e = true
      ∧ gives (acceptDrain r.matReq 4 0 true) r = true
      ∧ ((c.cluster 0).queued 0 false = 0 ∧ c.myCore.matFlags &&& BitVec.ofNat 5 (c.ctx.arch.fcsr.toNat / 256 % 32) = 0)
      ∧ ((threadAt 3 []).plain ∧ (threadAt 3 []).isUser = false ∧ (threadAt 3 []).canCommit = true) ∧ s.isUser = true :=
  ⟨⟨⟨rfl, rfl⟩, ⟨rfl, rfl⟩⟩, by unfold State.keysRise; decide +kernel, by unfold State.keysRise; decide +kernel, by decide +kernel, by decide +kernel, by decide +kernel,
    by decide +kernel, by decide +kernel, by decide +kernel, by decide +kernel, ⟨⟨rfl, rfl⟩, by decide +kernel⟩, by decide +kernel⟩

/-- A command of core 0 that MZERO gives. -/
def zeroing (op : MatOp) (remote : Bool) : MatCmd :=
  { id := 0, op := op, core := 0, slot := 0, remote := remote, hd := handle 4 0 3 32 128 0, ha := 0, hb := 0, hc := 0, first := false, last := false
    release := false, aFmt := 1, bFmt := 1, mode := 0 }

/-- A thread that waits at MREM.ZERO, holding a capability for cluster 0 and slot 3 with this tag (the right one, under key 0, was computed outside). -/
def remote (tag : Word) : State :=
  let s := withHandles (tenant []) [handle 4 0 3 32 128 0, 0, 0, BitVec.ofNat 256 ((2 ^ 48 + 8 * 2 ^ 29 + 2 ^ 9 + 2 ^ 5) + tag.toNat * 2 ^ 64)]
  { s with ctx := { s.ctx with life := .waiting, wait := { kind := .remoteCommand, ins := some (.mrem 0 1 2 3 4) } } }

/-- MatrixCommandsExecuteInOrder: a queue of one command, local and remote; a request that the unit accepts and one it refuses; and a command of core 0
that has completed remotely. -/
theorem witness_matrixExecutes :
    let s := thread []
    let queued := fun (r : Bool) => (s.mapCluster 0 fun u => { u with queue := [zeroing .mzero r] }).cluster 0
    let a := remote 0x6F6D69855C029290
    let b := remote 0
    let w := ({ a with ctx := { a.ctx with wait := { a.ctx.wait with a := 8 } } } : State).mapCluster 0 fun u => { u with remoteDone := [(7, 0)] }
    ((queued false).queue = zeroing .mzero false :: [] ∧ (queued true).queue = zeroing .mzero true :: [])
      ∧ (a.cur = (0, 0) ∧ a.ctxs = [] ∧ a.ctx.life = .waiting ∧ a.ctx.wait.kind = .remoteCommand ∧ a.ctx.wait.a = 0
          ∧ a.ctx.wait.ins = some (.mrem 0 1 2 3 4) ∧ (a.hreg 3).toNat / 2 ^ 33 % 64 = 0 ∧ (a.cluster 0).queued 0 true < 2)
      ∧ gives (remoteAccept 0 0 1 2 3 4) a (fun _ t => t.cur == a.cur) = true
      ∧ ((match remoteAccept 0 0 1 2 3 4 b with | .error (.trap c v _) => c == 10 && v == 1 | _ => false) = true)
      ∧ (w.clusters.findSome? (fun p => (p.2.remoteDone.find? fun x => x.1 + 1 == w.ctx.wait.a).map fun x => (p.1, x)) = some (0, (7, 0))
          ∧ w.ctx.rollbackNotice = none ∧ w.ctx.chunk.ins + 1 < w.ctx.chunk.maxIns ∧ w.ctx.arch.inRep = false ∧ w.ctx.cloak.state ≠ .bound) := by decide +kernel

/-! ### Collectives, barriers, transfers and messages -/

/-- A rank that has arrived at an instruction, h0 and h1 its TCM windows of two FP32 elements. -/
def arrivedAt (i : Instr) : State :=
  let s := withHandles (rank []) [handle 0 0 0 1 2 8, handle 0 0 0x400 1 2 8]
  { s with ctx := { s.ctx with life := .waiting, wait := { kind := .collective, ins := some i } } }

/-- CollectivesArriveAndComplete: GSYNC and GRED.MAX of a rank, GSYNC of a thread that is no rank; the same instances complete with their one rank. -/
theorem witness_collectives :
    let s := withHandles (rank []) [handle 0 0 0 1 2 8, handle 0 0 0x400 1 2 8]
    let c := s.commitCur
    let g : GroupIns := { op := 4, md := 0, hd := 0, srcs := [1], la := 0 }
    let completes := fun (i : Instr) (op er ec : Nat) => let w := arrivedAt i
      ((w.kernel? 1 1).map (·.threads)).getD 0 = 1 ∧ w.rankAt 1 1 0 0 = some (0, 0, w.ctx) ∧ w.ctx.arrived w.ctx.arch.collIndex = true
        ∧ ((w.ctx.wait.ins.bind groupIns).map fun g => g.header w.ctx.arch).getD [] = [op, 0, er, ec, 0] ∧ w.lateRanks [(0, 0, w.ctx)] = []
        ∧ w.carveHeld 0 = false ∧ (w.collect [(0, 0, w.ctx)] op 0 er ec 0 matches .ok _) = true
        ∧ w.cur = (0, 0) ∧ w.ctx.chunk.ins + 1 < w.ctx.chunk.maxIns ∧ w.ctx.arch.inRep = false ∧ w.ctx.cloak.state ≠ .bound
    (s.plain ∧ c.plain ∧ (thread []).plain) ∧ (thread []).rankGroup = none
      ∧ (s.canCommit = true ∧ groupIns .gsync = some { op := 6, md := 0, hd := 0, srcs := [], la := 0 } ∧ groupIns (.gredMax 0 1 0) = some g
          ∧ s.rankGroup.isSome = true ∧ (s.rankGroup.bind fun x => x.2.retiredTval) = none ∧ c.held (·.collective) = false
          ∧ gives (checkHandles [0, 1]) c (fun _ t => t == c) = true ∧ (operandOf c 0).isEmpty = false
          ∧ gives (groupChecks g c.ctx.rank 1) c (fun _ t => t == c) = true ∧ gives (checkAccesses g c.ctx.rank) c = true)
      ∧ completes .gsync 6 0 0 ∧ completes (.gredMax 0 1 0) 4 1 2 :=
  ⟨⟨⟨rfl, rfl⟩, ⟨rfl, rfl⟩, ⟨rfl, rfl⟩⟩, by decide +kernel, by decide +kernel, by decide +kernel, by decide +kernel⟩

/-- A thread with this barrier object at its TCM's first bytes, whose address s1 holds; s2 is v. -/
def barred (b : Barrier) (v : Word := 0) : State := (thread [0, tcm, v]).setBytes (tcmLoc 0 0) (leBytes 16 b.toNat)

/-- An armed object in phase 3 with these counts and waiters. -/
def object (pending bytes waiters : Nat) : Barrier :=
  { expected := 2, pending := pending, phase := 3, armed := true, overrun := false, active := true, reserved := 0, bytes := bytes, waiters := waiters, gct := 0 }

/-- What the barrier instructions find at that address, and a test of it. -/
def finds (s : State) (p : Barrier → Bool) : Bool := gives (barrierAt (s.x 1).toNat true) s.commitCur fun x _ => p x.2

/-- BarriersCountAndAnswer: the counts and phases at the edges of each clause, and objects whose counts come to zero, go on, overrun and are unarmed. -/
theorem witness_barriers :
    let s := barred (object 1 0 0) 1
    let n := { object 1 0 0 with armed := false, overrun := false }
    (s.plain ∧ s.commitCur.plain) ∧ s.canCommit = true
      ∧ (finds s (fun o => o.waiters == 0 && !o.unarmed) = true ∧ (s.x 2).toNat % 2 ^ 24 ≠ 0 ∧ (0x1000000 : Word).toNat % 2 ^ 24 = 0)
      ∧ finds (barred (object 1 0 1)) (fun o => o.waiters != 0 && !o.unarmed) = true
      ∧ (finds s (fun o => (o.update 1 0 false 0).isSome && (o.update 2 0 false 0).isNone && (o.update 0 1 true 0).isSome) = true)
      ∧ (finds s (fun o => o.verdict 3 == none && o.verdict 2 == some 0 && o.verdict 4 == some 1) = true
          ∧ s.commitCur.carveHeld s.commitCur.coreId = false)
      ∧ gives (barrierAt (s.x 1).toNat false) s.commitCur (fun x _ => x.2.verdict 3 == none) = true
      ∧ finds (barred n) (fun o => o.unarmed && o.verdict 3 == some 3) = true
      ∧ gives (placeOf (s.x 1).toNat 16 .load) s (fun q _ => q.kind != kindWo) = true ∧ gives (memRead (s.x 1).toNat 16 .load) s = true
      ∧ (fits (object 1 0 0) ∧ fits (object 0xFFFFFF 0xFFFFFFFF 0xFFFF)) ∧ (1 ≤ 1 ∧ 0 + 0 < 2 ^ 32 ∧ 0 < 1 + 0) :=
  ⟨⟨⟨rfl, rfl⟩, ⟨rfl, rfl⟩⟩, by decide +kernel, by decide +kernel, by decide +kernel, by decide +kernel, by decide +kernel, by decide +kernel, by decide +kernel,
    by decide +kernel, by decide +kernel, by unfold fits; decide +kernel, by decide⟩

/-- The shadow fields of a plain copy of 1 KiB within TCM, with this landing record. -/
def shadowOf (landing : Word) : Vector Word 13 :=
  Vector.ofFn fun i : Fin 13 => ([tcm, tcm + 0x4000, 1024, 1024, 1, 1024, 0, 0, landing] : List Word).getD i.val 0

/-- That copy, as core 0 launched it. -/
def copy (st : TransferState) : Transfer :=
  { tid := 1, state := st, slot := 0, owner := 1, domain := 1, knum := 1, group := 0, rank := 0, pc := 0x1000, shadow := shadowOf 0, order := 0, landed := []
    started := [], performed := [], acked := [], tagged := [], waiting := [], cancelAsked := false, ending := 0, faddr := 0, fcause := 0, level := 0 }

/-- A rank of core 0 whose engine remembers these transfers; s1 is the TID 1 and s2 is 2. -/
def copying (l : List Transfer) (landing : Word := 0) : State :=
  ((rank [0, 1, 2]).mapArch fun a => { a with shadow := shadowOf landing }).mapCore 0 fun c => { c with transfers := l, tidSeq := 1 }

/-- TransferInstructionsLaunchAndAsk: a description accepted with and without a landing record, and TIDs the engine knows, in each state, or not. -/
theorem witness_transferInstructions :
    let s := copying []
    let c := s.commitCur
    let l := copying [] (tcm + 0x8000)
    let plan := CopyPlan.ofShadow s.ctx.arch.shadow
    let lands := CopyPlan.ofShadow l.ctx.arch.shadow
    let k := copying [copy .complete]
    let r := copying [copy .inFlight]
    (s.plain ∧ c.plain ∧ l.plain ∧ k.plain ∧ r.plain ∧ k.commitCur.plain)
      ∧ (s.canCommit = true ∧ c.held (·.copy) = false ∧ plan.refused = false ∧ plan.misaligned = none ∧ liveCount c.myCore.transfers < 16
          ∧ plan.landing = 0 ∧ c.ctx.arch.shadow = s.ctx.arch.shadow)
      ∧ (lands.refused = false ∧ lands.misaligned = none ∧ lands.landing ≠ 0
          ∧ gives (unscored (do for (v, i) in (lands.recordImage 2).zipIdx do memWrite (wrap64 (lands.landing + 8 * i : Nat)) 8 v)) l.commitCur
              (fun _ q => gives endChunk q fun _ w => w.coreId == 0) = true)
      ∧ (s.known 0 2 = none ∧ (k.known 0 1).isSome ∧ (k.commitCur.known 0 1).map (·.live) = some false ∧ (r.commitCur.known 0 1).map (·.live) = some true)
      ∧ gives (xwaitTest 0 0x8000000000000001 0) k.commitCur (fun x _ => x matches .inl _) = true :=
  ⟨⟨⟨rfl, rfl⟩, ⟨rfl, rfl⟩, ⟨rfl, rfl⟩, ⟨rfl, rfl⟩, ⟨rfl, rfl⟩, ⟨rfl, rfl⟩⟩, by decide +kernel, by decide +kernel, by decide +kernel, by decide +kernel⟩

/-- TransfersStartLandAndCancel: a launched copy, one in flight whose first chunk can be gathered and landed, and one asked to cancel. -/
theorem witness_transfers :
    let a := copying [copy .launched]
    let t := copy .inFlight
    let b := copying [t]
    let started := b.mapTransfer 0 1 fun t => { t with started := insertN 0 t.started }
    let x := { t with cancelAsked := true }
    (a.transfer? 0 1 = some (copy .launched) ∧ a.switchHolds (copy .launched) = false ∧ ((a.core 0).transfers.filter (·.state == .inFlight)).length < 4)
      ∧ (b.transfer? 0 1 = some t ∧ 1 < t.plan.chunks ∧ t.landed = [] ∧ t.waiting = [] ∧ t.performed = [] ∧ t.ending = 0 ∧ b.links.writes = []
          ∧ t.plan.landing = 0 ∧ t.plan.barrier = 0 ∧ t.landed.length + 1 < t.plan.chunks ∧ b.allCtxs.all (fun x => x.2.2.life != .waiting) = true)
      ∧ (match started.gatherChunk 0 t (t.plan.chunkPlaces 0) with
          | (l, [], u) => linkBytes l == [] && ((((u.crossChunk 0 t 0).putLanding 0 t l).mapTransfer 0 1 fun t => { t with performed := insertN 0 t.performed }).updateObstacle 0 t 0).1.isNone
          | _ => false) = true
      ∧ ((copying [x]).transfer? 0 1 = some x ∧ x.live = true) := by decide +kernel

/-- A rank on core 0 that may send messages of 16 bytes from its TCM; its queue is active and takes handlers below 2^20. -/
def sender : State :=
  ((rank [0, 0x100000, tcm]).mapArch fun a => { a with mcast := tcm }).mapCore 0 fun c => { c with queueMode := .active, k := { c.k with hboundHi := 0x100000 } }

/-- MessagesAreSent: a SEND to core 0 that is taken, one whose handler lies at HBOUND.HI, one to a core that the owner does not hold and one to
lysa; SENDM to core 0; SPAWN's kernel is not pinned. -/
theorem witness_sends :
    let s := sender
    let c := s.commitCur
    let img := List.replicate 16 (0 : Byte)
    let bad := leBytes 8 0x100000 ++ List.replicate 8 (0 : Byte)
    let d : Word := 16 * 2 ^ 16
    let l : Word := 80 * 2 ^ 16 + 512
    s.plain ∧ (validMessage d true 16 ∧ d.getLsbD 9 = false ∧ validMessage l true 80 ∧ l.getLsbD 9 = true ∧ validMessage d false 16)
      ∧ (s.canCommit = true ∧ gives (readWords 2 (s.x 2).toNat) c (fun raw r => raw == img && raw.length == 16 && r.heldBy r.ctx.owner 0 && !r.heldBy r.ctx.owner 511
          && r.planCopy 0 img == .enqueued && r.planCopy 0 bad == .refused && r.myCore.window.isEmpty
          && gives (readWords 8 r.ctx.arch.mcast.toNat) r) = true)
      ∧ gives (readWords 10 (s.x 2).toNat) c (fun raw _ => raw.length == 80) = true
      ∧ ((s.kernel? 1 1).map Kernel.pinned).getD false = false
      ∧ ((List.range 512).filter fun k => (c.core k).owner == c.ctx.owner && (c.core k).knum == c.ctx.knum && c.ctx.knum != 0) = [0] :=
  ⟨⟨rfl, rfl⟩, by unfold validMessage; decide +kernel, by decide +kernel⟩

/-- A copy that core 0 keeps for core 0, never transmitted or due at a tick. -/
def kept (due : Option Nat) : SendEntry :=
  { dst := 0, image := List.replicate 16 0, owner := 1, knum := 1, slot := 0, group := 0, rank := 0, pc := 0x1000, key := .root 0 0, attempts := 1, due := due }

/-- MessagesArriveAndAreDispatched: copies not yet sent, due now and due later; answers of each kind; a queue with an entry to dispatch; a READY context. -/
theorem witness_arrivals :
    let s := sender
    let keeping := fun (d : Option Nat) => s.mapCore 0 fun c => { c with window := [kept d] }
    let q : QueueEntry := { handler := 0x2000, stamp := 0, payload := List.replicate 8 1, sender := 0, key := .task 0 (.root 0 0) 0 }
    let mail := s.mapCore 0 fun c => { c with queue := [q] }
    let lysa := { s with replies := [kept none] }
    let ready := { s with ctxs := [(1, { Context.free with life := .ready, owner := 1, knum := 1 })] }
    (((keeping none).core 0).window[0]? = some (kept none) ∧ ((keeping (some 0)).core 0).window[0]? = some (kept (some 0))
        ∧ ((keeping (some 1)).core 0).window[0]? = some (kept (some 1)) ∧ ((keeping none).die 0).gct = 0)
      ∧ ((keeping none).heldBy 1 0 = true ∧ (thread []).heldBy 1 0 = false ∧ s.probe 0 0 0 = .enqueued ∧ s.probe 0 0x100000 0 = .refused
          ∧ (s.mapCore 0 fun c => { c with queueMode := .closed }).probe 0 0 0 = .nacked)
      ∧ (lysa.replies[0]? = some (kept none) ∧ (kept none).due = none)
      ∧ (mail.dispatchable 0 = some q ∧ mail.freeSlot 0 = some 1 ∧ mail.freeBlock 0 = some 0)
      ∧ ((ready.ctxAt 0 1).life = .ready ∧ (ready.ctxAt 0 1).preempted = false ∧ 7 < 8
          ∧ ∀ x ∈ ready.allCtxs, x.2.1 ≠ 1 → (x.2.2.life = .running ∨ x.2.2.life = .runahead) → x.2.2.issueSlot ≠ 7) := by decide +kernel

/-- A rank of module 0 with port 5 UP to module 3, s1 a carry descriptor and s2 an address, and what its carry slot 0 holds. -/
def carrier (d a : Word) (full : Option Carry := none) : State :=
  (({ rank [0, d, a] with links := { State.reset.links with ports := [(5, { Port.reset with state := .up, peer := some 3, peerPort := 0 })] } } : State)).mapCore 0
    fun c => { c with carries := c.carries.set 0 { full := full, arrivals := [] } }

/-- CarriesAreSentTakenAndAnswered: CARRY with each check failing and with a port to its peer and none; CARRYW with its slot empty, full, and full of
more than fits; an answer of each kind, and a carry to be resent. -/
theorem witness_carries :
    let good : Word := 3 * 2 ^ 48 + 8
    let s := carrier good (tcm + 782328)
    let far := carrier (4 * 2 ^ 48 + 8) tcm
    let w := carrier 0 (tcm + 782328) (some { peer := 3, srcCore := 1, bytes := List.replicate 8 0 })
    let big := carrier 0 (tcm + 782328) (some { peer := 3, srcCore := 1, bytes := List.replicate 16 0 })
    let inside := fun (t : State) (n : Nat) => tcmWindow ≤ (t.x 2).toNat ∧ (t.x 2).toNat + n ≤ tcmWindow + t.tcmSize t.coreId
    (s.plain ∧ far.plain ∧ w.plain ∧ big.plain)
      ∧ (s.canCommit = true ∧ (s.x 1).toNat / 2 ^ 9 % 2 ^ 15 = 0 ∧ (s.x 1).toNat % 512 = 8 ∧ (s.x 1).toNat / 2 ^ 48 ≠ s.links.moduleId ∧ (s.x 2).toNat % 8 = 0
          ∧ inside s 8 ∧ s.commitCur.held (·.link) = false ∧ s.commitCur.choosePort 1 3 0 0 = some 5 ∧ far.commitCur.choosePort 1 4 0 0 = none
          ∧ gives (readWords 1 (s.x 2).toNat) s.commitCur (fun _ u => u.ctx.arch.carryIndex == s.commitCur.ctx.arch.carryIndex) = true)
      ∧ (w.canCommit = true ∧ (w.x 1).toNat < 4 ∧ (w.commitCur.myCore.carry 0).full.isSome = true ∧ inside w.commitCur 8
          ∧ gives (writeWords (List.replicate 8 0) 1 (w.x 2).toNat) w.commitCur (fun _ q => q.canCommit && q.ctx.runahead.isNone && !q.ahead) = true)
      ∧ ((big.commitCur.myCore.carry 0).full.isSome = true ∧ ¬ inside big.commitCur 16)
      ∧ ((carrier 0 tcm).commitCur.myCore.carry 0).full = none :=
  ⟨⟨⟨rfl, rfl⟩, ⟨rfl, rfl⟩, ⟨rfl, rfl⟩, ⟨rfl, rfl⟩⟩, by decide +kernel⟩

/-- A carry from core 1 of module 3 to slot 0 of core 0, and a carry of core 0 that is out, or answered busy. -/
def packet (seq : Nat) : CarryPacket := { peer := 3, port := 5, owner := 1, srcCore := 1, dstCore := 0, dstSlot := 0, seq := seq, bytes := List.replicate 8 0 }

def carrying (st : CarryState) (due : Nat := 0) : LinkWrite :=
  { id := 1, core := 0, slot := 0, owner := 1, knum := 1, group := 0, rank := 0, pc := 0x1000, number := 1, port := 5, peer := 3, dstCore := 0, dstSlot := 0
    seq := 0, bytes := List.replicate 8 0, state := st, attempts := 0, due := due, domain := 0, transfer := none }

/-- CarriesAreSentTakenAndAnswered, the packets: one in turn and one early, at an empty and at a full slot; carries out, busy and due. -/
theorem witness_carryAnswers :
    let s := carrier 0 tcm
    let x : Carry := { peer := 3, srcCore := 1, bytes := [] }
    let full := s.mapCore 0 fun c => { c with carries := c.carries.set 0 { full := some x, arrivals := List.replicate 64 x } }
    let out := fun (w : LinkWrite) => { s with links := { s.links with writes := [w] } }
    ((packet 0).dstCore < 512 ∧ (packet 0).dstSlot < 4 ∧ s.heldBy 1 0 = true ∧ (thread []).heldBy 1 0 = false
        ∧ ((s.core 0).carry 0).full = none ∧ ((s.core 0).carry 0).arrivals = [] ∧ ((full.core 0).carry 0).full ≠ none
        ∧ ¬ ((full.core 0).carry 0).arrivals.length < 64)
      ∧ (((s.links.recvSeq.find? fun x => x.1 == 3 && x.2.1 == 1 && x.2.2.1 == 0).map (·.2.2.2)).getD 0 = (packet 0).seq ∧ 0 < (packet 1).seq
          ∧ packet 1 ∉ s.links.early)
      ∧ (out (carrying .sent)).link? 0 1 = some (carrying .sent) ∧ (out (carrying .busy)).link? 0 1 = some (carrying .busy)
      ∧ (out (carrying .busy 1)).link? 0 1 = some (carrying .busy 1) := by decide +kernel

/-! ### Owner instructions, cloaks and the memory system -/

/-- ReseedsReplaceTheSeed: both forms at both levels, with an ACTIVE owner named by s2 and with none. -/
theorem witness_reseeds :
    let u := tenant [0, 7, 1]
    let m := (threadAt 3 [0, 7, 1]).putOwner owner
    (u.plain ∧ m.plain ∧ (threadAt 3 []).plain) ∧ u.commitCur.keysRise
      ∧ (u.canCommit = true ∧ u.isUser = true ∧ m.canCommit = true ∧ m.isUser = false)
      ∧ (m.commitCur.owner? ((m.x 2).toNat % 2 ^ 16) = some owner ∧ owner.id = (m.x 2).toNat % 2 ^ 16 ∧ owner.state = .active)
      ∧ ((threadAt 3 []).canCommit = true ∧ (threadAt 3 []).commitCur.owner? 0 = none) :=
  ⟨⟨⟨rfl, rfl⟩, ⟨rfl, rfl⟩, ⟨rfl, rfl⟩⟩, by unfold State.keysRise; decide +kernel, by decide +kernel⟩

/-- DrawsExceedancesAndTicketsAreMade: addresses at the edges of the space and the windows; q of 0, 1, 64 and 65; a descriptor whose structure is 8;
an arbiter with a request and one without. -/
theorem witness_draws :
    let s := tenant [0, tcm, 0x00FFFEFFFFFFFF80, 0x0100000000000000]
    let asked := { s with arbRequests := [{ cls := 0x1F83D9AB, arbiter := 5, owner := 1 }] }
    let good := fun (d : Word) => d.toNat % 16 ≤ 7 ∧ d.toNat / 16 % 16 = 0 ∧ d.toNat / 2 ^ 16 % 2 ^ 16 = 0
    let q := fun (d : Word) => d.toNat / 2 ^ 8 % 2 ^ 8
    let points := (List.range 32).map fun j => (s.x 1 + BitVec.ofNat 64 (8 * j)).toNat
    s.plain ∧ s.owner? s.ctx.owner = some owner ∧ owner.id = s.ctx.owner
      ∧ (2 ^ 56 ≤ (s.x 3).toNat ∧ inWindowRegion (s.x 1).toNat = true ∧ (s.x 2).toNat < 2 ^ 56 ∧ inWindowRegion (s.x 2).toNat = false)
      ∧ (good 0x107 ∧ q 0x107 = 1 ∧ q 0x4007 = 64 ∧ ¬ (1 ≤ q 7) ∧ ¬ (q 0x4107 ≤ 64) ∧ ¬ good 0x108)
      ∧ gives (reserveLines (points.map (s.lineKey s.coreId))) s (fun _ r =>
          gives ((List.range 32).forM (fun j => memWrite (s.x 1 + BitVec.ofNat 64 (8 * j)).toNat 8 0) : M Unit) r) = true
      ∧ s.arbRequests = [] ∧ (asked.arbRequests.length = 1 ∧ (∀ x ∈ asked.arbRequests, x.owner < 2 ^ 16) ∧ wfT 0 asked.streams = true) :=
  ⟨⟨rfl, rfl⟩, by decide +kernel⟩

/-- CloaksAreComposedAndReleased: unbound with one more core in the group and with none, inside a handler, beside another thread, and bound. -/
theorem witness_cloaks :
    let s := rank []
    let two := s.putKernel { kernel .running with groups := [{ index := 0, state := .running, cores := [0, 1], retired := [], lost := none }] }
    let handler := (rank []).mapArch fun a => { a with status := 16 }
    let beside := { s with ctxs := [(1, { Context.free with life := .ready })] }
    let bound := { s with ctx := { s.ctx with cloak := { state := .bound, members := [0], lost := false } } }
    let cand := fun (c : State) => (((List.range 7).map fun d => c.coreId / 8 * 8 + (c.coreId % 8 + d + 1) % 8).filter c.eligible).length
    let shared := fun (c : State) => ∃ x ∈ c.allCtxs, x.1 = c.coreId ∧ x.2.1 ≠ c.cur.2 ∧ x.2.2.life ≠ .free ∧ x.2.2.life ≠ .retired
    (s.plain ∧ two.plain ∧ handler.plain ∧ beside.plain ∧ bound.plain)
      ∧ (∀ x ∈ [s, two, handler, beside, bound], x.canCommit = true)
      ∧ (s.commitCur.ctx.cloak.state ≠ .bound ∧ s.commitCur.ctx.handling = none ∧ s.commitCur.ctx.arch.status.getLsbD 4 = false ∧ ¬ shared s.commitCur
          ∧ cand s.commitCur < 2 ^ (1 : BitVec 2).toNat - 1 ∧ 2 ^ (1 : BitVec 2).toNat - 1 ≤ cand two.commitCur)
      ∧ handler.commitCur.ctx.arch.status.getLsbD 4 = true ∧ shared beside.commitCur ∧ bound.commitCur.ctx.cloak.state = .bound :=
  ⟨⟨⟨rfl, rfl⟩, ⟨rfl, rfl⟩, ⟨rfl, rfl⟩, ⟨rfl, rfl⟩, ⟨rfl, rfl⟩⟩, by decide +kernel⟩

/-- A thread of owner 1 at a level, s1 the page at 0x10000 and s2 its size, whose range entry 0 names slot 5 and its CLS table. -/
def ranged (prv : Word) (b : Word := 0x10000) (cls : Byte := 0) : State :=
  let s := ((tenant [0, 0x10000, b]).mapArch fun a => { a with status := prv }).mapCore 0 fun c => { c with rangeBase := 0x30000, plbEn := true }
  let entry := [(0x30002, 1), (0x3000A, 1), (0x30010, 5), (0x30014, 1), (0x30017, 0x80)]
  { mapping s cls entry with slots := [(5, some tableCls)] }

/-- MemorySystemInstructionsAnswerAndLock, all but XLPIN: extents, pages of each kind, range entries and slots as the clauses ask. -/
theorem witness_memorySystem :
    let u := ranged 0
    let m := ranged 3
    let c := u.commitCur
    let v := m.commitCur
    let lock : LockedRegion := { owner := 1, base := 0x10000, size := 65536, data := false, dropped := [] }
    (u.plain ∧ m.plain)
      ∧ (u.canCommit = true ∧ m.canCommit = true ∧ u.isUser = true ∧ m.isUser = false)
      ∧ ((u.x 1).toNat % 65536 = 0 ∧ (u.x 2).toNat ≠ 0 ∧ (u.x 1).toNat + (u.x 2).toNat ≤ 2 ^ 56)
      ∧ (c.locked.any (fun r => r.owner == 1 && r.base == 0x10000) = false
          ∧ ({ u with locked := [lock] } : State).commitCur.locked.any (fun r => r.owner == 1 && r.base == 0x10000) = true)
      ∧ (c.walk 0x10000 = some page ∧ (tenant []).commitCur.walk 0x10000 = none ∧ (ranged 0 0 4).commitCur.walk 0x10000 = some (page 4)
          ∧ (ranged 0 0 3).commitCur.walk 0x10000 = some (page 3) ∧ c.ctx.domain = page.domain ∧ (thread []).ctx.domain ≠ page.domain
          ∧ (c.governing 0x10000).1 = kindCls ∧ ((mapping (tenant [])).commitCur.governing 0x10000).1 ≠ kindCls)
      ∧ (v.walk 0x10000 = some page ∧ (v.rangeEntry v.coreId 0).isSome = true ∧ v.rangeEntry v.coreId 255 = none
          ∧ (v.rangeEntry v.coreId 0).map (·.state) = some 0 ∧ getT none v.slots 5 ≠ none ∧ getT none v.slots 0 = none
          ∧ (v.kindOf 5 = kindSwm ↔ (v.rangeEntry v.coreId 0).map (v.kindOf ·.slot) = some kindSwm))
      ∧ (0x40000 % 2 ^ 52 % 65536 = 0 ∧ 0x40000 / 2 ^ 56 = 0 ∧ hbmDie 0x40000 = 0)
      ∧ (65 % 64 ≠ 0 ∧ 0 % 64 = 0 ∧ 6 % 16 ≤ 6 ∧ 6 < 7 % 16)
      ∧ (v.rangeEntry v.coreId 0).map (·.slot) = some 5
      ∧ (v.replayBatch 1 0 false = none) :=
  ⟨⟨⟨rfl, rfl⟩, ⟨rfl, rfl⟩⟩, by decide +kernel⟩

theorem drop_leBytes (k n v : Nat) : (leBytes n v).drop k = leBytes (n - k) (v / 256 ^ k) := by
  induction k generalizing n v with
  | zero => simp
  | succ k ih =>
    cases n with
    | zero => simp [leBytes]
    | succ n =>
      have h : v / 256 / 256 ^ k = v / 256 ^ (k + 1) := by rw [Nat.div_div_eq_div_mul, Nat.pow_succ, Nat.mul_comm]
      rw [leBytes, List.drop_succ_cons, ih, h, Nat.succ_sub_succ]

theorem take_leBytes_zero (k n : Nat) : ofLeBytes ((leBytes n 0).take k) = 0 := by
  induction k generalizing n with
  | zero => rfl
  | succ k ih =>
    cases n with
    | zero => rfl
    | succ n => simp [leBytes, ofLeBytes, ih]

/-- The image of an INV table of one state, which handles every event and stays; as one number, its byte 0 the lowest. -/
def oneState : List Byte :=
  leBytes 2176 (0x8000000080000000800000008000000080000000800000008000000080000000800000008000000080000000800000 <<< 1024 + 1 <<< 512)

theorem oneState_action (st ev : Nat) (h : 1 ≤ st) : imgAction oneState st ev = 0 := by
  unfold imgAction oneState
  rw [drop_leBytes, Nat.div_eq_of_lt, take_leBytes_zero]
  exact Nat.lt_of_lt_of_le (by decide +kernel : _ < 256 ^ 256) (Nat.pow_le_pow_right (by decide) (by omega))

theorem oneState_unused (st : Nat) (h : 1 ≤ st) : imgAttr oneState st attrUsed = false := by
  by_cases hs : st < 16
  · exact (by decide +kernel : ∀ k, k < 16 → 1 ≤ k → imgAttr oneState k attrUsed = false) st hs h
  · simp [imgAttr, hs]

/-- The checker accepts it. -/
theorem oneState_passes : (checkTable oneState).1 = 0 := by
  have used : ∀ {p : Nat × Nat → Bool}, (∀ ev, ev < 32 → p (0, ev) = false) → (∀ st ev, 1 ≤ st → p (st, ev) = false) → (entryGrid 32).find? p = none := by
    intro p h0 h1
    refine List.find?_eq_none.mpr fun e he => ?_
    obtain ⟨st, hst, hev⟩ := List.mem_flatMap.mp he
    obtain ⟨ev, hlt, rfl⟩ := List.mem_map.mp hev
    cases st with
    | zero => simp [h0 ev (List.mem_range.mp hlt)]
    | succ st => simp [h1 (st + 1) ev (by omega)]
  unfold checkTable
  rw [if_neg (by decide +kernel), used (by decide +kernel) (fun st ev h => by simp [unhandled, oneState_action st ev h, oneState_unused st h])]
  dsimp only
  rw [used (by decide +kernel) (fun st ev h => ?_)]
  dsimp only
  rw [used (by decide +kernel) (fun st ev h => by simp [lostDirty, oneState_unused st h])]
  have : (imgAttr oneState st attrExcl && imgAttr oneState st attrShared) = false := by
    by_cases hs : st < 16
    · exact (by decide +kernel : ∀ k, k < 16 → (imgAttr oneState k attrExcl && imgAttr oneState k attrShared) = false) st hs
    · simp [imgAttr, hs]
  simp [this, twoWriters, oneState_unused st h]

/-- MemorySystemInstructionsAnswerAndLock, PLOAD: that image in memory, and one that fails at the header. -/
theorem witness_pload : let s := { threadAt 3 [] with mem := (0x80, 1) :: (List.range 12).map fun k => (0xC2 + 4 * k, 0x80) }
    s.plain ∧ s.canCommit = true ∧ s.isUser = false ∧ (∀ i, i < 256 → (s.commitCur.rangeEntry 0 i).map (·.slot) ≠ some 7)
      ∧ gives (readWords 272 0x40) s.commitCur (fun img _ => img == oneState) = true
      ∧ (checkTable oneState).1 = 0 ∧ (checkTable (leBytes 2176 0xFF)).1 ≠ 0 :=
  ⟨⟨rfl, rfl⟩, by decide +kernel, by decide +kernel, by decide +kernel, by decide +kernel, oneState_passes, by decide +kernel⟩

/-- MemorySystemInstructionsAnswerAndLock, XLPIN: an extent that may be locked, with room and with sixteen regions; a page that is not mapped; quotas. -/
theorem witness_xlpin :
    let s := ranged 0
    let c := s.commitCur
    let lock := fun (k : Nat) => ({ owner := 1, base := 0x100000 + k * 65536, size := 65536, data := false, dropped := [] } : LockedRegion)
    let full := { s with locked := (List.range 16).map lock }
    let above := { s with locked := [{ lock 0 with base := 0x8000, size := 65536 }] }
    let mine := fun (t : State) => t.locked.filter (·.owner == t.ctx.owner)
    (s.plain ∧ full.plain ∧ above.plain ∧ (tenant [0, 0x10000, 0x10000]).plain)
      ∧ (s.canCommit = true ∧ 0x10000 % 65536 = 0 ∧ 0x10000 + 0x10000 ≤ tcmWindow ∧ (mine c).length < 16 ∧ 16 ≤ (mine full.commitCur).length
          ∧ (∀ r ∈ mine full.commitCur, ¬ (r.base < 0x20000 ∧ 0x10000 < r.base + r.size))
          ∧ ∃ r ∈ mine above.commitCur, r.base < 0x20000 ∧ 0x10000 < r.base + r.size)
      ∧ (c.pinFaults 0x10000 0x10000 = none ∧ (c.pinFaults 0x20000 0x10000).isSome = true ∧ c.ahead = false ∧ c.owner? c.ctx.owner = some owner)
      ∧ ((c.leaves 0x10000 0x10000).length ≤ 128 * popcount owner.dirWays ∧ c.lockedAt 1 0 = 0
          ∧ 128 * popcount ({ owner with dirWays := 0 } : Owner).dirWays < (c.leaves 0x10000 0x10000).length) :=
  ⟨⟨⟨rfl, rfl⟩, ⟨rfl, rfl⟩, ⟨rfl, rfl⟩, ⟨rfl, rfl⟩⟩, by decide +kernel⟩

/-! ### Waits, fault batches and requests -/

/-- A thread that waits for this until tick 0. -/
def waiting (k : WaitKind) (ins : Option Instr := none) : State :=
  let s := rank []
  { s with ctx := { s.ctx with life := .waiting, wait := { kind := k, ins := ins, deadline := some 0 } } }

/-- WaitsEndAndChunksCommit: deadlines that have passed and not, a collective whose rank 1 is missing, a parked SYSCALL, an ended chunk with one write, and
a packed store. -/
theorem witness_waits :
    let later := { waiting .sleep with dies := [] , ctx := { (waiting .sleep).ctx with wait := { kind := .sleep, deadline := some 1 } } }
    let g := { waiting .collective (some .gsync) with kernels := (rank [] .running 2).kernels }
    let p := { rank [] with ctx := { (rank []).ctx with life := .parked, wait := { kind := .syscall } } }
    let w := (rank []).mapChunk fun c => { c with writes := [(7, some 9)], full := true }
    let c := { rank [] with ctx := { (rank []).ctx with life := .waiting, wait := { kind := .commit } } }
    let st : PackedStore := { core := 0, loc := 7, mask := 0x0F, value := 0xFF }
    ((∀ k ∈ [WaitKind.sleep, .wfi, .xwait, .carryw, .bwait], (waiting k).ctx.life = .waiting ∧ (waiting k).ctx.wait.kind = k)
        ∧ (waiting .sleep).ctx.wait.deadline = some 0 ∧ 0 ≤ ((waiting .sleep).die 0).gct)
      ∧ ¬ 1 ≤ (later.die 0).gct
      ∧ (g.ctx.wait.kind = .collective ∧ g.ctx.wait.ins = some .gsync ∧ ((g.kernel? 1 1).map (·.threads)).getD 0 = 2 ∧ g.rankAt 1 1 0 1 = none
          ∧ g.rankAt 1 1 0 0 = some (0, 0, g.ctx) ∧ g.ctx.arrived g.ctx.arch.collIndex = true)
      ∧ (p.cur = (0, 0) ∧ p.ctx.life = .parked ∧ p.ctx.wait.kind = .syscall ∧ p.ctx.preempted = false ∧ p.ctx.rollbackNotice = none)
      ∧ (w.ctx.life ≠ .runahead ∧ w.ctx.life ≠ .free ∧ w.ctx.chunk.full = true ∧ Memory.wf w.mem = true ∧ wfT none w.ctx.chunk.writes = true
          ∧ w.ctx.chunk.swmLines = [] ∧ w.ctx.chunk.parts = [] ∧ w.ctx.chunk.tags = [] ∧ w.coh.marks = [] ∧ w.coh.swm = [])
      ∧ (c.cur = (0, 0) ∧ c.ctx.life = .waiting ∧ c.ctx.wait.kind = .commit ∧ c.ctx.chunk.full = false ∧ c.canCommit = true)
      ∧ ({ rank [] with packed := [st] } : State).packed.find? (·.core == 0) = some st := by decide +kernel

/-- A batch of owner 1 with one record of this address and flags; its log at 0x50000 has room for `size` records. -/
def batch (written : Bool) (va flags : Nat) : Batch :=
  { owner := 1, id := 1, core := 0, records := [{ va := va, kind := 0, flags := flags, who := 0, knum := 1, aux := 0 }], ctxs := [(0, 1)], transfers := []
    written := written, counted := false, forwarded := false, ended := false }

def logging (b : Batch) (size : Byte) (driver : Option Nat := none) : State :=
  let s := (mapping (tenant []) 0 (if size = 0 then [] else [(0x50000, size)])).putOwner { owner with flogBase := 0x50000, driver := driver }
  { s with batches := [b], ctxs := [(1, { Context.free with life := .parked, owner := 1, wait := { kind := .faultBatch, a := 1 } })] }

/-- FaultBatchesAreWrittenAndServed: a log with room for one record and for none; records that can be served, that the host serves, that cannot. -/
theorem witness_batches :
    let first := fun (b : Batch) => b.records.head?
    let ok := fun (b : Batch) (s : State) => (first b).map (s.servable ·) = some true
    (let b := batch false 0x10000 0
     let s := logging b 1
     let t := logging b 0
     s.batch? 1 1 = some b ∧ s.natAt 0x50000 4 = 1 ∧ s.natAt 0x50004 4 = 0 ∧ s.natAt 0x50008 4 = 0 ∧ b.written = false ∧ t.batch? 1 1 = some b
       ∧ t.natAt 0x50000 4 < 0 + b.records.length ∧ b.counted = false)
      ∧ (let b := batch true 0x10000 0
         let s := logging b 1
         s.batch? 1 1 = some b ∧ ok b s ∧ b.forwarded = false ∧ ¬ (∃ r ∈ b.records, r.flags / 2 % 2 = 1)
           ∧ (s.ctxAt 0 1).waitsOn 1 1 = true ∧ (s.ctxAt 0 1).preempted = false)
      ∧ (let b := batch true 0x10000 2
         ok b (logging b 1) ∧ (∃ r ∈ b.records, r.flags / 2 % 2 = 1) ∧ ((logging b 1).owner? 1).bind (·.driver) = none
           ∧ ((logging b 1 (some 9)).owner? 1).bind (·.driver) = some 9)
      ∧ (let b := batch true 0x20000 0
         (first b).map ((logging b 1).servable ·) = some false) := by decide +kernel

/-- The running module with one Ultra Ethernet port UP, owner 1, its page at 0x10000 with these bytes in it (at 0x20000), and these kernels. -/
def serving (bytes : List Host.Cell) (kernels : List Kernel := []) : State :=
  let s := (mapping (thread []) 0 bytes).putOwner owner
  let t := { s with platform := { s.platform with stage := 6 }, links := { s.links with ports := [(96, { Port.reset with state := .up })] } }
  kernels.foldl (fun u k => u.putKernel k) t

/-- The bytes of `node` that are not 0. -/
def nodeCells : List Host.Cell := [(0x20002, 1), (0x20058, 1), (0x20068, 9), (0x20069, 8), (0x20078, 1)]

def asking (op : Nat) (rcb : Nat := 0x10000) : Request := { request op with rcb := rcb }

/-- Bytes of the page at 0x10000, as lysa reads them for owner 1. -/
theorem reads_page {u : State} {n : Nat} {d : List Byte} (hn : n ≤ 256) (hw : u.walk 0x10000 = some page)
    (hd : (List.range n).map (fun i => u.byteAt (0x20000 + i)) = d) : u.ownerRead owner.domain n 0x10000 = .ok d := by
  have w : ∀ i < n, inWindowRegion (0x10000 + i) = false := fun i hi =>
    (by decide +kernel : ∀ i < 256, inWindowRegion (0x10000 + i) = false) i (Nat.lt_of_lt_of_le hi hn)
  have f : page.frame = 0x20000 := rfl
  have v : page.va = 0x10000 := rfl
  rw [ownerRead_page hw (by decide +kernel) rfl (by decide) (by decide) n (Nat.le_trans (Nat.add_le_add_left hn _) (by decide)) w (Nat.le_of_eq v), ← hd, f, v]
  exact congrArg Except.ok (List.map_congr_left fun i _ => by rw [Nat.add_sub_cancel_left])

/-- The chain of a launch whose node lies at 0x10000. -/
theorem witness_chain : ((serving nodeCells).takeRequest (asking 1)).readChain owner.domain 8 0x10000 [] = some [{ node with addr := 0x10000 }] := by
  unfold State.readChain
  rw [if_neg (by decide), reads_page (d := node.bytes) (by decide) (by decide +kernel) (by decide +kernel)]
  decide +kernel

/-- KernelRequestsAreAnswered: a host that may ask and one that may not; a chain that can be read, cannot, breaks R158, and fits never; a TAG that is
used and one that is free; kernels in the states that a request asks for; an OP that nothing has. -/
theorem witness_kernelRequests :
    let s := serving nodeCells
    let r := asking 1
    let big := node.bytes.take 120 ++ leBytes 2 9 ++ node.bytes.drop 122
    let chain := fun (t : State) (rcb : Nat) => (t.takeRequest (asking 1 rcb)).readChain owner.domain 8 rcb []
    let fits := fun (b : List Byte) =>
      let c := [{ node with bytes := b }]
      ((kernelOf owner r c).refused c, (kernelOf owner r c).neverFits owner)
    let held := fun (st : KernelState) => serving nodeCells [kernel st]
    ((s.owner? 1 = some owner ∧ owner.state ≠ .retired ∧ owner.cred = r.cred) ∧ ¬ owner.cred = 1)
      ∧ ((∀ x ∈ s.chainReads owner.domain 8 r.rcb, s.openAt owner.domain x.1 x.2 = none) ∧ (s.takeRequest r).tagged 1 5 = none ∧ ((held .running).takeRequest r).tagged 1 5 = some (kernel .running)
          ∧ chain s 0x20000 = none)
      ∧ (fits node.bytes = (false, false) ∧ (fits (leBytes 256 0)).1 = true ∧ fits big = (false, true))
      ∧ (((held .preempted).takeRequest r).tagged 1 5).map (·.state) = some .preempted
      ∧ ((asking 3).mflags % 2 = 0 ∧ ({ asking 3 with mflags := 1 } : Request).mflags % 2 = 1 ∧ ¬ (1 ≤ 99 ∧ 99 ≤ 4) ∧ ¬ (20 ≤ 99 ∧ 99 ≤ 25) ∧ ¬ (16 ≤ 99 ∧ 99 ≤ 19)) := by decide +kernel

/-- No request about that owner's kernel of TAG 5 waits. -/
def free (s : State) : Prop := (s.stopWaits 1 || ((s.tagged 1 5).map s.seamBars).getD false) = false

theorem waits_not {s : State} {r : Request} (h : (s.stopWaits r.owner || ((s.tagged r.owner r.tag).map s.seamBars).getD false) = false) :
    s.preemptWaits r = false := by rw [State.preemptWaits, h, Bool.and_false]

/-- Lysa takes any request of that host. -/
theorem witness_taken (op : Nat) : taken (serving nodeCells) (asking op) op :=
  ⟨rfl, by decide +kernel, by decide +kernel, waits_not (r := asking op) (by unfold free; decide +kernel : free (serving nodeCells)), (by decide : 7 < 65536), ⟨0, by decide, by decide +kernel⟩, rfl⟩

/-- The module with a descriptor at 0x10000 and a SWM table in slot 0, its request taken. -/
def described (cells : List Host.Cell) : State := { serving cells with slots := [(0, some { kind := 0, init := 0, attr := [], action := [] })] }

def asked (cells : List Host.Cell) : State := ((described cells).takeRequest (asking 20)).noteDriver owner (asking 20)

def mapCells : List Host.Cell := [(0x20002, 2), (0x2000A, 1), (0x20010, 7), (0x20011, 1)]

def extentCells : List Host.Cell := [(0x20002, 1), (0x2000A, 1)]

/-- A list of one range at 0x10040, and its entry. -/
def listCells : List Host.Cell := [(0x20000, 0x40), (0x20002, 1), (0x20008, 1), (0x20042, 2), (0x2004A, 1)]

def padded (d : List Byte) : List Byte := d ++ List.replicate (64 - d.length) 0

/-- What lysa reads for MAP, for the requests on an extent, for RANGES and for FAULTANS. -/
theorem witness_descriptors :
    (asked mapCells).ownerRead owner.domain 64 0x10000 = .ok (padded (leBytes 8 0x20000 ++ leBytes 8 65536 ++ [7, 1]))
      ∧ (asked extentCells).ownerRead owner.domain 64 0x10000 = .ok (padded (leBytes 8 0x10000 ++ leBytes 8 65536))
      ∧ (asked listCells).ownerRead owner.domain 64 0x10000 = .ok (padded (leBytes 8 0x10040 ++ leBytes 8 1))
      ∧ (asked [(0x20000, 1)]).ownerRead owner.domain 64 0x10000 = .ok (padded [1]) :=
  ⟨reads_page (by decide) (by decide +kernel) (by decide +kernel), reads_page (by decide) (by decide +kernel) (by decide +kernel),
    reads_page (by decide) (by decide +kernel) (by decide +kernel), reads_page (by decide) (by decide +kernel) (by decide +kernel)⟩

/-- MemoryRequestsAndRdmaTakeEffect: MAP over an extent that is not mapped, without a frame; UNMAP, POPULATE and WINDOW over the mapped page; RANGES with one
entry; FAULTANS for no batch. -/
theorem witness_memoryRequests :
    let p := asked mapCells
    let entry := padded (leBytes 8 0x20000 ++ leBytes 8 65536)
    let u := asked extentCells
    ((described mapCells).owner? 1 = some owner ∧ (asking 20).rcb % 64 = 0 ∧ (p.owner? 1).isSome = true
        ∧ p.leaves 0x20000 65536 = [] ∧ p.leaves 0x10000 65536 = [page]
        ∧ ((pagesOver 0x20000 65536 (2 ^ 30)).foldlM (fun (t : State) x => t.mapPage owner (padded (leBytes 8 0x20000 ++ leBytes 8 65536 ++ [7, 1])) x.1 x.2) p).isSome = true)
      ∧ (([page].foldlM (fun (t : State) l => t.present l false true) u).isSome = true ∧ (u.unmapLeaves [page] 0x10000 65536).isSome = true)
      ∧ (descExtent (entry.take 32) = true ∧ descField (entry.take 32) 16 1 ≤ 6 ∧ descTail (entry.take 32) 17 = false
          ∧ ((asked listCells).applyRanges owner (entry.take 32) 1).1 = 0)
      ∧ u.replayBatch 1 1 false = none := by decide +kernel

/-- MemoryRequestsAndRdmaTakeEffect, RDMA: the last byte of a page inside a window that gives both rights, and one past it. -/
theorem witness_rdma :
    let o := { owner with windows := [(0, 0x10000, 0x10000, 3)] }
    let w := (serving []).putOwner o
    w.platform.stage = 6 ∧ w.hostReachable = true ∧ w.owner? 1 = some o
      ∧ w.walk 0x1FFFF = some page ∧ page.cls ≠ clsMigrating ∧ page.cls ≠ clsPoisoned ∧ page.p = true ∧ page.frame < 2 ^ 51 ∧ (page.rightsOf o.domain &&& 2) = 2
      ∧ (page.rightsOf o.domain &&& 4) = 4 ∧ packetParts 0x1FFFF 1 = [(0x1FFFF, 1)] ∧ w.openAt o.domain 0x1FFFF 1 = none ∧ w.walk 0x20000 = none := by
  decide +kernel

/-! ### Owners, kernels, homes, seams, repair, ports and the platform -/

/-- OwnersAreAdministered: a host with the credential of the administrator and one without (it is free), a record that keeps R244 and one that does not, an
owner of its own and one that clashes, an owner that is CREATED, one that retires, a kernel with a domain and without. -/
theorem witness_owners :
    let s := (serving []).putOwner { owner with kmax := List.replicate 8 2 }
    let other := leBytes 8 0x20002 ++ leBytes 8 0 ++ leBytes 8 2 ++ leBytes 32 2 ++ leBytes 4 0x20002 ++ leBytes 4 0 ++ leBytes 64 2 ++ List.replicate 8 2 ++ leBytes 56 0
    let clashing := leBytes 8 0x20002 ++ leBytes 8 0 ++ leBytes 8 1 ++ leBytes 32 1 ++ leBytes 4 0x10001 ++ leBytes 4 0 ++ leBytes 64 1 ++ List.replicate 8 2 ++ leBytes 56 0
    let used := fun (b : List Byte) => s.allOwners.any fun x => x.id == (ownerOf b).id || x.domain == (ownerOf b).domain
    let clash := fun (b : List Byte) => s.allOwners.any (fun x => x.overlaps (ownerOf b)) || s.namesSpared (ownerOf b) || oversharing (s.allOwners ++ [ownerOf b])
    let k := serving [] [kernel .running]
    let found := (k.enterDomain (kernel .running)).map (·.2)
    (recordBad other = false ∧ recordBad [] = true ∧ (asking 16 0).rcb = 0 ∧ ¬ (asking 16).rcb = 0)
      ∧ (used other = false ∧ used clashing = false ∧ used record = true ∧ clash other = false ∧ clash clashing = true)
      ∧ ((s.allocLysa (2 ^ 22)).isSome = true ∧ (ownerOf other).state = .created)
      ∧ ((serving []).owner? 1 = some owner ∧ owner.state ≠ .created ∧ (s.putOwner { owner with state := .created }).owner? 1 = some { owner with state := .created })
      ∧ (owner.retire = none ∧ s.owner? 2 = none ∧ s.liveKernels 1 = []
          ∧ (s.putOwner { owner with retire := some (asking 17) }).owner? 1 = some { owner with retire := some (asking 17) })
      ∧ (s.tagged 1 5 = none ∧ k.tagged 1 5 = some (kernel .running) ∧ k.domains.find? (fun d => d.owner == 1 && d.root == 1) = none
          ∧ found.map (fun u => (u.tagged 1 5 == some (kernel .running), (u.domains.find? (fun d => d.owner == 1 && d.root == 1)).map (·.peers))) = some (true, some [])) := by
  decide +kernel

theorem witness_administrator (op : Nat) :
    let r := { asking op with cred := Config.adminCred }
    r.cred = Config.adminCred ∧ r.source = .host 7 ∧ taken (serving []) r op ∧ taken (serving [] [kernel .running]) r op := by
  refine ⟨rfl, rfl, ⟨rfl, ?_, ?_, waits_not (?_ : free (serving [])), by decide, ⟨0, by decide, ?_⟩, rfl⟩, rfl, ?_, ?_,
      waits_not (?_ : free (serving [] [kernel .running])), by decide, ⟨0, by decide, ?_⟩, rfl⟩ <;>
    first | decide +kernel | (unfold free; decide +kernel)

/-- KernelsArePlacedAndPreempted: a queued kernel that can be placed, one for which seven cores must be freed, and one that was pre-empted for priority with
its core held and with it given back. -/
theorem witness_placement :
    let q := { kernel .queued with held := [], groups := [] }
    let s := serving [] [q]
    let big := { q with gcores := 8, prio := 1, chain := q.chain.map fun n => { n with cores := 8 } }
    let low := { kernel .running with knum := 2 }
    let v := (serving [] [big, low]).mapCore 0 fun c => { c with owner := 1, domain := 1, knum := 2 }
    let p := { kernel .preempted with forPriority := true }
    let away := { p with held := [] }
    let ready := fun (u : State) (k : Kernel) => u.kernel? 1 1 = some k ∧ u.owner? 1 = some owner ∧ k.state = .queued ∧ owner.state = .active ∧ u.turn k owner = true
    (ready s q ∧ (s.placement q owner).map (fun x => (x.1.map (·.cores), x.2)) = some ([[5]], [5]) ∧ s.withinBudget q 1 = true ∧ s.imageOpen q owner = none
        ∧ (s.enterDomain q).map (·.1) = some 1 ∧ q.tcmLen = 0 ∧ q.spadLen = 0)
      ∧ (ready v big ∧ v.placement big owner = none ∧ v.victims big owner = some [low] ∧ s.withinBudget q 2 = false
          ∧ ∀ j ∈ v.allKernels, ¬ (j.owner = 1 ∧ j.state = .preempted ∧ j.forPriority = true ∧ j.held ≠ []))
      ∧ ((serving [] [p]).kernel? 1 1 = some p ∧ p.state = .preempted ∧ p.forPriority = true ∧ p.held ≠ [])
      ∧ ((serving [] [away]).kernel? 1 1 = some away ∧ away.held = [] ∧ (serving [] [away]).canFill away = true ∧ (serving [] [away]).firstSpilled away = true)
      ∧ q.args.length = 8 := by decide +kernel

/-- A kernel's thread placed by `witness_placement` runs. -/
theorem witness_placed :
    let q := { kernel .queued with held := [], groups := [] }
    gives (fun s => .ok ((), nextOf s (exec (.kernelPlacement 1 1) s))) (serving [] [q])
      (fun _ t => (t.kernel? 1 1).map (·.state) == some .running && (t.ctxAt 5 0).life == .ready) = true := by decide +kernel

/-- The table INV in slot 0, and line 4 held by these cores. -/
def home (holders : List Nat) (busy : List Busy := []) (msgs : List ProtoMsg := []) : State :=
  let s := thread []
  { s with slots := [(0, some tableInv)]
           coh := { s.coh with holders := (if holders = [] then [] else [(4, holders)]), busy := busy, msgs := msgs
                               dir := (if holders = [] then [] else [(4, some { state := 1, sharers := 1, owner := none })]) } }

/-- HomesAndDiesAnswerEvents: a line nothing holds, one that core 0 holds, one that is busy; messages of every kind that a die answers; the last answer with an
event queued behind it; a forward mark, a lease that has ended and one that has not, a page of another class. -/
theorem witness_homes :
    let m := fun (k : Nat) => ({ kind := k, line := 4, die := 0, req := 0 } : ProtoMsg)
    let b : Busy := { line := 4, answers := 1, data := false, req := 0 }
    let asked := fun (k : Nat) => (home [] [b] [m k]).coh.msgs.find? (fun x => decide (x.die = 0 ∧ x.line = 4 ∧ (x.kind = k ∨ (k = 6 ∧ x.kind = 17) ∨ (k = 17 ∧ x.kind = 6))))
    let s := home []
    let marked := { s with coh := { s.coh with marks := [(4, some { core := 0, placed := 0, vline := 4 })], stale := [(4, some [1, 2])] } }
    let leased := fun (t : Nat) => ({ s with coh := { s.coh with leases := [(4, some t)] } } : State)
    (s.tableOf 0 4 = some tableInv ∧ s.coh.busy = [] ∧ (∀ ev ∈ [0, 1, 5, 6], tableInv.action.getD ev 0 / 2 ^ 23 % 2 = 1) ∧ ¬ (∃ k ∈ getT [] s.coh.holders 4, k / 128 = 0))
      ∧ ((∃ k ∈ getT [] (home [0]).coh.holders 4, k / 128 = 0) ∧ (getT none (home [0]).coh.dir 4).map (·.owner) = some none ∧ tableInv.attr.getD 3 0 / 2 % 2 = 1 ∧ (getT [] (home [0]).coh.holders 4).headD 0 = 0
          ∧ (getT none (home [0]).coh.dir 4).isSome = true ∧ (∃ x ∈ (home [0] [b]).coh.busy, x.line = 4))
      ∧ (∀ k ∈ [1, 2, 3, 4, 5, 6, 16, 17], asked k = some (m k))
      ∧ ((home [] [b]).coh.busy = [b] ∧ 1 ≤ b.answers ∧ ({ b with answers := b.answers - 1 } : Busy).answers = 0)
      ∧ (getT none marked.coh.marks 4 = some { core := 0, placed := 0, vline := 4 } ∧ getT none marked.coh.stale 4 = some [1, 2] ∧ Memory.wf marked.mem = true)
      ∧ (getT none (leased 1).coh.leases (0 * 2 ^ 64 + 4) = some 1 ∧ (s.die 0).gct < 1 ∧ getT none (leased 0).coh.leases (0 * 2 ^ 64 + 4) = some 0 ∧ 0 ≤ (s.die 0).gct)
      ∧ ((mapping (thread []) 1).walk 0x10000 = some (page 1) ∧ (page 1).cls = 1 ∧ (mapping (thread []) 0).walk 0x10000 = some (page 0)) := by decide +kernel

/-- Domain 1 of owner 1, whose root is kernel 1, in a state. -/
def domain (st : SeamState) (triggered : Bool := false) (undo : List UndoEntry := []) : SeamDomain :=
  { id := 1, owner := 1, root := 1, seq := 0, state := st, lastTag := 0, nextTag := 5, interval := 0, logFull := 1, began := 0, undo := undo, logBase := 0, capacity := 256
    checkpoint := { kernels := [], requests := [], swm := [], written := [], ctxs := [], cores := [], clusters := [] }, inputs := [], triggered := triggered, pending := none, peers := [], ready := [] }

def sealing (d : SeamDomain) (k : Kernel := { kernel .running with seamDomain := 1 }) : State := { (tenant []).putKernel k with domains := [d] }

/-- SeamsCommitAndRollBack: a thread in a domain and one in none; an interval that has ended, a log that is full, a domain that may commit, one that waits
for a victim to be stored, one that rolls back; a notice to be delivered, held and dropped; errors on a line that the log holds, in a page and held by a core. -/
theorem witness_seams :
    let s := sealing (domain .opened)
    let entry : UndoEntry := { line := 4, owner := 1, va := none, old := List.replicate 128 7 }
    let timed := sealing { domain .opened with interval := 1 }
    let busy := fun (k : Kernel) => k.state = .preempted ∧ k.forPriority = true ∧ k.held ≠ []
    let victim := { kernel .preempted with forPriority := true, seamDomain := 1 }
    let noted := fun (status : Word) (deleg : Word) =>
      let u := (thread []).mapCore 0 fun c => { c with k := { c.k with tdeleg := deleg } }
      { u with ctx := { u.ctx with rollbackNotice := some 9, arch := { u.ctx.arch with status := status } } }
    let paged := mapping (thread [])
    let cached := { paged with coh := { paged.coh with holders := [(512, [0])] } }
    (s.plain ∧ s.canCommit = true ∧ s.commitCur.domain? s.commitCur.mySeam = some (domain .opened) ∧ s.commitCur.plain ∧ (thread []).commitCur.domain? (thread []).commitCur.mySeam = none)
      ∧ (s.domain? 1 = some (domain .opened) ∧ ¬ (1 ≠ 0 ∧ 0 + 1 ≤ (timed.die 0).gct)
          ∧ 256 * 1 ≤ 256 * (domain .opened false [entry]).undo.length ∧ (domain .opened false [entry]).undo ≠ [])
      ∧ ((domain .opened true).triggered = true ∧ (∀ k ∈ s.domainKernels 1, k.state = .running) ∧ (∃ k ∈ (sealing (domain .opened) victim).domainKernels 1, busy k))
      ∧ ((domain .rollingBack).state = .rollingBack ∧ (sealing (domain .rollingBack)).away (domain .rollingBack) = [])
      ∧ ((s.domains.find? fun x => x.undo.any fun u => u.line == 512 / 128) = none
          ∧ ((sealing (domain .opened false [entry])).domains.find? fun x => x.undo.any fun u => u.line == 512 / 128) = some (domain .opened false [entry])
          ∧ entry.va = none ∧ entry.old.length = 128 ∧ Memory.wf s.mem = true)
      ∧ (paged.leafAt 0x20000 = some page ∧ getT [] paged.coh.holders ((page.va + (0x20000 - page.frame)) / 128) = []
          ∧ getT [] cached.coh.holders ((page.va + (0x20000 - page.frame)) / 128) ≠ [])
      ∧ (∀ u ∈ [noted 0 0x80000, noted 0x10 0, noted 0 0], u.ctx.rollbackNotice = some 9)
      ∧ ((noted 0 0x80000).ctx.arch.status.getLsbD 4 = false ∧ (noted 0 0x80000).myCore.k.tdeleg.getLsbD 19 = true ∧ (noted 0x10 0).ctx.arch.status.getLsbD 4 = true
          ∧ (noted 0 0).myCore.k.tdeleg.getLsbD 19 = false) := by unfold State.plain; decide +kernel

/-- The module reset keeps every table in order of its keys. -/
theorem witness_keysRise : (sealing (domain .opened)).keysRise := by unfold State.keysRise; decide +kernel

/-- An interval that ended at tick 0. -/
theorem witness_interval :
    let d := { domain .opened with interval := 1 }
    let s := { sealing d with dies := [(0, { Die.reset with gct := 1 })] }
    s.domain? 1 = some d ∧ d.interval ≠ 0 ∧ d.began + d.interval ≤ (s.die 0).gct := by decide +kernel

/-- PartsAreRepaired: parts in use and spared, with an owner whose channel can be replaced. -/
theorem witness_parts :
    let s := serving []
    let used := s.mapCore 3 fun c => { c with spared := true }
    let spared := { s with platform := { s.platform with sparedSlices := [(0, 1)], sparedPcs := [5] } }
    (Memory.wf s.mem = true ∧ s.domains = [] ∧ s.kernels = [] ∧ s.coh.marks = [] ∧ (∀ i, i < 8 → (s.core (0 / 8 * 8 + i)).spared = false) ∧ (0, 1) ∉ s.platform.sparedSlices
        ∧ 0 ∉ s.platform.sparedPcs)
      ∧ (¬ (∀ i, i < 8 → (used.core (0 / 8 * 8 + i)).spared = false) ∧ (0, 1) ∈ spared.platform.sparedSlices ∧ 5 ∈ spared.platform.sparedPcs)
      ∧ (s.allOwners.find? (fun o => o.channels.contains 0) = some owner ∧ s.unheldChannel 0 = some 1)
      ∧ s.platform.stage = 6 := by decide +kernel

/-- A domain that rolls back and whose owner uses slice 0 of die 0; nothing of it runs. -/
theorem witness_emptyDomain :
    let s := { (sealing (domain .rollingBack)) with kernels := [] }
    (∃ d ∈ s.domains, ((s.owner? d.owner).map fun o => o.slices.getD 0 0 / 2 ^ 0 % 2 == 1).getD false = true ∧ d.state = .rollingBack)
      ∧ s.domainKernels 1 = [] ∧ s.domainCtxs 1 = [] ∧ (domain .rollingBack).id = 1 ∧ s.domain? 1 = some (domain .rollingBack) := by decide +kernel

/-- One port in this state with a partner, on a module that is otherwise reset. -/
def ported (p : Nat) (st : PortState) (x : Port := { Port.reset with peer := some 3 }) : State := withPort State.reset p { x with state := st }

/-- PortsAndFlitsFollowTheirRules: ports in each state, with the peer that is expected and another, with and without a spare, before and after RTLIMIT, with a flit
resent eight times; good flits of each kind, in order, repeated and past a gap, and a bad one. -/
theorem witness_ports :
    let e := fun (n : Nat) => ({ Port.reset with peer := some 3, expected := some n } : Port)
    let late : Port := { Port.reset with deadline := 1 }
    let cabled := fun (t : State) => { t with links := { t.links with spareCables := [(1, 3)] } }
    let kept : Port := { Port.reset with buffer := [{ seq := 0, bytes := [], resent := 8 }] }
    (∀ st ∈ [PortState.down, .training, .up, .retraining, .degraded, .failed], ((ported 5 st).port 5).state = st ∧ ((ported 5 st).port 5).peer ≠ none ∧ ((ported 96 st).port 96).state = st)
      ∧ (((ported 5 .training (e 3)).port 5).expected = some 3 ∧ ((ported 5 .training (e 4)).port 5).peer = some 3)
      ∧ ((cabled (ported 5 .up)).freeSpare 5 = some 1 ∧ (ported 5 .up).freeSpare 5 = none ∧ (cabled (ported 50 .up)).freeSpare 50 = none ∧ (State.reset.die 0).gct < ((ported 5 .up late).port 5).deadline ∧ ((ported 5 .up).port 5).deadline ≤ (State.reset.die 0).gct)
      ∧ ((∃ k ∈ ((ported 5 .up kept).port 5).buffer, 8 ≤ k.resent) ∧ ((ported 5 .up).port 5).buffer = [] ∧ risesT (ported 5 .failed).links.ports = true) := by decide +kernel

/-- A flit that is sent is good. -/
theorem witness_flits (k : Nat) (h : k ∈ [0, 1, 2, 3, 4]) (q : Nat) (hq : q ∈ [0, 1, 0xFFFF]) :
    (flitOf k q 0 0 []).length = 256 ∧ ofLeBytes (((flitOf k q 0 0 []).drop 0).take 1) = k ∧ ofLeBytes (((flitOf k q 0 0 []).drop 2).take 2) = q
      ∧ ofLeBytes (((flitOf k q 0 0 []).drop 248).take 8) = (crc64 ((flitOf k q 0 0 []).take 248)).toNat := by
  refine ⟨?_, ?_, ?_, flit_crc ..⟩
  · simp only [flitOf, List.length_append, flitHead_length, leBytes_length]
  · revert k q; decide +kernel
  · revert k q; decide +kernel

/-- The three places a SEQ can have after 0xFFFF, and a flit that is no flit. -/
theorem witness_seqs : (0 : BitVec 16) = 0xFFFF + 1 ∧ ((0xFFFF : BitVec 16) - 0xFFFF).toNat < 32768 ∧ (1 : BitVec 16) ≠ 0xFFFF + 1
    ∧ 32768 ≤ ((0xFFFF : BitVec 16) - 1).toNat ∧ ¬ ([] : List Byte).length = 256 := by decide

/-- BringUpFollowsItsSteps and PlatformEventsActAsStated: a module that is stopped, one that runs, one that is hot, and a watchdog that has run out. -/
theorem witness_platform :
    let s := serving []
    let ran := { s with dies := [(0, { Die.reset with wdogPeriod := 1, gct := 1000000 })] }
    (State.reset.platform.stage = 0 ∧ s.platform.stage ≠ 0 ∧ s.platform.stage ≤ 6 ∧ s.platform.temp < 256 ∧ s.platform.power < 4096)
      ∧ (1 ≤ 1 ∧ 1 ≤ { s.platform with rails := 5 }.rails)
      ∧ ((ran.die 0).wdogPeriod ≠ 0 ∧ (ran.die 0).wdogKick + (ran.die 0).wdogPeriod.toNat * 1000000 ≤ (ran.die 0).gct ∧ (State.reset.die 0).wdogPeriod = 0)
      ∧ (2 ^ 32 / 2 ^ 32 % 2 = 1 ∧ 0 / 2 ^ 32 % 2 = 0 ∧ risesT s.dies = true ∧ risesT s.cores = true) := by decide +kernel

/-- StepsKeepMemoryCanonical: a running module steps. -/
theorem witness_steps : Memory.wf (serving []).mem = true ∧ ∃ t, step (serving []) = .next t := by
  refine ⟨by decide +kernel, ?_⟩
  have h : (match step (serving []) with | .next _ => true | _ => false) = true := by decide +kernel
  split at h
  · exact ⟨_, by assumption⟩
  · cases h

/-- A line that was written after the instruction cache took it: its old halfword may be fetched, and none after SYNCI (06 R154). -/
theorem test_synciDropsStaleLines :
    let s := ((thread [0, 0x1000, 2]).setNat 0x1000 2 0x1111).fillL1i 0x1000 0x1000
    let t := s.setNat 0x1000 2 0x2222
    s.staleHalf 0x1000 0x1000 = none ∧ t.staleHalf 0x1000 0x1000 = some 0x1111
      ∧ gives (fun u => .ok ((), nextOf u (exec (.synci 1 2) u))) t (fun _ u => u.staleHalf 0x1000 0x1000 == none && u.myCore.l1i == []) = true := by decide +kernel

/-! ### The toolchain (03) -/

/-- The blocks of the worked cloak (15): members 2, 1 and 0, from the draws it lists; two members give their low bits. -/
theorem test_cloakBlocks :
    let s := { (thread []) with ctx := { (thread []).ctx with owner := 1, cloak := { state := .bound, members := [8, 9, 10, 11] } } }
    let s := { s with cores := setT Core.reset s.cores s.coreId { s.myCore with k := { s.myCore.k with kseed := 0x9B04688D } } }
    (s.blockMember 0x100000004, s.blockMember 0x100000028, s.blockMember 0x100000010) = (10, 9, 8)
      ∧ s.registerMember 5 = 9 ∧ operandHops 0 6 = 2 := by decide +kernel

/-- The values of two expressions of 03 R57. -/
theorem test_expressions :
    (((Tool.parseExpr (.lit 0) (Tool.lex "8 - 2 + 1".toList)).map (Tool.Expr.absolute [])).map Except.toOption = some (some 7))
      ∧ (((Tool.parseExpr (.lit 0) (Tool.lex "1 << 4 / 2".toList)).map (Tool.Expr.absolute [])).map Except.toOption = some (some 8)) := by
  decide +kernel

/-- The words of a file's .text section. -/
def textOf (src : String) : Option (List Byte) :=
  ((Tool.assemble src).toOption.bind fun a => a.object.sections.find? (·.name == ".text")).map (·.bytes)

/-- The statement of 03 R61 and its field form give the word the rule prints; LI expands as 03 R65 prints. -/
theorem test_statements :
    textOf "AMO.ADD.ACQ.D s3, s4, 0(s2)\n.enc ATOM f6=0x10 f3=1 la=0 rs2=s4 rs1=s2 rd=s3\n.enc Q10 op=0 rd=s3 rs=s7 sub=1"
        = some (leBytes 4 0x408211B3 ++ leBytes 4 0x408211B3 ++ leBytes 2 0x06E6)
      ∧ textOf "LI s4, 0x1_2345" = textOf "LUI s4, 9\nADDI s4, s4, 0x345"
      ∧ textOf "ADD s3, s4" = none ∧ textOf "FENCE" = none ∧ textOf "FADD s1, s2, s3" = none := by decide +kernel

/-- The worked object of 03. -/
def workedObject : String :=
  "        .la      auto\n        .section .handles\nhx:     .handle  SPACE=TCM, FMT=FP32, BASE=buf, ROWS=1, COLS=4, STRIDE=16\n        .tcm\n"
    ++ "        .align   16\nbuf:    .float   1.5, 2.0, -0.5, 4.0\n        .text\n        .global  main\n        .type    main, func\n"
    ++ "main:   LA       s5, hx\n        HLD      h0, 0(s5)\n        VADD.RNE h0, h0, h0\n        C.DONE\n        .section .launch\n"
    ++ "k1:     .launch  entry=main, threads=1"

/-- The worked object's sections, its .text and .tcm as 03 prints them, and its file read back; linked with .handles at 0x0001_0001_2340 its .text
is the 18 bytes that 03 prints and ENTRY is 0x0001_0000_0000; at 0x0001_0001_2344 the link is refused. -/
theorem test_workedObject :
    (match Tool.assemble workedObject with
      | .ok a => (a.object.sections.map fun s => (s.name, s.size)) == [(".text", 18), (".handles", 32), (".tcm", 16), (".launch", 96)]
          && (a.object.sections.map (·.bytes)).head?
            == some (leBytes 4 0x00000297 ++ leBytes 4 0x00002A8B ++ leBytes 4 0x0000283B ++ leBytes 4 0x0000003F ++ leBytes 2 0xE002)
          && (a.object.sections.map (·.bytes))[2]? == some [0, 0, 0xC0, 0x3F, 0, 0, 0, 0x40, 0, 0, 0, 0xBF, 0, 0, 0x80, 0x40]
          && Tool.Hof.read a.object.write == some a.object
          && (Tool.link [a.object] [(".handles", 0x100012344)]).toOption.isNone
          && match Tool.link [a.object] [(".handles", 0x100012340)] with
            | .ok im => (im.sections.map (·.bytes)).head?
                  == some [0x97, 0x4A, 0, 0, 0x8B, 0x2A, 0, 0x0D, 0x3B, 0x28, 0, 0, 0x3F, 0, 0, 0, 0x02, 0xE0]
                && ((im.sections.map (·.bytes))[3]?.map fun bs => Tool.dwordAt bs 0) == some 0x100000000
            | .error _ => false
      | .error _ => false) = true := by decide +kernel

/-! ### Witnesses of the clauses on what waits, holds, queues or is in short supply -/

/-- The same beside a thread whose chunk runs locked: no chunk of this one may commit. -/
def locked (s : State) : State := { s with ctxs := [(1, { Context.free with life := .ready, chunk := { Chunk.fresh Arch.zero with locked := true } })] }

/-- FloatingPointTrapsAreTaken and FencesAndChunkComplete: a flag whose trap is enabled where the chunk may not commit; CHUNK there; a system-scope FENCE and a
FENCE.X with no write on a link. -/
theorem witness_commitWaits :
    let s := locked ((thread [0, 0x3FF0000000000000, 0x3FD5555555555555]).mapArch fun a => { a with fcsr := 0x1F00 })
    let r := fpDeliver true .rne (Val.mul (fpVal true (s.x 2)) (fpVal true (s.x 2)))
    let t := ((s.setReg 3 r.1).mapArch (·.raiseFlags r.2)).mapChunk fun c => { c with ins := c.ins + 1 }
    let c := (thread []).commitCur
    s.plain ∧ (s.canCommit = false ∧ t.canCommit = false ∧ r.2 &&& BitVec.ofNat 5 (s.ctx.arch.fcsr.toNat / 256 % 32) ≠ 0)
      ∧ (c.linkLost c.coreId c.cur.2 = none ∧ c.linkTransfers = [] ∧ c.links.writes.any (fun w => w.core == c.coreId && w.slot == c.cur.2) = false) :=
  ⟨⟨rfl, rfl⟩, by decide +kernel⟩

/-- WatchesAreArmedReportedAndFreed: a thread whose watched line left the L1D, and one that has no entry. -/
theorem witness_evictedWatch :
    let s := watching [entry 3 0 false]
    let e := { s with ctx := { s.ctx with wait := Wait.evicted } }
    e.plain ∧ (e.canCommit = true ∧ e.commitCur.ctx.wait = Wait.evicted ∧ e.commitCur.myCore.firedEntry e.commitCur.cur.2 = none)
      ∧ ((thread []).commitCur.ctx.wait ≠ Wait.evicted ∧ (thread []).commitCur.myCore.watches.any (·.slot == 0) = false) :=
  ⟨⟨rfl, rfl⟩, by decide +kernel⟩

/-- MatrixInstructionsAreAccepted: each acceptance gives a command; a destination that is empty; a queue that holds one. -/
theorem witness_matrixQueued :
    let e := (accumulating .empty).commitCur
    let r := (accumulating .ready).commitCur
    let s := matrices
    let n := withHandles (thread []) [handle 4 0 3 0 128 0, handle 3 1 0 128 128 0, handle 0 1 0 32 128 256]
    let q := s.mapCluster 0 fun u => { u with queue := [zeroing .mzero false] }
    let some' := fun (x : Option Nat) (_ : State) => x.isSome
    gives (acceptZero s.matReq 0) s.commitCur some' = true ∧ gives (acceptLoad s.matReq 6 3) s.commitCur some' = true
      ∧ gives (acceptMul e.matReq 0 2 1 5 true true true) e some' = true ∧ gives (acceptDrain r.matReq 4 0 true) r some' = true
      ∧ (n.plain ∧ n.canCommit = true ∧ (operandOf n.commitCur 0).isEmpty = true ∧ gives (checkHandles [0, 2, 1]) n.commitCur (fun _ t => t == n.commitCur) = true
          ∧ gives (checkHandles (remoteHandles 0 2 1 4)) n.commitCur (fun _ t => t == n.commitCur) = true)
      ∧ (q.plain ∧ q.canCommit = true ∧ (q.commitCur.cluster 0).queue ≠ [] ∧ (q.commitCur.cluster 0).queued 0 false < 2) := by
  unfold State.plain; decide +kernel

/-- MessagesAreSent: every copy is taken, or refused, or left with a full window; a send that goes on with the copies it had left; a copy that is NACKed with a
free entry and with none. -/
theorem witness_sendsLeft :
    let img := List.replicate 16 (0 : Byte)
    let bad := leBytes 8 0x100000 ++ List.replicate 8 (0 : Byte)
    let s := sender.commitCur
    let shut := s.mapCore 0 fun c => { c with queueMode := .closed }
    let full := shut.mapCore 0 fun c => { c with window := List.replicate 16 { kept none with dst := 1 } }
    let deal := fun (u : State) (i : List Byte) => (u.sendLeft { dests := [0], image := i, index := 0, left := [0], refused := [], nacked := [] }).2
    ((deal s img).left = [] ∧ (deal s img).refused = []) ∧ ((deal s bad).left = [] ∧ (deal s bad).refused = [0]) ∧ (deal full img).left = [0]
      ∧ s.ctx.sending = none ∧ ((shut.planCopy 0 img = .nacked ∧ shut.myCore.window.length < 16) ∧ full.planCopy 0 img = .nacked ∧ 16 ≤ full.myCore.window.length)
      ∧ s.planCopy 0 img = .enqueued := by decide +kernel

/-- MessagesArriveAndAreDispatched and CarriesAreSentTakenAndAnswered: no chunk runs locked; a core with a READY context, which its arbiter chooses alone, and
with two; a link path that nothing holds. -/
theorem witness_arbiters :
    let s := sender
    let ready := { s with ctxs := [(1, { Context.free with life := .ready, owner := 1, knum := 1 })] }
    let two := { s with ctxs := [(1, { Context.free with life := .ready, owner := 1, knum := 1 }), (2, { Context.free with life := .ready, owner := 1, knum := 1 })] }
    (s.lockStands = false ∧ (carrier 0 tcm).lockStands = false) ∧ (ready.readyOn 0 ≠ [] ∧ (ready.chooseCtx 2 (coreArbiter 0) (ready.readyOn 0)).1 = some (0, 1))
      ∧ (two.readyOn 0).length = 2 ∧ (two.chooseCtx 2 (coreArbiter 0) (two.readyOn 0)).1.isSome = true
      ∧ (carrier 0 tcm).commitCur.held (·.link) = false := by decide +kernel

/-- ReseedsReplaceTheSeed: no register of the kernel waits to be undone; an owner whose slices hold nothing, and one whose slice holds a line; a retired one. -/
theorem witness_slicesHold :
    let m := (threadAt 3 [0, 7, 1]).putOwner owner
    let h := { m with coh := { m.coh with l2 := [(5, { ways := [some { line := 4, pinned := false }], evictions := 0 })] } }
    let gone := (threadAt 3 [0, 7, 1]).putOwner { owner with state := .retired }
    (∀ p ∈ (tenant []).commitCur.ctxs, ∀ e ∈ p.2.chunk.kUndo, e.index ≠ 0x021) ∧ m.commitCur.slicesHold owner = false ∧ h.commitCur.slicesHold owner = true
      ∧ h.commitCur.owner? 1 = some owner ∧ h.canCommit = true ∧ gone.commitCur.owner? 1 = some { owner with state := .retired } := by decide +kernel

/-- DrawsExceedancesAndTicketsAreMade: an instance with a request of owner 1 in its class, and the two structures at either end. -/
theorem witness_instances :
    let s := { tenant [] with arbRequests := [{ cls := 1, arbiter := 0x03050007, owner := 1 }] }
    instanceClass 0x03050007 = some 1 ∧ instanceClass 0 = some 0 ∧ instanceClass 0x00080000 = none ∧ s.arbRequests.length = 1 ∧ (0x03050007 : Nat) < 2 ^ 32
      ∧ (∀ x ∈ s.arbRequests, x.owner < 2 ^ 16) ∧ wfT 0 s.streams = true ∧ s.owner? owner.id = some owner := by decide +kernel

/-- MemorySystemInstructionsAnswerAndLock: REGSW to a SWM table with nothing in flight, and with a copy that writes the range; a batch to replay. -/
theorem witness_switches :
    let s := { ranged 3 with slots := [(5, some tableCls), (6, some tableSwm)] }
    let x := { copy .inFlight with shadow := (shadowOf 0).set 1 0x10000 }
    let held := s.mapCore 1 fun c => { c with transfers := [x] }
    let e := (s.commitCur.rangeEntry 0 0).getD { owner := 0, index := 0, base := 0, size := 0, slot := 0, state := 0, lease := 0 }
    (s.commitCur.rangeEntry 0 0 = some e ∧ e.state = 0 ∧ getT none s.commitCur.slots 6 ≠ none ∧ s.commitCur.kindOf 6 = kindSwm ∧ s.commitCur.kindOf e.slot ≠ kindSwm
        ∧ s.commitCur.switchWaits e = false ∧ held.commitCur.switchWaits e = true)
      ∧ ((logging (batch true 0x10000 0) 1).replayBatch 1 1 false).isSome = true := by decide +kernel

/-- WaitsEndAndChunksCommit: an ended chunk that holds a floating-point exception and may commit, and one that may not. -/
theorem witness_heldException :
    let s := (rank []).mapChunk fun c => { c with full := true, fpx := some 0 }
    (s.ctxAt 0 0).life ≠ .runahead ∧ (s.ctxAt 0 0).chunk.full = true ∧ s.canCommit = true ∧ (locked s).canCommit = false ∧ (s.ctxAt 0 0).chunk.fpx = some 0 := by
  decide +kernel

/-- MemoryRequestsAndRdmaTakeEffect and KernelsArePlacedAndPreempted: pages that no range switch holds, an extent past the first 64 KiB; and nothing that a
pre-emption waits for. -/
theorem witness_nothingWaits :
    let w := serving []
    let p := { kernel .preempted with forPriority := true, held := [] }
    w.switchingAt 0x1FFFF = false ∧ inZeroPage 0x20000 = false ∧ inZeroPage 0xFFFF = true ∧ w.lockStands = false ∧ w.stopWaits 1 = false ∧ w.faultPends 1 = false
      ∧ (serving [] [p]).claimed p = false := by decide +kernel

/-- HomesAndDiesAnswerEvents: a line under a lease, whose entry waits for it; each message that the line's answers are, found by its kind; the last answer with
an event behind it. -/
theorem witness_homeWaits :
    let m := fun (k : Nat) (o : Bool) => ({ kind := k, line := 4, die := 0, req := 0, toOwner := o } : ProtoMsg)
    let found := fun (k : Nat) (o : Bool) =>
      let kinds := if k = 6 ∨ k = 17 then [6, 17] else if k = 16 ∨ k = 18 ∨ k = 19 then [16, 18, 19] else [k]
      (home [] [] [m k o]).coh.msgs.find? (fun x => kinds.contains x.kind && x.die == 0 && x.line == 4)
    let b : Busy := { line := 4, answers := 1, data := false, req := 0 }
    let waits : Busy := { line := 4, answers := 0, data := false, req := 0, lease := true }
    let leased := fun (t : Nat) => ({ home [] [waits] with coh := { (home [] [waits]).coh with leases := [(4, some t)] } } : State)
    let q : ProtoEvent := { event := 0, line := 4, req := 0 }
    let s := home [] [b] [m 17 false]
    let behind := { s with coh := { s.coh with queue := [q] } }
    (∀ k ∈ [1, 2, 3, 4, 5, 6, 16, 17, 18, 19], ∀ o ∈ [false, true], found k o = some (m k o))
      ∧ (leased 1).leased 4 = true ∧ ({ leased 0 with coh := { (leased 0).coh with leases := [] } } : State).leased 4 = false
      ∧ (leased 0).coh.busy = [waits] ∧ (∃ x ∈ tableLse.action, x / 2 ^ 21 % 2 = 1 ∧ x / 2 ^ 23 % 2 = 1)
      ∧ behind.coh.busy = [b] ∧ behind.coh.queue = q :: [] ∧ behind.coh.msgs.erase (m 17 false) = [] := by decide +kernel

/-- PartsAreRepaired: a die with one of its two spare slices in use, and with both. -/
theorem witness_spareSlices :
    let s := fun (l : List (Nat × Nat)) => ({ State.reset with platform := { State.reset.platform with sparedSlices := l } } : State)
    (((s [(0, 1), (1, 5)]).platform.sparedSlices.filter fun x => x.1 == 0).length < 2) ∧ 2 ≤ ((s [(0, 1), (0, 5)]).platform.sparedSlices.filter fun x => x.1 == 0).length := by
  decide

/-- MemorySystemInstructionsAnswer, MemoryRequestsTakeEffect and OwnersAreAdministered: a page that no copy is in flight to, and one that a copy which waits for
its pages holds; an UNMAP of it, and a domain none of whose pages is held. -/
theorem witness_copiesHold :
    let x := { copy .inFlight with shadow := (shadowOf 0).set 1 0x10000, waiting := [(0, 1), (1, 1)] }
    let hold := fun (s : State) => s.mapCore 1 fun c => { c with transfers := [x] }
    let s := ranged 3
    (hold s).plain ∧ ((hold s).canCommit = true ∧ s.commitCur.copiesHold page.va page.size = false ∧ (hold s).commitCur.copiesHold page.va page.size = true
        ∧ (hold s).commitCur.walk 0x10000 = some page)
      ∧ ((described extentCells).unmapWaits (asking 21) = false ∧ (hold (described extentCells)).unmapWaits (asking 21) = true)
      ∧ ((serving []).domainHolds owner.domain = false ∧ (hold (serving [])).domainHolds owner.domain = true) :=
  ⟨⟨rfl, rfl⟩, by decide +kernel⟩

/-- PortsChangeState: a domain with writes on a port can take its seam, or rolls back. SeamsCommitAndRollBack: a copy of a line in a slice alone; a domain
that is joined with another module's. -/
theorem witness_portsInUse :
    let cabled := fun (t : State) => { t with links := { t.links with spareCables := [(1, 3)] } }
    let used := fun (d : SeamDomain) => let t := cabled (ported 5 .up); { t with domains := [d], links := { t.links with writes := [{ carrying .sent with domain := 1 }] } }
    let paged := mapping (thread [])
    let sliced := { paged with coh := { paged.coh with l2 := [(0, { ways := [some { line := 512, pinned := false }], evictions := 0 })] } }
    let joined := { domain .opened with peers := [4] }
    ((used (domain .opened)).freeSpare 5 = some 1 ∧ (used (domain .opened)).canSeam ((used (domain .opened)).usesPort 5) = true
        ∧ (used (domain .rollingBack)).freeSpare 5 = some 1 ∧ (used (domain .rollingBack)).canSeam ((used (domain .rollingBack)).usesPort 5) = false)
      ∧ (paged.coh.inSlice 512 = false ∧ sliced.coh.inSlice 512 = true ∧ (page.va + (0x20000 - page.frame)) / 128 = 512)
      ∧ ((sealing joined).domain? 1 = some joined ∧ joined.peers ≠ [] ∧ (domain .opened).peers = []) := by decide +kernel

/-! ### Single steps whose effect is easily made twice, early or not at all -/

/-- A product with an enabled flag whose chunk may not commit has its effect once: the register is doubled by FADD, and where the lock has gone, CHUNK_COMMIT takes FPX with
PDONE = 1 at the instruction, whose effect stays (05 R116, 06 R147). -/
theorem test_fpxIsTakenOnce :
    let s := (thread [0, 0x3FF0000000000001, 0x3FD5555555555555]).mapArch fun a => { a with fcsr := 0x1F00 }
    let t := nextOf (locked s) (exec (.fadd 1 1 2 0 1) (locked s))
    let w := { t with ctxs := [] }
    let u := nextOf w (exec (.chunkCommit 0 0) w)
    t.ctx.life = .waiting ∧ t.x 1 = u.x 1 ∧ u.x 1 ≠ s.x 1 ∧ u.ctx.arch.cause = 7 ∧ u.ctx.arch.epc = 0x1000 ∧ u.ctx.arch.status.getLsbD 5 = true := by decide +kernel

/-- CSTAT that begins a block counts it (15 R287, R297). -/
theorem test_cstatCountsItsBlock :
    let s := { rank [] with ctx := { (rank []).ctx with cloak := { state := .bound, members := [0, 1], lost := false } } }
    (nextOf s (exec (.cstat 1 0) s)).x 1 = BitVec.ofNat 64 (2 ^ 32 + 3 * 256 + 16 + 2) := by decide +kernel

/-- What 03 R55 to R58, R68 and R71 take and refuse: a label on the line of .endif, a number sign before an offset, no register as a symbol, no -nan, a task whose
entry does not lie below its bound. -/
theorem test_assemblerLines :
    textOf ".if 0\nNOP\nlab: .endif\nJ lab" = textOf "lab: J lab" ∧ (textOf "lab: J lab").isSome = true ∧ textOf "LD s5, #16(s2)" = textOf "LD s5, 16(s2)" ∧ (textOf "LD s5, #16(s2)").isSome = true
      ∧ textOf "J s5" = none ∧ textOf ".float -nan" = none ∧ textOf "main: C.DONE\n.section .tasks\n.task main, 0, 0" = none := by decide +kernel

/-! ### Witnesses of the clauses that name traps, values that read back, repetitions resumed and waits -/

/-- A piece of work that ends in a trap with this cause. -/
def failsWith {α : Type} (m : M α) (s : State) (cause : Nat) : Bool :=
  match m s with
  | .error (.trap c _ _) => c == cause
  | _ => false

/-- JumpsLinkAndGoOrTrap: a condition of each branch, and the furthest target of each length of offset, past the space. -/
theorem witness_farTargets : let s := (thread [0, 0, 1, 0x8000000000000000]).mapArch fun a => { a with pc := 0x00FFFFFFFFFFFFFC }
    s.plain ∧ (s.x 1 == s.x 0) = true ∧ (s.x 2 != s.x 0) = true ∧ ((s.x 3).toInt < (s.x 2).toInt ∧ (s.x 2).toInt ≤ (s.x 2).toInt) ∧ (s.x 2).toNat < (s.x 3).toNat
      ∧ 2 ^ 56 ≤ (s.ctx.arch.pc + (63 : BitVec 7).signExtend 64 * 2).toNat ∧ 2 ^ 56 ≤ (s.ctx.arch.pc + (1023 : BitVec 11).signExtend 64 * 2).toNat :=
  ⟨⟨rfl, rfl⟩, by decide +kernel, by decide +kernel, (by decide : (0x8000000000000000 : Word).toInt < (1 : Word).toInt ∧ (1 : Word).toInt ≤ (1 : Word).toInt), by decide +kernel⟩

/-- AtomicsReturnTheOldValueAndReplaceIt and BytesReadBackAndNoOthersChange: no seam domain has the first line of the TCM open. -/
theorem witness_noForeignDomain : let s := thread [0, tcm]
    s.foreignDomain s.mySeam (tcmLoc 0 0 / 128) = none := by decide +kernel

/-- WatchesAreArmedReportedAndFreed: a chunk with an UNWATCH of an entry that its thread holds, beside one of another slot; a thread with an entry that nothing
has fired. -/
theorem witness_unwatch :
    let s := (watching [entry 15 0 false, { entry 14 0 false with slot := 1 }]).mapChunk fun c => { c with ins := 1, unwatched := [14, 15] }
    let w := watching [entry 3 0 false]
    s.plain ∧ w.plain ∧ s.keysRise ∧ (s.ctx.chunk.isEmpty = false ∧ s.ctx.chunk.unwatched.contains 15 = true ∧ s.myCore.watches.any (fun w => w.entry == 15 && w.slot == s.cur.2) = true
        ∧ s.myCore.watches.any (fun w => w.entry == 14 && w.slot != s.cur.2) = true ∧ (1 : Nat) ≠ s.coreId)
      ∧ (w.canCommit = true ∧ w.commitCur.myCore.firedEntry w.commitCur.cur.2 = none ∧ w.commitCur.ctx.wait ≠ Wait.evicted
          ∧ w.commitCur.myCore.watches.any (·.slot == w.commitCur.cur.2) = true) :=
  ⟨⟨rfl, rfl⟩, ⟨rfl, rfl⟩, by unfold State.keysRise; decide +kernel, by decide +kernel⟩

/-- FloatingPointTrapsAreTaken: the flags of a division by 0, of a conversion and of a comparison with a quiet NaN, each with its trap enabled. -/
theorem witness_formTraps : let s := (thread [0, 0x3FF0000000000000, 0x7FF8000000000000, 0x43F0000000000000]).mapArch fun a => { a with fcsr := 0x1F00 }
    let hit := fun (f : Flags) => f &&& BitVec.ofNat 5 (s.ctx.arch.fcsr.toNat / 256 % 32) ≠ 0
    s.plain ∧ modeCode s 0 < 5 ∧ RMode.ofCode (modeCode s 0) = some .rne ∧ hit (fpDeliver true .rne (Val.div (fpVal true (s.x 1)) (fpVal true (s.x 0)))).2
      ∧ hit (toIntReg false false .rne (fpVal true (s.x 3))).2 ∧ hit (fpCompare true .lt (s.x 1) (s.x 2)).2 :=
  ⟨⟨rfl, rfl⟩, by decide +kernel⟩

/-- RepetitionsBeginFollowAndRename: REP in a handler of a repeating thread; a body that cannot be fetched; a body instruction that no body may hold. -/
theorem witness_refusedRepetitions :
    let h := threadAt (16 + 256) [0, 3]
    let s := thread [0, 3]
    let b := { addr := 0x1004, len := 2, bits := 0xE002, ins := .cDone : BodyIns }
    (h.plain ∧ h.ctx.arch.inh = true ∧ h.ctx.arch.repAct = true)
      ∧ (s.plain ∧ ¬ (s.ctx.arch.inh = true ∧ s.ctx.arch.repAct = true) ∧ failsWith (captureBody 1 (s.ctx.arch.pc + 4).toNat) s 4 = true)
      ∧ repForbidden b.ins = true :=
  ⟨⟨⟨rfl, rfl⟩, by decide +kernel⟩, ⟨⟨rfl, rfl⟩, by decide +kernel⟩, by decide +kernel⟩

/-- ControlRegistersAreReadModifiedOrIllegal, what reads back: a thread of an owner, whose tables are in order; KICK written as 1 and as 0. -/
theorem witness_readBack : (tenant []).keysRise ∧ (tenant []).owner? (tenant []).ctx.owner = some owner ∧ owner.id = (tenant []).ctx.owner
    ∧ (tenant []).prv ≠ 3 ∧ (threadAt 3 []).prv = 3 ∧ (0x100000000 : Word).getLsbD 32 = true ∧ (0 : Word).getLsbD 32 = false :=
  ⟨by unfold State.keysRise; decide +kernel, by decide +kernel⟩

/-- ReturningGoesBackWhereTheTrapWas with REPACT set: a target within the body of one NOP at 0x1004 and one past it; a body that cannot be fetched again. -/
theorem witness_resumedRepetitions :
    let back := fun (status epc : Word) => (nopAhead []).mapArch fun a => { a with status := status, repBase := 0x1004, repCnt := 3, epc := epc }
    let inside := back 0x10F 0x1004
    let past := back 0x12F 0x1004
    let lost := (thread []).mapArch fun a => { a with status := 0x110, repBase := 0x1004 }
    let captures := fun (s : State) => let c := s.commitCur
      gives (captureBody ((c.ctx.arch.status.extractLsb' 9 5).toNat + 1) c.ctx.arch.repBase.toNat) (c.mapArch fun a => { a with status := a.eretStatus }) fun b u =>
        b == [{ addr := 0x1004, len := 4, bits := 0x380067, ins := .nop }] && u.ctx.arch == { c.ctx.arch with status := c.ctx.arch.eretStatus }
          && decide (u.ctx.chunk.ins + 1 < u.ctx.chunk.maxIns) && u.ctx.rollbackNotice == none
    (∀ s ∈ [inside, past], s.canCommit = true ∧ s.isUser = false ∧ s.commitCur.ctx.arch.status.getLsbD 8 = true ∧ captures s = true)
      ∧ inside.commitCur.ctx.arch.epc.toNat = 0x1004 ∧ (past.commitCur.ctx.arch.status.getLsbD 5 = true ∧ (past.commitCur.ctx.arch.epc + 4).toNat ≠ 0x1004)
      ∧ (lost.canCommit = true ∧ lost.ctx.arch.inh = true ∧ lost.commitCur.ctx.arch.status.getLsbD 8 = true
          ∧ failsWith (captureBody 1 0x1004) (lost.commitCur.mapArch fun a => { a with status := a.eretStatus }) 4 = true)
      ∧ inside.plain ∧ past.plain ∧ lost.plain :=
  ⟨by decide +kernel, by decide +kernel, by decide +kernel, by decide +kernel, ⟨rfl, rfl⟩, ⟨rfl, rfl⟩, ⟨rfl, rfl⟩⟩

/-- SystemInstructionsComplete: a thread that nothing has a message for; a rank that ends with no rank of its group in a collective, and a handler. -/
theorem witness_waitingAndRetired :
    let s := thread []
    let r := rank []
    let h := { r with ctx := { r.ctx with handling := some { sender := 0, stamp := 0, key := .root 0 0, block := 0, freeMode := true, firstChunk := true } } }
    (s.plain ∧ s.canCommit = true ∧ s.commitCur.myCore.queue = [] ∧ s.commitCur.hasFired s.commitCur.coreId s.commitCur.cur.2 = false)
      ∧ r.plain ∧ h.plain ∧ r.commitCur.keysRise ∧ h.commitCur.keysRise
      ∧ (r.canCommit = true ∧ r.commitCur.ctx.handling = none ∧ (r.commitCur.kernel? 1 1).map (fun k => (k.owner, k.knum)) = some (1, 1)
          ∧ ∀ p ∈ ({ r.commitCur with ctx := { Context.free with life := .retired } } : State).allCtxs, ¬ (p.2.2.life = .waiting ∧ p.2.2.wait.kind = .collective))
      ∧ (h.canCommit = true ∧ h.commitCur.ctx.handling.isSome = true) :=
  ⟨⟨⟨rfl, rfl⟩, by decide +kernel⟩, ⟨rfl, rfl⟩, ⟨rfl, rfl⟩, by unfold State.keysRise; decide +kernel, by unfold State.keysRise; decide +kernel, by decide +kernel,
    by decide +kernel⟩

/-- LookaheadWindowsGuardAndCount: after an older window that nothing touches, one over a register that is read, one over one that is written, one whose handle
is named, and one over the bytes of a load; and an instruction that breaks none. -/
theorem witness_windows :
    let s := thread [0, tcm]
    let w := fun (d : Dest) => ({ addr := 0x0FFC, dest := d, left := 2 } : Window)
    s.plain ∧ breaksContract s (.add 1 2 3) (w (.reg 2)) ∧ breaksContract s (.add 1 2 3) (w (.reg 1)) ∧ breaksContract s (.hmov 0 1) (w (.window 1 0 []))
      ∧ breaksContract s (.ld 5 1 0 0 false) (w (.window 7 0 [(tcmLoc 0 7, 1)])) ∧ ¬ breaksContract s (.add 1 2 3) (w (.reg 9))
      ∧ ¬ breaksContract s (.ld 5 1 0 0 false) (w (.window 7 0 [(tcmLoc 0 8, 1)])) := by
  refine ⟨⟨rfl, rfl⟩, ?_, ?_, ?_, ?_, ?_, ?_⟩
  · show (2 : Reg) ∈ instrSources (.add 1 2 3) ∨ (2 : Reg) ∈ instrDests (.add 1 2 3)
    decide +kernel
  · show (1 : Reg) ∈ instrSources (.add 1 2 3) ∨ (1 : Reg) ∈ instrDests (.add 1 2 3)
    decide +kernel
  · show (1 : HReg) ∈ instrHandles (.hmov 0 1) ∨ _
    exact .inl (by decide +kernel)
  · refine .inr ⟨(tcmLoc 0 0, 8), by decide +kernel, (tcmLoc 0 7, 1), by decide, tcmLoc 0 7, by decide +kernel⟩
  · show ¬ ((9 : Reg) ∈ instrSources (.add 1 2 3) ∨ (9 : Reg) ∈ instrDests (.add 1 2 3))
    decide +kernel
  · have h : (thread [0, tcm]).touches (.ld 5 1 0 0 false) = [(tcmLoc 0 0, 8)] := by decide +kernel
    show ¬ ((7 : HReg) ∈ instrHandles (.ld 5 1 0 0 false) ∨ _)
    rintro (h' | ⟨x, hx, y, hy, k, hk⟩)
    · exact absurd h' (by decide +kernel)
    · rw [h, List.mem_singleton] at hx
      rw [List.mem_singleton] at hy
      subst hx hy
      simp only [tcmLoc] at hk
      omega

/-! ### Witnesses of the refusals of the vector, matrix and collective families -/

/-- None of these rows holds. -/
def noneHolds : List (HReg × Nat × Prop) → Prop
  | [] => True
  | x :: l => ¬ x.2.2 ∧ noneHolds l

theorem noneHolds_mem : ∀ {l : List (HReg × Nat × Prop)}, noneHolds l → ∀ x ∈ l, ¬ x.2.2
  | _ :: _, h, _, .head _ => h.1
  | _ :: _, h, x, .tail _ m => noneHolds_mem h.2 x m

/-- A row fails first where it holds and none before it does. -/
theorem firstFails_at {rows : List (HReg × Nat × Prop)} {h : HReg} {reason n : Nat} {p : Prop} (hn : rows[n]? = some (h, reason, p)) (hp : p)
    (ho : noneHolds (rows.take n)) : firstFails rows h reason := by
  refine ⟨rows.take n, p, rows.drop (n + 1), ?_, hp, noneHolds_mem ho⟩
  obtain ⟨hlt, hget⟩ := List.getElem?_eq_some_iff.mp hn
  rw [← hget, List.getElem_cons_drop hlt, List.take_append_drop]

/-- The refusals of VEC: a reserved bit of the second handle, an origin outside its tile, a format that the member does not take, an element that is not aligned, a
shape that does not spread, and half an MX block; strides that leave the row. -/
theorem witness_vectorRefusals :
    let s := withHandles (thread []) [handle 0 0 0 1 2 8, handle 0 0 0x400 1 2 8 + 2 ^ 248, handle 0 0 0x400 1 2 8 + BitVec.ofNat 256 (2 ^ 184), handle 0 0 2 1 2 8, handle 0 0 0x800 1 3 12,
      handle 6 7 0 0 0 0, handle 6 7 0x20001 0 0 0, handle 0 7 0 1 2 8]
    let d := operandOf s 0
    let needs := fun (h : HReg) => [needDst d fmtAll, needSrc (operandOf s h) fmtAll (spreads d (operandOf s h))]
    s.plain ∧ firstFails (r21Rows s [0, 1]) 1 0 ∧ firstFails (r21Rows s [0, 2]) 2 3
      ∧ firstFails (r302Rows [needDst (operandOf s 7) [0], needSrc (operandOf s 3) fmtAll true]) 7 9 ∧ firstFails (r302Rows (needs 3)) 3 5 ∧ firstFails (r302Rows (needs 4)) 4 10
      ∧ (∀ h ∈ [(3 : HReg), 4], gives (checkHandles [0, h]) s (fun _ t => t == s) = true ∧ s.hreg h ≠ 0) ∧ d.isEmpty = false
      ∧ (∀ h ∈ [(5 : HReg), 6], gives (checkHandles [0, 7, h]) s (fun _ t => t == s) = true ∧ s.hreg h ≠ 0)
      ∧ (operandOf s 5).base % 2 ^ 16 = 0 ∧ d.ec ≤ (operandOf s 6).base / 2 ^ 16 % 2 ^ 16 + (d.ec - 1) * ((operandOf s 6).base % 2 ^ 16) := by
  refine ⟨⟨rfl, rfl⟩, firstFails_at (n := 4) rfl ?_ ?_, firstFails_at (n := 7) rfl ?_ ?_, firstFails_at (n := 0) rfl ?_ trivial, firstFails_at (n := 5) rfl ?_ ?_,
    firstFails_at (n := 6) rfl ?_ ?_, ?_⟩
  · decide +kernel
  · refine And.intro ?_ (And.intro ?_ (And.intro ?_ (And.intro ?_ trivial))) <;> dsimp only <;> decide +kernel
  · decide +kernel
  · refine And.intro ?_ (And.intro ?_ (And.intro ?_ (And.intro ?_ (And.intro ?_ (And.intro ?_ (And.intro ?_ trivial)))))) <;> dsimp only <;> decide +kernel
  · decide +kernel
  · unfold misaligned; decide +kernel
  · refine And.intro ?_ (And.intro ?_ (And.intro ?_ (And.intro ?_ (And.intro ?_ trivial)))) <;> dsimp only <;> (try unfold misaligned) <;> decide +kernel
  · decide +kernel
  · refine And.intro ?_ (And.intro ?_ (And.intro ?_ (And.intro ?_ (And.intro ?_ (And.intro ?_ trivial))))) <;> dsimp only <;> (try unfold misaligned) <;> decide +kernel
  · decide +kernel

/-- VectorValueMembersDeliverTheirFunction and TreesGathersAndPacksDeliverTheirResult, FPX: the reciprocals of two zeros raise DZ, whose trap is enabled, in the
first element of them. -/
theorem witness_vectorTraps : let s := tiles.mapArch fun a => { a with fcsr := 0x1F00 }
    let d := operandOf s 0
    let needs := [needDst d fmtAll, needSrc (operandOf s 1) fmtAll (spreads d (operandOf s 1))]
    s.plain ∧ vectorMeets s 0 [1] [1] needs [d, operandOf s 1] [d] (fun r => gives ([operandOf s 1].mapM Tile.readValues) r fun gs u =>
      let out := d.deliver .rne (mkGrid d.er d.ec fun i j => Val.rcp (operand gs 0 i j))
      gives (d.store out) u fun _ w => (out.flags.flatten[0]?).any (fun f => f &&& BitVec.ofNat 5 (w.ctx.arch.fcsr.toNat / 256 % 32) != 0) && w.canCommit
        && w.cur == (0, 0) && w.ctx.life == .running) = true :=
  ⟨⟨rfl, rfl⟩, by decide +kernel⟩

/-- MatrixInstructionsAreAcceptedOrRefused, the refusals: a slot that another core holds, a BASE past the B store, an A operand of the wrong format, a drain of a slot
that is not READY, formats that are no pair, and dynamic mode 7; nothing for any of them but its own condition. -/
theorem witness_matrixRefusals :
    let s := withHandles (thread []) [handle 4 0 3 32 128 0, handle 3 1 (2 ^ 17) 128 128 0, handle 0 1 0 32 128 256, handle 0 0 0xA000 32 128 512, handle 0 1 0 128 128 256,
      handle 0 7 0 32 128 512]
    let c := s.commitCur
    let t := operandOf c
    let other : AccSlot := { state := .empty, holder := 1, m := 32, k := 0 }
    let mine : AccSlot := { state := .empty, holder := 0, m := 32, k := 0 }
    (s.plain ∧ s.canCommit = true ∧ c.held (·.matrix) = false ∧ (c.cluster 0).queued 0 false < 2)
      ∧ firstFails (slotRefusals other 0 0 (t 0) true False False) 0 13
      ∧ firstFails (bRefusals 0 1 (t 1) ((t 1).fmt ≠ (t 4).fmt) False) 1 4
      ∧ firstFails (aRefusals 2 (t 2) 32 2) 2 14
      ∧ firstFails (cRefusals 3 (t 3) [0, 1, 2, 3, 4, 8, 9, 10] 32 True False ++ slotRefusals mine 0 0 (t 0) false (mine.state ≠ .ready) False) 0 13
      ∧ (∀ h ∈ [(0 : HReg), 1, 2, 3, 4, 5], gives (checkHandles [h]) c (fun _ u => u == c) = true) ∧ (t 0).isEmpty = false
      ∧ (pairAccepted (t 2).fmt (t 5).fmt = false ∧ modeCode s 0 ≠ 7 ∧ modeCode (s.mapArch fun a => { a with fcsr := 7 * 32 }) 7 = 7) := by
  refine ⟨⟨⟨rfl, rfl⟩, by decide +kernel⟩, firstFails_at (n := 3) rfl ?_ ?_, firstFails_at (n := 1) rfl ?_ ?_, firstFails_at (n := 4) rfl ?_ ?_,
    firstFails_at (n := 8) rfl ?_ ?_, ?_⟩
  · decide +kernel
  · refine And.intro ?_ (And.intro ?_ (And.intro ?_ trivial)) <;> dsimp only <;> (try unfold validM wholeOf) <;> decide +kernel
  · decide +kernel
  · refine And.intro ?_ trivial
    dsimp only
    decide +kernel
  · decide +kernel
  · refine And.intro ?_ (And.intro ?_ (And.intro ?_ (And.intro ?_ trivial))) <;> dsimp only <;> (try unfold validM) <;> decide +kernel
  · decide +kernel
  · refine And.intro ?_ (And.intro ?_ (And.intro ?_ (And.intro ?_ (And.intro ?_ (And.intro ?_ (And.intro ?_ (And.intro ?_ trivial))))))) <;> dsimp only
      <;> (try unfold misaligned) <;> (try unfold validM wholeOf) <;> decide +kernel
  · decide +kernel

/-- MatrixInstructionsAreAcceptedOrRefused, MWAIT with a flag whose trap is enabled; MatrixCommandsComputeTheirResult: windows of each command, with slots at either end,
the first block and the one before the stack is full. -/
theorem witness_matrixResults :
    let s := matrices
    let w := (s.mapCore 0 fun c => { c with matFlags := 16 }).mapArch fun a => { a with fcsr := 0x1F00 }
    let t := fun (h : HReg) => Tile.of 0 (s.hreg h)
    (w.plain ∧ (w.commitCur.cluster 0).localQueue 0 = [] ∧ w.commitCur.myCore.matFlags &&& BitVec.ofNat 5 (w.commitCur.ctx.arch.fcsr.toNat / 256 % 32) ≠ 0)
      ∧ Memory.wf s.mem = true ∧ (63 : Nat) < 64 ∧ ((t 3).er = 128 ∧ (t 3).ec = 128 ∧ (t 3).fmt ∈ [1, 2, 3, 4, 8, 9, 10] ∧ (t 1).base % 512 = 0 ∧ (t 1).base < 2 ^ 17)
      ∧ ((t 0).rows = 32 ∧ validM 32 ∧ validM 1024 ∧ (t 0).base < 4 ∧ 0 < 2 ^ min 16 (2048 / 32) ∧ (3 < 2 ^ min 16 (2048 / 1024) ∧ 2 + 1 < 2 ^ min 16 (2048 / 1024)))
      ∧ ((t 4).form.isMx = false ∧ (t 4).form.bytes ≠ 0 ∧ ((128 * (t 4).form.bytes : Nat) : Int) ≤ (t 4).stride ∧ (t 4).ec = 128) := by
  refine ⟨⟨⟨rfl, rfl⟩, by decide +kernel⟩, by decide +kernel, by decide, by decide +kernel, ?_, by decide +kernel⟩
  unfold validM
  decide +kernel

/-- CollectivesArriveAndComplete, the refusals: a source in no space that a collective takes, a source of another shape, and an element that is not aligned; a group of which
a rank has retired; a rank that takes FPX; GBCAST from a root and a destination of no elements. -/
theorem witness_collectiveRefusals :
    let s := withHandles (rank []) [handle 0 0 0 1 2 8, handle 3 0 0 1 2 8, handle 0 0 0x400 1 3 12, handle 0 0 2 1 2 8]
    let g : GroupIns := { op := 4, md := 0, hd := 0, srcs := [1], la := 0 }
    let retired := (tenant []).putKernel { kernel .running with groups := [{ index := 0, state := .running, cores := [0], retired := [0], lost := none }] }
    let fpx := (arrivedAt (.gredMax 0 1 0)).mapArch fun a => { a with fcsr := 0x1F00 }
    s.plain ∧ groupIns (.gredMax 0 1 0) = some g ∧ s.rankGroup.isSome = true
      ∧ firstFails (groupRefusals s g 1) 1 9 ∧ firstFails (groupRefusals s { g with srcs := [2] } 1) 2 10 ∧ firstFails (groupRefusals s { g with srcs := [3] } 1) 3 5
      ∧ (∀ h ∈ [(1 : HReg), 2, 3], gives (checkHandles [0, h]) s.commitCur (fun _ t => t == s.commitCur) = true)
      ∧ (retired.rankGroup.bind fun x => x.2.retiredTval).isSome = true
      ∧ (noTrap fpx (allFlags ([[0]] : Grid Flags)) ∧ ([[16]] : Grid Flags).flatten[0]? = some 16 ∧ ¬ noTrap fpx 16 ∧ fpx.cur = (0, 0)) := by
  refine ⟨⟨rfl, rfl⟩, by decide +kernel, by decide +kernel, firstFails_at (n := 1) rfl ?_ ?_, firstFails_at (n := 4) rfl ?_ ?_, firstFails_at (n := 6) rfl ?_ ?_,
    by decide +kernel, by decide +kernel, ?_⟩
  · decide +kernel
  · refine And.intro ?_ trivial
    dsimp only
    decide +kernel
  · decide +kernel
  · refine And.intro ?_ (And.intro ?_ (And.intro ?_ (And.intro ?_ trivial))) <;> dsimp only <;> decide +kernel
  · unfold misaligned; decide +kernel
  · refine And.intro ?_ (And.intro ?_ (And.intro ?_ (And.intro ?_ (And.intro ?_ (And.intro ?_ trivial))))) <;> dsimp only <;> (try unfold misaligned) <;> decide +kernel
  · unfold noTrap; decide +kernel

/-! ### Witnesses of what copies, streams, cloaks, blocked pages, seams, parts, ports and rails do -/

/-- A rank whose engine remembers a copy and whose TCM begins with a landing record: TID 1, and bits 0 and 1 of the bitmap; s2 is a mask. -/
def recorded (st : TransferState) (mask : Word) : State :=
  ((rank [0, tcm, mask, tcm + 8, 0x8000000000000001]).mapCore 0 fun c => { c with transfers := [copy st], tidSeq := 1 }).setBytes (tcmLoc 0 0) (leBytes 16 1 ++ leBytes 8 3)

/-- TransferInstructionsLaunchAndAsk, XWAIT: a TID in a record, with a mask that is met, one that is not, and none; a record that is not aligned; a thread that
waits with each, and one whose copy has ended. -/
theorem witness_xwaits :
    let met := recorded .inFlight 3
    let open' := recorded .inFlight 7
    let none' := recorded .inFlight 0
    let bits := fun (s : State) => gives (unscored (memRead (s.x 1).toNat 4)) s.commitCur fun n u => n == 1 && ((u.known u.coreId 1).map (·.live)) == some true
      && gives (unscored (memRead (wrap64 ((s.x 1).toNat + 16 : Nat)) 8)) u fun w _ => w == 3
    let waits := fun (s : State) => ({ s with ctx := { s.ctx with life := .waiting, wait := { kind := .xwait, rd := 5, a := 1, ins := some (.xwait 5 1 2 0 0) } } } : State)
    (met.plain ∧ met.commitCur.plain ∧ met.canCommit = true) ∧ ((met.x 1).getLsbD 63 = false ∧ (met.x 1).toNat % 16 = 0 ∧ (met.x 3).toNat % 16 ≠ 0 ∧ (met.x 4).getLsbD 63 = true)
      ∧ (∀ s ∈ [met, open', none'], bits s = true) ∧ (met.x 2 ≠ 0 ∧ 3 &&& (met.x 2).toNat = (met.x 2).toNat ∧ 3 &&& (open'.x 2).toNat ≠ (open'.x 2).toNat ∧ none'.x 2 = 0)
      ∧ ((waits met).transfer? 0 1 = some (copy .inFlight) ∧ (copy .inFlight).live = true ∧ (waits (recorded .complete 3)).transfer? 0 1 = some (copy .complete)
          ∧ (copy .complete).live = false ∧ (waits met).ctx.wait.a = 1 ∧ (waits met).ctx.life = .waiting
          ∧ gives (unscored (memRead (wrap64 (((waits met).x 1).toNat + 16 : Nat)) 8)) (waits met) (fun w q => w == 3 && q.cur == (waits met).cur) = true) :=
  ⟨⟨⟨rfl, rfl⟩, ⟨rfl, rfl⟩, by decide +kernel⟩, by decide +kernel⟩

/-- TransfersStartLandAndCancel, the updates of a chunk: a record and a barrier in TCM; a barrier that is not armed, one that expects less, one that completes and one
that goes on; a copy that asks to be cancelled after all has landed. -/
theorem witness_updates :
    let t := { copy .inFlight with shadow := (shadowOf (tcm + 0x8000)).set 9 tcm }
    let s := fun (b : Barrier) => (copying [t]).setBytes (tcmLoc 0 0) (leBytes 16 b.toNat)
    let at' := fun (b : Barrier) => Barrier.ofNat ((s b).natAt (tcmLoc 0 0) 16)
    let last := { copy .inFlight with landed := [0] }
    t.plan.landing ≠ 0 ∧ t.plan.barrier ≠ 0 ∧ (∃ q u, (s (object 1 4 0)).reach 0 t t.plan.barrier .atomic = (.mem q, u) ∧ q.loc = tcmLoc 0 0) ∧ Memory.wf (s (object 1 4 0)).mem = true
      ∧ (s (object 1 4 0)).allCtxs.all (fun x => x.2.2.life != .waiting) = true
      ∧ (at' { object 1 4 0 with armed := false }).unarmed = true ∧ ((at' (object 1 4 0)).unarmed = false ∧ (at' (object 1 4 0)).bytes < 5)
      ∧ ((at' (object 0 4 0)).pending = 0 ∧ (at' (object 0 4 0)).bytes = 4 ∧ (at' (object 0 4 0)).active = true) ∧ (at' (object 1 4 0)).pending ≠ 0
      ∧ ({ copy .inFlight with shadow := (shadowOf 0).set 4 1 } : Transfer).live = true ∧ last.live = true := by
  refine ⟨by decide +kernel, by decide +kernel, ⟨_, _, rfl, by decide +kernel⟩, ?_⟩
  decide +kernel

/-- DrawsExceedancesAndTicketsAreMade, the streams: an owner whose stream has not started; a structure that it may ask. -/
theorem witness_streams :
    let s := tenant []
    (getT 0 s.streams ((1 * 2 ^ 32 + 0x00040000) * 2 ^ 16 + owner.id) = 0 ∧ owner.id < 2 ^ 16 ∧ s.owner? owner.id = some owner) ∧ (4 < 8 ∧ (1 < 2) ∧ (0x00040000 : Nat) < 2 ^ 32) := by
  decide +kernel

/-- CloaksAreComposedAndReleased: a thread that composes alone; two that contend, of which the cluster's arbiter draws one. -/
theorem witness_composers :
    let s := rank []
    let cells := [(0x20000, 0xEF), (0x20002, 0x80)]
    let two := ((((mapping (rank []) 0 cells).mapCore 1 fun c => { c with owner := 1, domain := 1, knum := 1, plbEn := true }).mapCore 0 fun c => { c with plbEn := true }).mapArch
      fun a => { a with pc := 0x10000 }).putKernel
      { kernel .running with held := [0, 1], groups := [{ index := 0, state := .running, cores := [0, 1], retired := [], lost := none }] }
    let a := { two with ctxs := [(64, { (rank []).ctx with arch := { Arch.zero with pc := 0x10000 }, chunk := Chunk.fresh Arch.zero })] }
    let b := a.switchTo 1 0
    let drawn := fun (c : State) => (c.chooseCtx 3 (instanceId (c.coreId / 128) 15 (c.coreId / 8 % 16)) c.composers).1
    encode (.compose 1 1) = [0xEF, 0, 0x80, 0] ∧ s.commitCur.composers = [s.commitCur.cur] ∧ (a.plain ∧ b.plain)
      ∧ (a.canCommit = true ∧ b.canCommit = true ∧ b.commitCur.cur = (1, 0)) ∧ drawn b.commitCur = some (0, 0) :=
  ⟨by decide +kernel, by decide +kernel, ⟨⟨rfl, rfl⟩, ⟨rfl, rfl⟩⟩, by decide +kernel, by decide +kernel⟩

/-- MemorySystemInstructionsAnswerAndLock, SHOOT and MIGRATE: an extent that meets a block of another context, and one's own block; a copy in flight to the page. -/
theorem witness_blocks :
    let s := ranged 3
    let x := { copy .inFlight with shadow := (shadowOf 0).set 1 0x10000, waiting := [(0, 1), (1, 1)] }
    let block := fun (core : Nat) => ({ s with blocks := [{ core := core, slot := 0, base := 0x10000, size := 65536, move := none }] } : State)
    let held := s.mapCore 1 fun c => { c with transfers := [x] }
    (s.plain ∧ (block 0).plain ∧ (block 1).plain ∧ held.plain) ∧ (s.commitCur.myBlock = false ∧ s.commitCur.shootWaits 0x10000 0x10000 = false)
      ∧ ((block 0).commitCur.myBlock = true ∧ (block 1).commitCur.myBlock = false ∧ (block 1).commitCur.shootWaits 0x10000 0x10000 = true)
      ∧ (∃ b ∈ (block 1).commitCur.blocks, extentsMeet b.base b.size page.va page.size = true)
      ∧ held.commitCur.copiesHold page.va page.size = true ∧ s.commitCur.copiesHold page.va page.size = false :=
  ⟨⟨⟨rfl, rfl⟩, ⟨rfl, rfl⟩, ⟨rfl, rfl⟩, ⟨rfl, rfl⟩⟩, by decide +kernel⟩

/-- SeamsCommitAndRollBack: a domain with a peer that has done its part and with one that has not, also once its seam is written; a lock that stands; a cached line with a
clean copy and with a dirty one alone; a flit that carries writes of a domain, and of none. -/
theorem witness_peers :
    let joined := fun (st : SeamState) (ready : List Nat) => { domain st with peers := [4], ready := ready }
    let s := fun (st : SeamState) (ready : List Nat) => ({ sealing (joined st ready) with kernels := [], ctxs := [] } : State)
    let gone := fun (st : SeamState) (ready : List Nat) => ({ s st ready with ctx := Context.free } : State)
    let paged := mapping (thread [])
    let cached := fun (cores : List Nat) (dirty : Bool) => ({ paged with coh := { paged.coh with holders := [(512, cores)], behind := if dirty then [(512, some (List.replicate 128 7))] else [] } } : State)
    let copyOf := fun (t : State) => 2 ≤ (getT [] t.coh.holders 512).length ∨ getT none t.coh.behind 512 = none
    let flit := fun (d : Nat) => ({ sealing (domain .opened) with links := { State.reset.links with writes := [{ carrying .sent with domain := d }] } } : State)
    ((gone .opened []).domain? 1 = some (joined .opened []) ∧ 4 ∈ (joined .opened []).peers ∧ 4 ∉ (joined .opened []).ready ∧ 4 ∈ (joined .opened [4]).ready
        ∧ (joined .rollingBack []).state = .rollingBack ∧ 5 ∉ (joined .opened []).peers)
      ∧ ((gone .opened []).domainKernels 1 = [] ∧ (gone .opened []).domainCtxs 1 = [] ∧ (joined .opened []).pending = none ∧ (gone .opened []).delayed = []
          ∧ (gone .opened []).links.writes = [])
      ∧ ((locked (sealing (domain .opened true))).lockStands = true ∧ (sealing (domain .opened true)).lockStands = false ∧ (sealing (domain .opened)).stoppingIn 1 = false)
      ∧ (copyOf (cached [0] false) ∧ copyOf (cached [0, 1] true) ∧ ¬ copyOf (cached [0] true) ∧ (cached [0] true).leafAt 0x20000 = some page)
      ∧ ((flit 1).links.writes.map (fun w => (w.domain, w.port)) = [(1, 5)] ∧ (flit 0).links.writes.map (·.domain) = [0] ∧ (flit 1).domain? 1 = some (domain .opened)) := by
  decide +kernel

/-- PartsAreRepaired: a domain on the core, one that rolls back, and an owner of the channel and of the slice whose domain does; MemoryRequests: a page of the owner. -/
theorem witness_unready :
    let r := (sealing (domain .rollingBack))
    let on := r.mapCore 3 fun c => { c with owner := 1, domain := 1, knum := 1 }
    (on.seamAt 3 = 1 ∧ (∀ i, i < 8 → (on.core (3 / 8 * 8 + i)).spared = false) ∧ on.domains = [domain .rollingBack])
      ∧ (r.allOwners.find? (fun o => o.channels.contains 0) = some owner ∧ owner.id = (domain .rollingBack).owner ∧ 0 ∉ r.platform.sparedPcs)
      ∧ (owner.slices.getD 0 0 / 2 ^ 0 % 2 = 1 ∧ (0, 0) ∉ r.platform.sparedSlices ∧ (r.platform.sparedSlices.filter fun x => x.1 == 0).length < 2 ∧ r.owner? 1 = some owner)
      ∧ (let s := mapping r
         page ∈ s.leavesBelow 4 0 s.ptRoot 0 ∧ page.domain = s.domainOf 1 ∧ page.home = 0 ∧ page.p = true ∧ 0 * 2 ^ 30 ≤ page.frame ∧ page.frame < 1 * 2 ^ 30) := by decide +kernel

/-- PortsAndFlitsFollowTheirRules: a port that has trained with the peer that is expected, with another one, and with no word of its peer. -/
theorem witness_mismatch :
    let e := fun (n : Nat) => ({ Port.reset with peer := some 3, expected := some n } : Port)
    (((ported 5 .training (e 3)).port 5).peer = ((ported 5 .training (e 3)).port 5).expected) ∧ (((ported 5 .training (e 4)).port 5).expected = some 4 ∧ ((ported 5 .training (e 4)).port 5).peer ≠ some 4)
      ∧ (({ State.reset with platform := { State.reset.platform with stage := 6 } } : State).port 5).state = .down ∧ State.reset.platform.stage ≠ 6 := by decide +kernel

/-- BringUpFollowsItsSteps and PlatformEventsActAsStated: a module with no bad rail, with the third bad, and with its rails up while it is in reset. -/
theorem witness_rails :
    let bad := fun (l : List Nat) (up : Nat) => ({ State.reset with platform := { State.reset.platform with bad := l, rails := up } } : State)
    ((bad [] 0).platform.stage = 0 ∧ (∀ m, 1 ≤ m → m ≤ 5 → m ∉ (bad [] 0).platform.bad)) ∧ ((2 : Nat) < 5 ∧ 2 + 1 ∈ (bad [3] 0).platform.bad ∧ ∀ m, 1 ≤ m → m ≤ 2 → m ∉ (bad [3] 0).platform.bad)
      ∧ ((5 : Nat) ≤ (bad [] 5).platform.rails ∧ (bad [3] 2).platform.rails < 3 ∧ 2 ≤ (bad [] 2).platform.rails ∧ (bad [] 1).platform.rails < 2 ∧ (105 : Nat) < 106) := by
  refine ⟨⟨rfl, fun m _ _ => List.not_mem_nil⟩, ⟨by decide, by decide, fun m h1 h2 => ?_⟩, by decide⟩
  show m ∉ [3]
  rw [List.mem_singleton]
  omega

end Sys2Proof.Tests
end

section
/-!
PROOFS. What an access does to what its core sees (00 R2, 09 R198): the homes and caches that it reaches change neither memory nor the executing context nor
an SWM copy, an L1D that evicts gives up clean copies alone, and a chunk's buffered bytes read back.
-/

namespace Sys2Proof.Machine

/-! ### Tables: membership, and a run of writes -/

/-- What a table holds is the default or a listed entry. -/
theorem mem_of_getT_ne {α : Type} {d : α} {t : Table α} {k : Nat} (h : getT d t k ≠ d) : (k, getT d t k) ∈ t := by
  induction t with
  | nil => exact absurd rfl h
  | cons p rest ih =>
    obtain ⟨k', v⟩ := p
    by_cases hk : k = k'
    · simp [getT, hk]
    · simp only [getT, if_neg hk] at h ⊢
      exact List.mem_cons_of_mem _ (ih h)

/-- A write lists no entry but its own. -/
theorem mem_setT {α : Type} [DecidableEq α] {d : α} {t : Table α} {k : Nat} {v : α} {e : Nat × α} (h : e ∈ setT d t k v) :
    e ∈ t ∨ e = (k, v) ∧ v ≠ d := by
  induction t with
  | nil =>
    simp only [setT] at h
    split at h
    · exact .inl h
    · exact .inr ⟨List.mem_singleton.mp h, ‹_›⟩
  | cons p rest ih =>
    obtain ⟨k', v'⟩ := p
    simp only [setT] at h
    split at h
    · split at h
      · exact .inl h
      · exact (List.mem_cons.mp h).symm.imp_right (⟨·, ‹_›⟩)
    · split at h
      · split at h
        · exact .inl (List.mem_cons_of_mem _ h)
        · exact (List.mem_cons.mp h).symm.imp (List.mem_cons_of_mem _) (⟨·, ‹_›⟩)
      · rcases List.mem_cons.mp h with rfl | h
        · exact .inl List.mem_cons_self
        · exact (ih h).imp_left (List.mem_cons_of_mem _)

/-- The bytes of a run stand in the chunk buffer, and no other entry is changed. -/
theorem getT_putWrites (w : Table (Option Byte)) (loc : Nat) (bs : List Byte) (j : Nat) :
    getT none (putWrites w loc bs) j = if loc ≤ j ∧ j < loc + bs.length then some (bs.getD (j - loc) 0) else getT none w j := by
  induction bs generalizing w loc with
  | nil => rw [if_neg (by simp only [List.length_nil]; omega)]; rfl
  | cons b bs ih =>
    simp only [putWrites, ih, List.length_cons]
    rcases Nat.lt_trichotomy j loc with hj | rfl | hj
    · rw [if_neg (by omega), if_neg (by omega), getT_setT_other _ _ (by omega)]
    · rw [if_neg (by omega), if_pos (by omega), getT_setT_new _ _ (by simp), Nat.sub_self]; rfl
    · obtain ⟨i, rfl⟩ : ∃ i, j = loc + 1 + i := ⟨j - (loc + 1), by omega⟩
      rw [getT_setT_other _ _ (by omega), show loc + 1 + i - loc = i + 1 by omega, Nat.add_sub_cancel_left, List.getD_cons_succ]
      exact ite_congr (propext (by omega)) (fun _ => rfl) fun _ => rfl

/-- Clearing parts keeps the canonical form of their table. -/
theorem wfT_clearParts {t : Table Nat} (h : wfT 0 t = true) (loc n : Nat) : wfT 0 (clearParts t loc n) = true := by
  induction n generalizing t loc with
  | zero => exact h
  | succ n ih => exact ih (wfT_setT h loc 0) (loc + 1)

/-- The bytes of a run are no packed parts any more, and no other byte's part is changed. -/
theorem getT_clearParts {t : Table Nat} (h : wfT 0 t = true) (loc n j : Nat) :
    getT 0 (clearParts t loc n) j = if loc ≤ j ∧ j < loc + n then 0 else getT 0 t j := by
  induction n generalizing t loc with
  | zero => rw [if_neg (by omega)]; rfl
  | succ n ih =>
    rw [clearParts, ih (wfT_setT h loc 0), getT_setT (risesT_of_wfT h)]
    by_cases hj : j = loc
    · subst hj
      rw [if_pos rfl, ite_self, if_pos (by omega)]
    · rw [if_neg hj]
      exact ite_congr (propext (by omega)) (fun _ => rfl) fun _ => rfl

/-! ### What the homes and arbiters change (10 R233, R234) -/

/-- The second state differs from the first in the homes' and caches' own state and in the arbiters' requests alone, and not in the cores' copies of SWM lines. -/
def State.sameButHomes (s t : State) : Prop := ∃ c r, c.swm = s.coh.swm ∧ t = { s with coh := c, arbRequests := r }

namespace State.sameButHomes

protected theorem refl (s : State) : s.sameButHomes s := ⟨s.coh, s.arbRequests, rfl, rfl⟩

protected theorem trans {s t u : State} (h : s.sameButHomes t) (k : t.sameButHomes u) : s.sameButHomes u := by
  obtain ⟨c, r, hc, rfl⟩ := h
  obtain ⟨c', r', hc', rfl⟩ := k
  exact ⟨c', r', hc'.trans hc, rfl⟩

protected theorem ite {s t u : State} {b : Prop} [Decidable b] (h : s.sameButHomes t) (k : s.sameButHomes u) : s.sameButHomes (if b then t else u) := by
  split
  · exact h
  · exact k

theorem mapCoh (s : State) (f : Coherence → Coherence) (h : (f s.coh).swm = s.coh.swm := by rfl) : s.sameButHomes (s.mapCoh f) :=
  ⟨f s.coh, s.arbRequests, h, rfl⟩

theorem ask (s : State) (structure_ die index owner : Nat) : s.sameButHomes (s.ask structure_ die index owner) :=
  ⟨s.coh, _, rfl, s.ask_eq structure_ die index owner⟩

theorem askIo (s : State) (die io owner : Nat) : s.sameButHomes (s.askIo die io owner) :=
  .ite (ask _ _ _ _ _) ((ask _ _ _ _ _).trans (ask _ _ _ _ _))

theorem askMemory (s : State) (owner line : Nat) : s.sameButHomes (s.askMemory owner line) := by
  unfold State.askMemory
  split
  · exact .ite (ask _ _ _ _ _) ((askIo _ _ _ _).trans (ask _ _ _ _ _))
  · exact .refl s

theorem crosses (s : State) (core home : Nat) : s.sameButHomes (s.crosses core home) :=
  .ite (ask _ _ _ _ _) ((ask _ _ _ _ _).trans (ask _ _ _ _ _))

theorem askHome (s : State) (line req : Nat) : s.sameButHomes (s.askHome line req) := (crosses _ _ _).trans (ask _ _ _ _ _)

theorem fillL2 (s : State) (line : Nat) : s.sameButHomes (s.fillL2 line) := by
  unfold State.fillL2
  split
  · exact .refl s
  · refine .ite (.refl s) (.trans ⟨_, s.arbRequests, ?_, rfl⟩ (askMemory _ _ _))
    repeat' split
    all_goals rfl

end State.sameButHomes

theorem Coherence.ite_swm {b : Prop} [Decidable b] {c d : Coherence} {t : Table (Option SwmLine)} (hc : c.swm = t) (hd : d.swm = t) :
    (if b then c else d).swm = t := by
  split
  · exact hc
  · exact hd

theorem Coherence.homeAct_swm (c : Coherence) (t : ProtoTable) (leased : Bool) (ev line req : Nat) : (c.homeAct t leased ev line req).swm = c.swm :=
  have written (c : Coherence) (b : Bool) : (if b then c.cleaned line else c).swm = c.swm := ite_swm rfl rfl
  ite_swm rfl (ite_swm rfl (ite_swm rfl (written (c.putDir t line _ _) _)))

namespace State.sameButHomes

theorem homeEvent (s : State) (ev line req : Nat) : s.sameButHomes (s.homeEvent ev line req) := by
  unfold State.homeEvent
  split
  · exact .refl s
  · exact (askHome _ _ _).trans (mapCoh _ _ (Coherence.homeAct_swm _ _ _ _ _ _))

theorem unbusy (s : State) (line : Nat) : s.sameButHomes (s.unbusy line) := by
  unfold State.unbusy
  refine .ite ?_ (.refl s)
  dsimp only
  split
  · exact ((mapCoh _ _).trans (mapCoh _ _)).trans (homeEvent _ _ _ _)
  · exact mapCoh _ _

theorem answered (s : State) (line : Nat) (data : Bool) : s.sameButHomes (s.answered line data) := (mapCoh _ _).trans (unbusy _ _)

theorem takeMsg (s : State) (m : ProtoMsg) : s.sameButHomes (s.takeMsg m) :=
  .trans (mapCoh s fun c => { c with msgs := c.msgs.erase m })
    (.ite ((mapCoh _ _).trans (mapCoh _ _)) (.ite (mapCoh _ _) (.ite (answered _ _ _) (.ite (answered _ _ _) (.refl _)))))

theorem settle (n : Nat) (s : State) : s.sameButHomes (State.settle n s) := by
  induction n generalizing s with
  | zero => exact .refl s
  | succ n ih =>
    unfold State.settle
    split
    · exact .refl s
    · exact (takeMsg _ _).trans (ih _)

theorem transact (s : State) (ev line req : Nat) : s.sameButHomes (s.transact ev line req) := (homeEvent _ _ _ _).trans (settle _ _)

theorem reportGone (s : State) (core line : Nat) : s.sameButHomes (s.reportGone core line) :=
  .trans (mapCoh s _) (.ite ((mapCoh _ _).trans (homeEvent _ _ _ _)) (homeEvent _ _ _ _))

theorem dropVictim (s : State) (core line : Nat) : s.sameButHomes (s.dropVictim core line) :=
  .ite (.refl s) (.trans (mapCoh s _) (.ite (.refl _) (reportGone _ _ _)))

theorem backInvalidate (s : State) (die line : Nat) : s.sameButHomes (s.backInvalidate die line) := by
  unfold State.backInvalidate
  split
  · exact (mapCoh _ _).trans (reportGone _ _ _)
  · exact .refl s

theorem fillFilter (s : State) (core line : Nat) : s.sameButHomes (s.fillFilter core line) := by
  unfold State.fillFilter
  refine .ite (.refl s) ?_
  split
  · exact .refl s
  · refine .ite (.refl s) ?_
    dsimp only
    split
    · exact (mapCoh _ _).trans (backInvalidate _ _ _)
    · exact mapCoh _ _

theorem own (s : State) (core line : Nat) : s.sameButHomes (s.own core line) := by
  unfold State.own
  exact .trans (.ite (.refl s) (transact _ _ _ _)) ((fillFilter _ _ _).trans (mapCoh _ _))

theorem cacheLoad (s : State) (core : Nat) (p : Place) (missed : Bool) : s.sameButHomes (s.cacheLoad core p missed) := by
  have asked (b : Prop) [Decidable b] : s.sameButHomes (if b then s else s.transact evGets p.lineKey core) := .ite (.refl s) (transact _ _ _ _)
  exact .ite (.refl s) (.ite (.ite (transact _ _ _ _) (.refl s)) (.ite (.refl s)
    (.ite (.ite (.refl s) ((asked _).trans (mapCoh _ _))) ((asked _).trans ((fillFilter _ _ _).trans (mapCoh _ _))))))

theorem cacheStore (s : State) (core : Nat) (p : Place) : s.sameButHomes (s.cacheStore core p) :=
  .ite (.refl s) (.ite (own _ _ _) (.ite (cacheLoad _ _ _ _) (.refl s)))

end State.sameButHomes

/-! ### Clean SWM copies (10 R237) -/

/-- Every SWM copy is clean, and the executing core's hold what memory holds. -/
def State.copiesClean (s : State) : Prop :=
  ∀ k l, (k, some l) ∈ s.coh.swm → l.dirty = [] ∧ ∀ line, k = s.coreId * 2 ^ 64 + line → l.clean = s.bytesAt (128 * line) 128

theorem State.copiesClean_of_no_copies {s : State} (h : s.coh.swm = []) : s.copiesClean := fun k l hk => by simp [h] at hk

theorem State.getD_bytesAt (s : State) {i n : Nat} (hi : i < n) (loc : Nat) (d : Byte) : (s.bytesAt loc n).getD i d = s.byteAt (loc + i) := by
  simp [State.bytesAt, List.getD_eq_getElem?_getD, hi]

/-- Under a clean copy or none, a core sees committed memory. -/
theorem State.copiesClean.underByte {s : State} (h : s.copiesClean) (kind loc : Nat) : s.underByte kind loc = s.byteAt loc := by
  unfold State.underByte
  split
  · split
    · next l hl =>
      have hne : getT none s.coh.swm (s.coreId * 2 ^ 64 + loc / 128) ≠ none := by rw [hl]; exact Option.some_ne_none l
      obtain ⟨hd, hc⟩ := h _ l (hl ▸ mem_of_getT_ne hne)
      rw [hd, hc _ rfl, getT_nil, Option.getD_none, s.getD_bytesAt (Nat.mod_lt loc (by decide)), Nat.div_add_mod]
    · rfl
  · rfl

/-! ### What an access leaves as its core sees it (09 R198) -/

/-- Memory, the executing thread's registers and its chunk's bytes are the same in both states, and copies that were clean are clean. -/
structure State.sameSight (s t : State) : Prop where
  mem : t.mem = s.mem
  cur : t.cur = s.cur
  arch : t.ctx.arch = s.ctx.arch
  writes : t.ctx.chunk.writes = s.ctx.chunk.writes
  parts : t.ctx.chunk.parts = s.ctx.chunk.parts
  clean : s.copiesClean → t.copiesClean

namespace State.sameSight

protected theorem refl (s : State) : s.sameSight s := ⟨rfl, rfl, rfl, rfl, rfl, id⟩

protected theorem trans {s t u : State} (h : s.sameSight t) (k : t.sameSight u) : s.sameSight u :=
  ⟨k.mem.trans h.mem, k.cur.trans h.cur, k.arch.trans h.arch, k.writes.trans h.writes, k.parts.trans h.parts, k.clean ∘ h.clean⟩

protected theorem ite {s t u : State} {b : Prop} [Decidable b] (h : b → s.sameSight t) (k : ¬ b → s.sameSight u) : s.sameSight (if b then t else u) := by
  split
  · exact h ‹_›
  · exact k ‹_›

/-- Every byte reads as before. -/
theorem seenByte {s t : State} (h : s.sameSight t) (hs : s.copiesClean) (kind loc : Nat) : t.seenByte kind loc = s.seenByte kind loc := by
  simp only [State.seenByte, hs.underByte, (h.clean hs).underByte, State.byteAt, h.mem, h.writes, h.parts]

/-- The second state holds no copy that the first does not, and is the same in what else a core sees. -/
theorem of_no_new_copy {s t : State} (mem : t.mem = s.mem) (cur : t.cur = s.cur) (arch : t.ctx.arch = s.ctx.arch)
    (writes : t.ctx.chunk.writes = s.ctx.chunk.writes) (parts : t.ctx.chunk.parts = s.ctx.chunk.parts)
    (swm : ∀ k l, (k, some l) ∈ t.coh.swm → (k, some l) ∈ s.coh.swm) : s.sameSight t :=
  ⟨mem, cur, arch, writes, parts, fun hs k l hk => by
    simpa only [State.coreId, State.bytesAt, State.byteAt, cur, mem] using hs k l (swm k l hk)⟩

theorem of_sameButHomes {s t : State} (h : s.sameButHomes t) : s.sameSight t := by
  obtain ⟨c, r, hc, rfl⟩ := h
  exact of_no_new_copy rfl rfl rfl rfl rfl fun _ _ hk => hc ▸ hk

/-- A change of the chunk that leaves its bytes. -/
theorem mapChunk (s : State) {f : Chunk → Chunk} (writes : (f s.ctx.chunk).writes = s.ctx.chunk.writes) (parts : (f s.ctx.chunk).parts = s.ctx.chunk.parts) :
    s.sameSight (s.mapChunk f) :=
  of_no_new_copy rfl rfl rfl writes parts fun _ _ hk => hk

/-- Waking the SLEEPs that watch an evicted line changes no context but in what it waits for. -/
theorem wakeEvicted (s : State) (core line : Nat) : s.sameSight (s.wakeEvicted core line) := by
  unfold State.wakeEvicted
  dsimp only
  split
  · exact .refl s
  · refine of_no_new_copy rfl rfl ?_ ?_ ?_ fun _ _ hk => hk
    all_goals
      rw [State.mapCtxs_ctx]
      split <;> rfl

/-- A core's new copy of an SWM line is made from memory, so that nothing reads otherwise. -/
theorem putSwm_made {s : State} {line : Nat} (vline : Nat) (h : getT none s.coh.swm (s.coreId * 2 ^ 64 + line) = none) :
    s.sameSight (s.putSwm s.coreId line (s.swmCopy line vline)) := by
  refine ⟨rfl, rfl, rfl, rfl, rfl, fun hs k l hk => ?_⟩
  rcases mem_setT hk with hk | ⟨hk, -⟩
  · exact hs k l hk
  · obtain ⟨rfl, hl⟩ := Prod.mk.inj hk
    rw [Option.some.inj hl, State.swmCopy, h]
    exact ⟨rfl, fun line' he => Nat.add_left_cancel he ▸ rfl⟩

end State.sameSight

/-- Writing back a clean copy writes nothing: dropping the copy then is all that is done. -/
theorem State.swmWriteLine_dropped {s : State} {l : SwmLine} (h : l.dirty = []) (k : Nat) :
    ((s.swmWriteLine (k / 2 ^ 64) (k % 2 ^ 64) l).mapCoh fun c => { c with swm := setT none c.swm k none })
      = s.mapCoh fun c => { c with swm := setT none c.swm k none } := by
  have hk : k / 2 ^ 64 * 2 ^ 64 + k % 2 ^ 64 = k := Nat.div_add_mod' k (2 ^ 64)
  simp only [State.swmWriteLine, h, List.isEmpty_nil, if_true, List.foldl_nil, State.putSwm, hk, State.mapCoh]
  rw [setT_setT _ _ _ (Option.some_ne_none _)]

namespace State.sameSight

/-- An L1D that evicts a line gives up clean copies alone, where all are clean. -/
theorem evictL1 {s : State} (hs : s.copiesClean) (core line : Nat) : s.sameSight (s.evictL1 core line) := by
  unfold State.evictL1
  refine .trans ?_ ((of_sameButHomes (.dropVictim _ _ _)).trans (wakeEvicted _ _ _))
  refine List.foldlRecOn (motive := s.sameSight) _ _ (.refl s) ?_
  rintro t ht ⟨k, l⟩ hkl
  have hd : l.dirty = [] := by
    obtain ⟨⟨k', l'⟩, hm, he⟩ := List.mem_filterMap.mp hkl
    obtain ⟨l'', rfl, he⟩ := Option.bind_eq_some_iff.mp he
    obtain ⟨-, he⟩ := Option.ite_none_right_eq_some.mp he
    obtain ⟨rfl, rfl⟩ := Prod.mk.inj (Option.some.inj he)
    exact (hs _ _ hm).1
  dsimp only
  rw [State.swmWriteLine_dropped hd]
  refine ht.trans (of_no_new_copy rfl rfl rfl rfl rfl fun k' l' hk => ?_)
  rcases mem_setT hk with hk | ⟨-, hk⟩
  · exact hk
  · exact absurd rfl hk

theorem fillL1 {s : State} (hs : s.copiesClean) (line : Nat) : s.sameSight (s.fillL1 line) := by
  have filled (f : Coherence → Coherence) (hf : (f s.coh).swm = s.coh.swm) (core home : Nat) :
      s.sameSight (((s.mapCoh f).crosses core home).fillL2 line) :=
    of_sameButHomes ((State.sameButHomes.mapCoh s f hf).trans ((State.sameButHomes.crosses _ _ _).trans (.fillL2 _ _)))
  unfold State.fillL1
  dsimp only
  split
  · exact .refl s
  · split
    · exact (filled _ rfl _ _).trans (evictL1 ((filled _ rfl _ _).clean hs) _ _)
    · exact filled _ rfl _ _

/-- An access that reaches global memory fills its line, and any other access nothing. -/
theorem fills {s t : State} (hs : s.copiesClean) (h : s.sameSight t) (p : Place) : s.sameSight (if p.fills then t.fillL1 p.lineKey else t) :=
  .ite (fun _ => h.trans (fillL1 (h.clean hs) _)) fun _ => h

/-- Reading changes nothing that its core sees. -/
theorem noteRead {s : State} (hs : s.copiesClean) (p : Place) : s.sameSight (s.noteRead p) := by
  unfold State.noteRead
  refine .trans (fills hs ?_ p) (of_sameButHomes (.cacheLoad _ _ _ _))
  refine .ite (fun h => ?_) fun _ => mapChunk s (by rfl) (by rfl)
  exact .trans (mapChunk s (by rfl) (by rfl)) (putSwm_made _ (Option.isNone_iff_eq_none.mp h.2.2))

end State.sameSight

/-! ### Bytes in the chunk -/

/-- A run of whole bytes goes into the executing thread's chunk: what a write does that its core sees (`State.sameSight.noteWrite`). -/
def State.putBytes (s : State) (loc : Nat) (bytes : List Byte) : State :=
  s.mapChunk fun c => { c with writes := putWrites c.writes loc bytes, parts := clearParts c.parts loc bytes.length }

/-- The run's own bytes are seen, and every other as before (09 R198). -/
theorem State.seenByte_putBytes {s : State} (hp : wfT 0 s.ctx.chunk.parts = true) (loc : Nat) (bytes : List Byte) (kind j : Nat) :
    (s.putBytes loc bytes).seenByte kind j = if loc ≤ j ∧ j < loc + bytes.length then bytes.getD (j - loc) 0 else s.seenByte kind j := by
  simp only [State.seenByte, State.putBytes, State.mapChunk_ctx, getT_putWrites, getT_clearParts hp]
  by_cases hj : loc ≤ j ∧ j < loc + bytes.length
  · simp only [if_pos hj, mergeBits, Nat.zero_mod, if_true]
  · simp only [if_neg hj]
    rfl

/-- A write changes nothing that its core sees but the bytes that it puts into its chunk. -/
theorem State.sameSight.noteWrite {s : State} (hs : s.copiesClean) (p : Place) (bytes : List Byte) (tag : Nat) :
    (s.putBytes p.loc bytes).sameSight (s.noteWrite p bytes tag) := by
  have hs : (s.putBytes p.loc bytes).copiesClean := hs
  unfold State.noteWrite
  refine .trans (fills hs ?_ p) (of_sameButHomes (.cacheStore _ _ _))
  exact ⟨rfl, rfl, rfl, rfl, rfl, id⟩

/-- Settles O9: an access keeps what its core sees (`State.sameSight`), and a write adds its bytes to the chunk. -/
theorem bytesReadBackAndNoOthersChange : Obligations.BytesReadBackAndNoOthersChange := by
  refine ⟨fun s p bytes tag k hs hp => ?_, fun s p k loc hs => ?_⟩
  · have hs := State.copiesClean_of_no_copies hs
    have h := State.sameSight.noteWrite hs p bytes tag
    have seen (j : Nat) := (h.seenByte hs k j).trans (State.seenByte_putBytes hp p.loc bytes k j)
    refine ⟨fun i hi => ?_, fun loc hl => ?_, h.arch, h.mem, ?_, rfl⟩
    · rw [seen, if_pos (by omega), Nat.add_sub_cancel_left]
    · rw [seen, if_neg (by omega)]
    · rw [h.parts]
      exact wfT_clearParts hp p.loc bytes.length
  · have hs := State.copiesClean_of_no_copies hs
    have h := State.sameSight.noteRead hs p
    exact ⟨h.seenByte hs k loc, h.arch, h.mem⟩

end Sys2Proof.Machine
end

section
/-!
PROOFS. Scalar floating point (04 R84 to R87, 05 R115 to R121): what each form writes and raises, where its flags trap nothing; the exact sums and
products; and the patterns of a format, which its rounding gives back.
-/

namespace Sys2Proof.Machine

/-! ### Flags and their traps (04 R84) -/

/-- The trap enables of CR_FCSR (04 R84). -/
theorem Arch.enabled_eq (a : Arch) (f : Flags) : a.enabled f = f &&& a.fcsr.extractLsb' 8 5 := by
  have bits : BitVec.ofNat 5 (bitsOf a.fcsr 8 5) = a.fcsr.extractLsb' 8 5 :=
    BitVec.eq_of_toNat_eq (by simp [bitsOf, Nat.shiftRight_eq_div_pow])
  rw [Arch.enabled, bits]

/-- Raising flags changes no trap enable. -/
@[simp] theorem Arch.enabled_raiseFlags (a : Arch) (f g : Flags) : (a.raiseFlags g).enabled f = a.enabled f := by
  have high : (g.setWidth 64).extractLsb' 8 5 = 0#5 := by ext i hi; simp [BitVec.getLsbD_of_ge g (8 + i) (by omega)]
  simp [Arch.enabled_eq, Arch.raiseFlags, BitVec.extractLsb'_or, high]

/-- A floating-point instruction of a running thread that raises no flag whose trap is enabled adds its flags and completes (06 R147). -/
theorem completeFp_untrapped {i : Instr} {m : M (Flags × Nat)} {len elem : Nat} {la : BitVec 4} {dest : Dest} {s t : State} {f : Flags}
    (hm : m s = .ok ((f, elem), t)) (hf : t.ctx.arch.enabled f = 0) :
    completeFp i m len la dest s = .next ((t.mapArch (·.raiseFlags f)).retiredLong len la dest) := by
  simp [completeFp, hm, hf]

/-! ### What each form does before its flags are looked at (05 R115 to R121) -/

/-- The mode that a form names is the one it rounds in (05 R116). -/
theorem fpMode_of_modeCode {s : State} {rm : BitVec 3} {m : RMode} (h : modeCode s rm < 5) (hm : RMode.ofCode (modeCode s rm) = some m) :
    fpMode rm s = .ok (m, s) := by
  have code : (if rm = 7 then bitsOf s.ctx.arch.fcsr 5 3 else rm.toNat) = modeCode s rm := rfl
  simp only [fpMode, code, if_neg (Nat.not_le.mpr h), hm]

theorem nvIf_eq (b : Bool) : nvIf b = if b then 16 else 0 := rfl

@[simp] theorem run_fpWrite (rd : Reg) (r : Word × Flags) (s : State) : fpWrite rd r s = .ok ((r.2, 0), s.setReg rd r.1) := by
  simp [fpWrite]

/-- The instruction's meaning writes the form's value to rd and leaves the form's flags to be raised; its window is the form's. -/
def State.writesFp (s : State) (rd : Reg) (f : Instr × BitVec 4 × Word × Flags) : Prop :=
  ∃ m, exec f.1 s = completeFp f.1 m 4 f.2.1 (.reg rd) s ∧ m s = .ok ((f.2.2.2, 0), s.setReg rd f.2.2.1)

/-- The forms with a rounding mode round their exact result once, in the mode they name (05 R117, R120, R121). -/
theorem State.plain.writesFp_of_mem_roundedForms {s : State} (h : s.plain) {rm : BitVec 3} {m : RMode} (hm : fpMode rm s = .ok (m, s)) (rd a b : Reg)
    (fmt : BitVec 2) (la : BitVec 4) (w32 uns dbl : Bool) : ∀ f ∈ roundedForms s rd a b rm fmt la w32 uns dbl m, s.writesFp rd f := by
  simp only [roundedForms, List.forall_mem_cons]
  refine ⟨⟨_, rfl, ?fadd⟩, ⟨_, rfl, ?fsub⟩, ⟨_, rfl, ?fmul⟩, ⟨_, rfl, ?fmac⟩, ⟨_, rfl, ?fdiv⟩, ⟨_, rfl, ?fsqrt⟩, ⟨_, rfl, ?fcvtFI⟩, ⟨_, rfl, ?fcvtIF⟩,
    ⟨_, rfl, ?fcvtFF⟩, List.forall_mem_nil _⟩
  all_goals simp [hm, h.rdReg, isDbl, nvIf_eq]

/-- The forms without one (05 R118, R119). -/
theorem State.plain.writesFp_of_mem_plainForms {s : State} (h : s.plain) (rd a b : Reg) (fmt j : BitVec 2) :
    ∀ f ∈ plainForms s rd a b fmt j, s.writesFp rd f := by
  simp only [plainForms, List.forall_mem_cons]
  refine ⟨⟨_, rfl, ?fmin⟩, ⟨_, rfl, ?fmax⟩, ⟨_, rfl, ?fsgnj⟩, ⟨_, rfl, ?feq⟩, ⟨_, rfl, ?flt⟩, ⟨_, rfl, ?fle⟩, List.forall_mem_nil _⟩
  all_goals simp [h.rdReg, isDbl]

/-- Where none of its flags has its trap enabled, the form's value stands in rd and its flags in CR_FCSR, and the next instruction follows. -/
theorem State.writesFp.exec_untrapped {s : State} {rd : Reg} {f : Instr × BitVec 4 × Word × Flags} (h : s.writesFp rd f)
    (hf : s.ctx.arch.enabled f.2.2.2 = 0) :
    exec f.1 s = .next (((s.setReg rd f.2.2.1).mapArch (·.raiseFlags f.2.2.2)).retiredLong 4 f.2.1 (.reg rd)) := by
  obtain ⟨m, he, hm⟩ := h
  exact he.trans (completeFp_untrapped hm hf)

/-- Settles O12: each form's meaning writes its value (`State.writesFp`), and no flag that it raises traps. -/
theorem floatingPointWritesItsResult : Obligations.FloatingPointWritesItsResult := by
  intro s rd a b rm fmt j la w32 uns dbl m hs
  refine ⟨fun hc hm f hf ht => ?_, fun f hf ht => ?_, ?_⟩
  · exact (hs.writesFp_of_mem_roundedForms (fpMode_of_modeCode hc hm) _ _ _ _ _ _ _ _ f hf).exec_untrapped ht
  · exact (hs.writesFp_of_mem_plainForms _ _ _ _ _ f hf).exec_untrapped ht
  · apply complete_ok
    simp [hs.rdReg, isDbl]

/-! ### Exact sums and products (04 R85, 05 R117) -/

/-- A magnitude with its sign. -/
def withSign (neg : Bool) (n : Nat) : Int := if neg then -(n : Int) else n

/-- A finite value counts its significand, brought to the exponent. -/
theorem multipleOf_fin (k : Int) (neg : Bool) (m : Nat) (e : Int) : multipleOf k (.fin neg m e) = withSign neg (alignTo m e k) := by
  cases neg <;> simp [multipleOf, withSign, alignTo]

theorem alignTo_self (m : Nat) (e : Int) : alignTo m e e = m := by simp [alignTo]

/-- An integer is its magnitude with its sign. -/
theorem withSign_natAbs (v : Int) : withSign (decide (v < 0)) v.natAbs = v := by
  simp only [withSign, decide_eq_true_eq]
  split <;> omega

/-- The sign of a product is the XOR of the signs. -/
theorem withSign_mul (a b : Bool) (m n : Nat) : withSign (a != b) (m * n) = withSign a m * withSign b n := by
  cases a <;> cases b <;> simp only [withSign, Bool.bne_true, Bool.bne_false, Bool.not_true, Bool.not_false, Bool.false_eq_true,
    if_true, if_false, Int.natCast_mul, Int.neg_mul, Int.mul_neg, Int.neg_neg]

/-- A sum of finite values is that of their counts of the lower exponent; the mode signs a zero (04 R86). -/
theorem Val.add_fin (mode : RMode) (a b : Bool) (m n : Nat) (e k : Int) :
    Val.add mode (.fin a m e) (.fin b n k) =
      (let v := withSign a (alignTo m e (min e k)) + withSign b (alignTo n k (min e k))
       if v = 0 then (.zero (mode == .rdn), 0) else (.fin (v < 0) v.natAbs (min e k), 0)) := rfl

/-- The sum of finite values is exact, and raises nothing. -/
theorem Val.add_fin_exact (mode : RMode) (a b : Bool) (m n : Nat) (e k : Int) :
    multipleOf (min e k) (Val.add mode (.fin a m e) (.fin b n k)).1 = multipleOf (min e k) (.fin a m e) + multipleOf (min e k) (.fin b n k)
      ∧ (Val.add mode (.fin a m e) (.fin b n k)).2 = 0 := by
  rw [Val.add_fin, multipleOf_fin, multipleOf_fin]
  generalize withSign a _ + withSign b _ = v
  dsimp only
  split
  case isTrue zero => exact ⟨zero.symm, rfl⟩
  case isFalse => exact ⟨by rw [multipleOf_fin, alignTo_self, withSign_natAbs], rfl⟩

/-- The product of finite values is exact, and raises nothing. -/
theorem Val.mul_fin_exact (a b : Bool) (m n : Nat) (e k : Int) :
    multipleOf (e + k) (Val.mul (.fin a m e) (.fin b n k)).1 = multipleOf e (.fin a m e) * multipleOf k (.fin b n k)
      ∧ (Val.mul (.fin a m e) (.fin b n k)).2 = 0 := by
  simp only [Val.mul, multipleOf_fin, alignTo_self, withSign_mul, and_self]

/-! ### Patterns that round to themselves (04 R79, R86) -/

/-- A format laid out as IEEE 754 lays its binary formats out: the exponent field of all ones holds the infinity and the NaNs, and the largest finite
value is the one below them (04 R79). -/
structure FloatSpec.Ieee (f : FloatSpec) : Prop where
  inf : f.inf? = some (((f.qmax - f.emin).toNat + 2) * 2 ^ f.frac)
  maxN : f.maxN + 1 = 2 ^ (f.frac + 1)
  range : f.emin ≤ f.qmax

theorem specFp32_ieee : specFp32.Ieee := ⟨rfl, rfl, by decide⟩
theorem specFp64_ieee : specFp64.Ieee := ⟨rfl, rfl, by decide⟩
theorem specBf16_ieee : specBf16.Ieee := ⟨rfl, rfl, by decide⟩

/-- Whether a pattern's sign bit is set. -/
def FloatSpec.negBit (f : FloatSpec) (bits : Nat) : Bool := bits / 2 ^ f.signBit % 2 == 1

/-- A pattern is its sign bit and its body. -/
theorem FloatSpec.sign_add_body (f : FloatSpec) {bits : Nat} (h : bits < 2 ^ (f.signBit + 1)) :
    (if f.negBit bits then 2 ^ f.signBit + bits % 2 ^ f.signBit else bits % 2 ^ f.signBit) = bits := by
  have hd : bits / 2 ^ f.signBit < 2 := Nat.div_lt_of_lt_mul (by rwa [← Nat.pow_succ])
  have hb := Nat.div_add_mod bits (2 ^ f.signBit)
  unfold FloatSpec.negBit
  rcases Nat.le_one_iff_eq_zero_or_eq_one.mp (Nat.lt_succ_iff.mp hd) with h0 | h1
  · simp only [h0] at hb ⊢; simpa using hb
  · simp only [h1] at hb ⊢; simpa using hb

/-- A significand that needs no rounding is its own count. -/
theorem roundTo_exact {e q : Int} (h : q ≤ e) (mode : RMode) (t : Nat) (neg : Bool) (m : Nat) :
    roundTo mode t neg m e q = (m * 2 ^ (e - q).toNat, false) := if_pos h

/-- A finite value whose significand fits the format, at an exponent between the format's least and its largest, is delivered exactly, where the
significand is a normal one or the exponent the least. -/
theorem FloatSpec.deliver_fin {f : FloatSpec} (hf : f.Ieee) (mode : RMode) (t : Nat) (neg : Bool) {m : Nat} {e : Int} (h0 : m ≠ 0)
    (hm : m < 2 ^ (f.frac + 1)) (he : f.emin ≤ e) (hq : e ≤ f.qmax) (hn : 2 ^ f.frac ≤ m ∨ e = f.emin) :
    f.deliver mode t (.fin neg m e)
      = (if neg then 2 ^ f.signBit + (m + (e - f.emin).toNat * 2 ^ f.frac) else m + (e - f.emin).toNat * 2 ^ f.frac, 0) := by
  have hlog : m.log2 ≤ f.frac := Nat.lt_succ_iff.mp ((Nat.log2_lt h0).mpr hm)
  have hnorm : 2 ^ f.frac ≤ m → f.frac ≤ m.log2 := (Nat.le_log2 h0).mpr
  have spacing : max ((m.log2 : Int) + e - f.frac) f.emin = e := by omega
  have fits : ¬ (f.qmax < e ∨ (e = f.qmax ∧ f.maxN < m)) := by have := hf.maxN; omega
  simp [FloatSpec.deliver, spacing, roundTo_exact, fits]

/-- The value of a pattern of a format with infinities, by what its body holds (04 R79, R80). -/
theorem FloatSpec.value_eq {f : FloatSpec} {i : Nat} (hi : f.inf? = some i) (bits : Nat) :
    f.value bits =
      (let body := bits % 2 ^ f.signBit
       if i < body then .nan (f.signals && body / 2 ^ (f.frac - 1) % 2 == 0)
       else if body = i then .inf (f.negBit bits)
       else if body / 2 ^ f.frac = 0 then .mk (f.negBit bits) (body % 2 ^ f.frac) f.emin
       else .fin (f.negBit bits) (2 ^ f.frac + body % 2 ^ f.frac) (f.emin + (body / 2 ^ f.frac : Nat) - 1)) := by
  simp [FloatSpec.value, hi, FloatSpec.negBit, eq_comm]

/-- The value of a body below infinity's, with either sign, is delivered as that body with that sign, and raises nothing. -/
theorem FloatSpec.deliver_finite {f : FloatSpec} (hf : f.Ieee) (mode : RMode) (t : Nat) (neg : Bool) {body : Nat}
    (below : body < ((f.qmax - f.emin).toNat + 2) * 2 ^ f.frac) :
    f.deliver mode t (if body / 2 ^ f.frac = 0 then .mk neg (body % 2 ^ f.frac) f.emin
        else .fin neg (2 ^ f.frac + body % 2 ^ f.frac) (f.emin + (body / 2 ^ f.frac : Nat) - 1))
      = (if neg then 2 ^ f.signBit + body else body, 0) := by
  have halves := Nat.div_add_mod' body (2 ^ f.frac)
  have low : body % 2 ^ f.frac < 2 ^ f.frac := Nat.mod_lt _ (Nat.two_pow_pos _)
  have high : body / 2 ^ f.frac < (f.qmax - f.emin).toNat + 2 := Nat.div_lt_of_lt_mul (by rwa [Nat.mul_comm])
  have top : 2 ^ (f.frac + 1) = 2 * 2 ^ f.frac := Nat.pow_succ'
  have range := hf.range
  generalize body / 2 ^ f.frac = field at *
  generalize body % 2 ^ f.frac = fraction at *
  cases field with
  | zero =>
    obtain rfl : fraction = body := by omega
    rw [if_pos rfl, Val.mk]
    by_cases zero : fraction = 0
    · simp [FloatSpec.deliver, zero]
    · simp [zero, f.deliver_fin hf mode t neg zero (by omega) (Int.le_refl _) range (.inr rfl)]
  | succ n =>
    have place : (f.emin + ((n + 1 : Nat) : Int) - 1 - f.emin).toNat = n := by omega
    have count : 2 ^ f.frac + fraction + n * 2 ^ f.frac = body := by rw [← halves, Nat.succ_mul]; omega
    rw [if_neg n.succ_ne_zero, f.deliver_fin hf mode t neg (by omega) (by omega) (by omega) (by omega) (.inl (by omega)), place, count]

/-- Every pattern that is no NaN is delivered as itself, and raises nothing. -/
theorem FloatSpec.deliver_value {f : FloatSpec} (hf : f.Ieee) (mode : RMode) (t : Nat) {bits : Nat} (hb : bits < 2 ^ (f.signBit + 1))
    (hn : (f.value bits).isNan = false) : f.deliver mode t (f.value bits) = (bits, 0) := by
  have self := f.sign_add_body hb
  rw [FloatSpec.value_eq hf.inf] at hn ⊢
  generalize bits % 2 ^ f.signBit = body at *
  dsimp only at hn ⊢
  rcases Nat.lt_trichotomy body (((f.qmax - f.emin).toNat + 2) * 2 ^ f.frac) with below | infinity | above
  · rw [if_neg (Nat.lt_asymm below), if_neg (Nat.ne_of_lt below), f.deliver_finite hf mode t _ below, self]
  · rw [if_neg (Nat.not_lt_of_ge (Nat.le_of_eq infinity)), if_pos infinity]
    simp only [FloatSpec.deliver, hf.inf, ← infinity, self]
  · rw [if_pos above] at hn
    cases hn

/-- The canonical NaN stands for every NaN (04 R80). -/
theorem FloatSpec.deliver_nan (f : FloatSpec) (mode : RMode) (t : Nat) {x : Val} (h : x.isNan = true) : f.deliver mode t x = (f.nan, 0) := by
  cases x with
  | nan => rfl
  | inf | zero | fin => cases h

/-- Settles O13: sums and products of significands are exact, and the significand of a format's own pattern needs no rounding there. -/
theorem resultsAreRoundedOnceFromExactValues : Obligations.ResultsAreRoundedOnceFromExactValues := by
  refine ⟨fun mode a b m n e k => ?_, fun mode t bits f hf => ⟨fun hn => ?_, f.deliver_nan mode t⟩⟩
  · obtain ⟨sum, quiet⟩ := Val.add_fin_exact mode a b m n e k
    exact ⟨sum, quiet, Val.mul_fin_exact a b m n e k⟩
  · obtain ⟨rfl, hb⟩ | ⟨rfl, hb⟩ | ⟨rfl, hb⟩ := hf
    · exact specFp32.deliver_value specFp32_ieee mode t hb hn
    · exact specFp64.deliver_value specFp64_ieee mode t hb hn
    · exact specBf16.deliver_value specBf16_ieee mode t hb hn

end Sys2Proof.Machine
end

section
/-!
PROOFS. Integer instructions on registers (05 R105 to R107): what the bit counts and the reversal compute, that each member is its table row, the quotients and
remainders in their corners, and the words of the OP and MULDIV formats.
-/

namespace Sys2Proof.Machine

/-! ### The word of an instruction, and the value that it writes -/

/-- The bytes of an instruction are those of its word. -/
theorem encode_of_word {i : Instr} {w v n : Nat} (h : i.word = some w) (hn : i.len = n) (hv : w = v) : encode i = wordBytes n v := by
  rw [encode, h, hn, hv]

/-- An instruction of one source writes its function's value to rd. -/
theorem State.plain.unary_eq {s : State} (h : s.plain) {i : Instr} {rd a : Reg} {f : Word → Word} {v : Word} (hv : f (s.x a) = v) :
    unary i rd a f s = .next ((s.setReg rd v).retired i.len) := hv ▸ unary_plain h i rd a f

/-- An instruction of two sources writes its function's value to rd. -/
theorem State.plain.binary_eq {s : State} (h : s.plain) {i : Instr} {rd a b : Reg} {f : Word → Word → Word} {v : Word} (hv : f (s.x a) (s.x b) = v) :
    binary i rd a b f s = .next ((s.setReg rd v).retired i.len) := hv ▸ binary_plain h i rd a b f

/-- A long-latency instruction of two sources writes its function's value to rd. -/
theorem State.plain.binaryLong_eq {s : State} (h : s.plain) {i : Instr} {rd a b : Reg} {la : BitVec 4} {f : Word → Word → Word} {v : Word}
    (hv : f (s.x a) (s.x b) = v) : binaryLong i rd a b la f s = .next ((s.setReg rd v).retiredLong i.len la (.reg rd)) :=
  hv ▸ binaryLong_plain h i rd a b la f

/-! ### Counting and reversing bits (05 R105) -/

/-- The count of trailing zeros stops at the first one bit from bit k on, or at the end of the n bits. -/
theorem ctzFrom_spec (a n k : Nat) :
    ctzFrom a n k ≤ k + n ∧ (ctzFrom a n k < k + n → a.testBit (ctzFrom a n k) = true)
      ∧ ∀ j, k ≤ j → j < ctzFrom a n k → a.testBit j = false := by
  induction n generalizing k with
  | zero => exact ⟨Nat.le_refl _, fun h => absurd h (Nat.lt_irrefl _), fun j hk hj => absurd hj (Nat.not_lt.mpr hk)⟩
  | succ n ih =>
    have bit : a.testBit k = decide (a / 2 ^ k % 2 = 1) := Nat.testBit_eq_decide_div_mod_eq
    unfold ctzFrom
    split
    case isTrue one => exact ⟨by omega, fun _ => by rw [bit, decide_eq_true one], fun j hk hj => absurd hj (Nat.not_lt.mpr hk)⟩
    case isFalse zero =>
      obtain ⟨stops, found, below⟩ := ih (k + 1)
      refine ⟨by omega, fun h => found (by omega), fun j hk hj => ?_⟩
      rcases Nat.eq_or_lt_of_le hk with rfl | hk
      · rw [bit, decide_eq_false zero]
      · exact below j hk hj

/-- The sum of the low n bits counts those that are ones. -/
theorem popcN_eq_length_filter (n v : Nat) : popcN n v = ((List.range n).filter v.testBit).length := by
  induction n generalizing v with
  | zero => rfl
  | succ n ih =>
    have shifted : v.testBit ∘ Nat.succ = (v / 2).testBit := funext fun k => Nat.testBit_succ v k
    rw [popcN, ih, List.range_succ_eq_map, List.filter_cons, List.filter_map, shifted, Nat.testBit_zero]
    rcases Nat.mod_two_eq_zero_or_one v with h | h <;> simp [h, Nat.add_comm]

/-- Bit i of the reversal of the low n bits is their bit n - 1 - i; the bits gathered before stand above them. -/
theorem testBit_brevN (n v acc i : Nat) : (brevN n v acc).testBit i = if i < n then v.testBit (n - 1 - i) else acc.testBit (i - n) := by
  induction n generalizing v acc with
  | zero => rfl
  | succ n ih =>
    rw [brevN, ih]
    rcases Nat.lt_trichotomy i n with h | rfl | h
    · rw [if_pos h, if_pos (by omega), ← Nat.testBit_succ, show (n - 1 - i).succ = n + 1 - 1 - i by omega]
    · simp
    · obtain ⟨j, rfl⟩ : ∃ j, i = n + 1 + j := ⟨i - (n + 1), by omega⟩
      rw [if_neg (by omega), if_neg (by omega), show n + 1 + j - n = j + 1 by omega, Nat.testBit_succ,
        show (2 * acc + v % 2) / 2 = acc by omega, Nat.add_sub_cancel_left]

/-- CLZ counts the zeros above the first one bit (05 R105). -/
theorem clz64_spec (a : Word) : (clz64 a).toNat ≤ 64 ∧ ((clz64 a).toNat < 64 → a.getLsbD (63 - (clz64 a).toNat) = true)
    ∧ ∀ k, k < (clz64 a).toNat → a.getLsbD (63 - k) = false := by
  unfold clz64
  split
  case isTrue zero => subst zero; exact ⟨by decide, fun h => absurd h (by decide), fun k _ => BitVec.getLsbD_zero⟩
  case isFalse nonzero =>
    have hn : a.toNat ≠ 0 := fun h => nonzero (BitVec.eq_of_toNat_eq h)
    have top : a.toNat.log2 < 64 := (Nat.log2_lt hn).mpr a.isLt
    have count : (BitVec.ofNat 64 (63 - a.toNat.log2)).toNat = 63 - a.toNat.log2 := by rw [BitVec.toNat_ofNat]; omega
    rw [count]
    refine ⟨by omega, fun _ => ?_, fun k hk => ?_⟩
    · rw [show 63 - (63 - a.toNat.log2) = a.toNat.log2 by omega]
      exact Nat.testBit_log2 hn
    · exact Nat.testBit_lt_two_pow ((Nat.log2_lt hn).mp (by omega))

/-- CTZ counts the zeros below the first one bit (05 R105). -/
theorem ctz64_spec (a : Word) : (ctz64 a).toNat ≤ 64 ∧ ((ctz64 a).toNat < 64 → a.getLsbD (ctz64 a).toNat = true)
    ∧ ∀ k, k < (ctz64 a).toNat → a.getLsbD k = false := by
  obtain ⟨stops, found, below⟩ := ctzFrom_spec a.toNat 64 0
  have count : (ctz64 a).toNat = ctzFrom a.toNat 64 0 := by rw [ctz64, BitVec.toNat_ofNat]; omega
  rw [count]
  exact ⟨by omega, fun h => found (by omega), fun k => below k k.zero_le⟩

theorem popc64_toNat (a : Word) : (popc64 a).toNat = ((List.range 64).filter fun k => a.getLsbD k).length := by
  have fits := List.length_filter_le a.toNat.testBit (List.range 64)
  rw [List.length_range] at fits
  rw [popc64, popcN_eq_length_filter, BitVec.toNat_ofNat, Nat.mod_eq_of_lt (by omega)]
  rfl

theorem brev64_getLsbD (a : Word) {k : Nat} (hk : k < 64) : (brev64 a).getLsbD (63 - k) = a.getLsbD k := by
  rw [brev64, BitVec.getLsbD_ofNat, testBit_brevN, if_pos (by omega), show 64 - 1 - (63 - k) = k by omega, decide_eq_true (by omega), Bool.true_and]
  rfl

/-! ### Comparisons (05 R105) -/

theorem flag_slt (a b : Word) : flag (a.slt b) = if a.toInt < b.toInt then 1 else 0 := by simp [flag, BitVec.slt]

theorem flag_ult (a b : Word) : flag (a.ult b) = if a.toNat < b.toNat then 1 else 0 := by simp [flag, BitVec.ult]

theorem ite_slt {α : Type} (a b : Word) (x y : α) : (if a.slt b then x else y) = if b.toInt ≤ a.toInt then y else x := by
  simp only [BitVec.slt, decide_eq_true_eq, ← Int.not_le, ite_not]

theorem ite_ult {α : Type} (a b : Word) (x y : α) : (if a.ult b then x else y) = if b.toNat ≤ a.toNat then y else x := by
  simp only [BitVec.ult, decide_eq_true_eq, ← Nat.not_le, ite_not]

/-- Of two words that are each at most the other either is the least, there being but one. -/
theorem ite_le_comm {le : Word → Word → Prop} [∀ a b, Decidable (le a b)] (total : ∀ a b, le a b ∨ le b a)
    (antisymm : ∀ {a b}, le a b → le b a → a = b) (a b : Word) : (if le b a then b else a) = if le a b then a else b := by
  by_cases below : le a b
  · by_cases above : le b a
    · rw [if_pos above, if_pos below, antisymm below above]
    · rw [if_neg above, if_pos below]
  · rw [if_pos ((total a b).resolve_left below), if_neg below]

theorem min_slt (a b : Word) : (if a.slt b then a else b) = if a.toInt ≤ b.toInt then a else b :=
  (ite_slt a b a b).trans
    (ite_le_comm (le := fun a b => a.toInt ≤ b.toInt) (fun _ _ => Int.le_total _ _) (fun h k => BitVec.eq_of_toInt_eq (Int.le_antisymm h k)) a b)

theorem min_ult (a b : Word) : (if a.ult b then a else b) = if a.toNat ≤ b.toNat then a else b :=
  (ite_ult a b a b).trans
    (ite_le_comm (le := fun a b => a.toNat ≤ b.toNat) (fun _ _ => Nat.le_total _ _) (fun h k => BitVec.eq_of_toNat_eq (Nat.le_antisymm h k)) a b)

/-! ### Products (05 R105) -/

theorem mul_eq_ofNat (a b : Word) : a * b = BitVec.ofNat 64 (a.toNat * b.toNat) := by
  apply BitVec.eq_of_toNat_eq; simp

/-- The high half of a signed product is a floor, whichever way the library divides by a positive number. -/
theorem mulh64_eq_fdiv (a b : Word) : mulh64 a b = BitVec.ofInt 64 ((a.toInt * b.toInt).fdiv (2 ^ 64)) := by
  rw [mulh64, Int.fdiv_eq_ediv_of_nonneg _ (by decide)]

/-- Settles O1: each member's value is its table row's, and its word the OP format's. -/
theorem opWritesItsResult : Obligations.OpWritesItsResult := by
  refine ⟨fun s rd a b h => ⟨?add, ?sub, ?sll, ?srl, ?sra, ?slt, ?sltu, ?xor, ?or, ?and, ?min, ?max, ?minu, ?maxu, ?mul, ?mulh, ?mulhu, ?seq, ?sne, ?addw,
    ?subw, ?words⟩, fun s rd a h => ⟨⟨_, h.unary_eq rfl, clz64_spec _⟩, ⟨_, h.unary_eq rfl, ctz64_spec _⟩, ⟨_, h.unary_eq rfl, popc64_toNat _⟩,
    ⟨_, h.unary_eq rfl, fun k => brev64_getLsbD _⟩, ?countWords⟩⟩
  case slt => exact h.binary_eq (flag_slt _ _)
  case sltu => exact h.binary_eq (flag_ult _ _)
  case min => exact h.binary_eq (min_slt _ _)
  case max => exact h.binary_eq (ite_slt _ _ _ _)
  case minu => exact h.binary_eq (min_ult _ _)
  case maxu => exact h.binary_eq (ite_ult _ _ _ _)
  case mul => exact h.binary_eq (mul_eq_ofNat _ _)
  case mulh => exact h.binary_eq (mulh64_eq_fdiv _ _)
  case seq => exact h.binary_eq (by simp [flag])
  case sne => exact h.binary_eq (by simp [flag])
  case words =>
    simp only [List.forall_mem_cons, List.not_mem_nil, false_imp_iff, implies_true, and_true]
    and_intros <;> exact encode_of_word rfl rfl (by unfold opWord; omega)
  case countWords =>
    simp only [List.forall_mem_cons, List.not_mem_nil, false_imp_iff, implies_true, and_true]
    and_intros <;> exact encode_of_word rfl rfl (by unfold opWord; omega)
  all_goals exact h.binary_eq rfl

/-! ### Division (05 R107) -/

/-- All ones are -1 in n bits. -/
theorem ofInt_two_pow_sub_one (n : Nat) : BitVec.ofInt n (2 ^ n - 1) = BitVec.ofInt n (-1) :=
  BitVec.eq_of_toInt_eq (by rw [BitVec.toInt_ofInt, BitVec.toInt_ofInt, Int.bmod_def, Int.bmod_def]; simp)

/-- The signed quotient in n bits is R107's, in every corner. -/
theorem ofInt_divSigned_fst (n : Nat) (a b : Int) : BitVec.ofInt n (divSigned n a b).1 = BitVec.ofInt n (divideBy n a b).1 := by
  unfold divSigned divideBy
  split
  case isTrue zero => exact ofInt_two_pow_sub_one n
  case isFalse =>
    split
    case isTrue overflow => rw [overflow.1]
    case isFalse => rfl

/-- So is the remainder. -/
theorem divSigned_snd (n : Nat) (a b : Int) : (divSigned n a b).2 = (divideBy n a b).2 := by
  unfold divSigned divideBy
  repeat' split
  all_goals rfl

/-- The unsigned quotient and remainder of two n-bit words: all ones and the dividend where the divisor is zero. -/
theorem ofNat_divUnsigned {n : Nat} (a b : BitVec n) :
    BitVec.ofNat n (divUnsigned n a.toNat b.toNat).1 = (if b = 0 then BitVec.allOnes n else a / b)
      ∧ BitVec.ofNat n (divUnsigned n a.toNat b.toNat).2 = if b = 0 then a else a % b := by
  by_cases zero : b = 0
  · simp [divUnsigned, zero, BitVec.allOnes, BitVec.ofNatLT_eq_ofNat]
  · have positive : b.toNat ≠ 0 := fun h => zero (BitVec.eq_of_toNat_eq h)
    simp only [divUnsigned, if_neg zero, if_neg positive, BitVec.udiv_def, BitVec.umod_def, and_self]

/-- A `.W` result is its value's low 32 bits, sign-extended. -/
theorem sextW_ofInt (v : Int) : sextW (BitVec.ofInt 64 v) = (BitVec.ofInt 32 v).signExtend 64 := by
  have low : (BitVec.ofInt 64 v).setWidth 32 = BitVec.ofInt 32 v := BitVec.eq_of_toNat_eq (by simp; omega)
  rw [sextW, low]

theorem sextW_ofNat (v : Nat) : sextW (BitVec.ofNat 64 v) = (BitVec.ofNat 32 v).signExtend 64 := by
  rw [sextW, BitVec.setWidth_ofNat_of_le (by decide)]

/-- Settles O3: at each width the quotient and remainder are R107's in every corner, and a `.W` result is the low half's, sign-extended. -/
theorem divisionWritesItsResult : Obligations.DivisionWritesItsResult := by
  refine fun s rd a b la h => ⟨h.binaryLong_eq (ofInt_divSigned_fst 64 _ _), h.binaryLong_eq ?rem, h.binaryLong_eq ?divu, h.binaryLong_eq ?remu,
    h.binaryLong_eq ?divw, h.binaryLong_eq ?remw, h.binaryLong_eq ?divuw, h.binaryLong_eq ?remuw, fun w32 => ?words⟩
  case rem => exact congrArg (BitVec.ofInt 64) (divSigned_snd 64 _ _)
  case divu => exact (ofNat_divUnsigned _ _).1
  case remu => exact (ofNat_divUnsigned _ _).2
  case divw => exact (sextW_ofInt _).trans (congrArg (BitVec.signExtend 64) (ofInt_divSigned_fst 32 _ _))
  case remw => exact (sextW_ofInt _).trans (congrArg (BitVec.signExtend 64 <| BitVec.ofInt 32 ·) (divSigned_snd 32 _ _))
  case divuw =>
    have quotient := congrArg (BitVec.signExtend 64) (ofNat_divUnsigned ((s.x a).setWidth 32) ((s.x b).setWidth 32)).1
    exact (sextW_ofNat _).trans (quotient.trans (apply_ite (BitVec.signExtend 64) _ _ _))
  case remuw =>
    exact (sextW_ofNat _).trans (congrArg (BitVec.signExtend 64) (ofNat_divUnsigned ((s.x a).setWidth 32) ((s.x b).setWidth 32)).2)
  case words =>
    simp only [List.forall_mem_cons, List.not_mem_nil, false_imp_iff, implies_true, and_true]
    and_intros <;> exact encode_of_word rfl rfl (by unfold divWord; omega)

end Sys2Proof.Machine
end

section
/-!
PROOFS. Addresses of scalar accesses (05 R102, R103): what each check answers in its turn, and the places that the local windows reach.
-/

namespace Sys2Proof.Machine

/-! ### The checks on an address, in their order (05 R103) -/

section
variable {va n : Nat} {a : Access} {s : State}

theorem placeOf_misaligned (h : va % n ≠ 0) : placeOf va n a s = .error (.trap causeMisalign (BitVec.ofNat 64 va) a.recordKind) := by
  rw [placeOf, if_pos h]

theorem placeOf_beyond (h : va % n = 0) (hf : 2 ^ 56 ≤ va) : placeOf va n a s = .error (.trap causePageFault (BitVec.ofNat 64 va) a.recordKind) := by
  rw [placeOf, if_neg (Decidable.not_not.mpr h), if_pos hf]

theorem placeOf_uncovered (h : va % n = 0) (ha : a ≠ .fetch) (ht : s.transferHolds s.coreId va n = false) (hw : inWindowRegion va = true)
    (hl : s.windowLoc s.coreId va = none) : placeOf va n a s = .error (.trap causeProtect (BitVec.ofNat 64 va) a.recordKind) := by
  have near : ¬ 2 ^ 56 ≤ va := by simp only [inWindowRegion, Bool.and_eq_true, decide_eq_true_eq] at hw; omega
  simp only [placeOf, h, ne_eq, not_true_eq_false, if_false, near, ht, Bool.false_eq_true, and_false, hw, if_true, ha, hl]

/-- A load takes the trap of its address, with nothing read. -/
theorem loadAcq_trapped {i : Instr} {rd b : Reg} {la : BitVec 4} {acq sg : Bool} {imm : BitVec 9} {c k : Nat} {v : Word} (h : s.plain)
    (hp : placeOf (ea9 (s.x b) imm n) n .load s = .error (.trap c v k)) : loadAcq i rd b la acq n sg imm s = .next (s.trap i c v false k []) :=
  complete_trap (by simp [h.rdReg, memRead_stopped hp]) h

/-- A store takes the trap of its address, with nothing written. -/
theorem store_trapped {i : Instr} {b d : Reg} {ea : Word → Nat} {c k : Nat} {v : Word} (h : s.plain)
    (hr : reserveLines [s.lineKey s.coreId (ea (s.x b))] s = .ok ((), s))
    (hp : placeOf (ea (s.x b)) n .store s = .error (.trap c v k)) : store i b d n ea s = .next (s.trap i c v false k []) :=
  complete_trap (by simp [h.rdReg, lineOf, hr, memWrite, memWriteTag, h.not_ahead, hp]) h

end

/-! ### The local windows (05 R102) -/

theorem State.tcmSize_le (s : State) (core : Nat) : s.tcmSize core ≤ 768 * 1024 := Nat.mul_le_mul_right _ (Nat.sub_le _ _)

theorem State.windowLoc_tcm (s : State) {core va : Nat} (lo : tcmWindow ≤ va) (hi : va < tcmWindow + s.tcmSize core) :
    s.windowLoc core va = some (tcmLoc core (va - tcmWindow)) := if_pos ⟨lo, hi⟩

/-- The scratchpad's window lies above every TCM's. -/
theorem State.windowLoc_spad (s : State) {core va : Nat} (lo : spadWindow ≤ va) (hi : va < spadWindow + spadSize) :
    s.windowLoc core va = some (spadLoc (clusterOf core) (va - spadWindow)) := by
  have above : ¬ (tcmWindow ≤ va ∧ va < tcmWindow + s.tcmSize core) := by
    have := s.tcmSize_le core
    unfold spadWindow at lo
    unfold tcmWindow
    omega
  rw [State.windowLoc, if_neg above, if_pos ⟨lo, hi⟩]

/-- A window address reaches its core's TCM or its cluster's scratchpad. -/
theorem State.windowLoc_cases {s : State} {core va loc : Nat} (h : s.windowLoc core va = some loc) :
    (∃ t < 2 ^ 20, va = tcmWindow + t ∧ loc = tcmLoc core t) ∨ ∃ t < 2 ^ 22, va = spadWindow + t ∧ loc = spadLoc (core / 8) t := by
  unfold State.windowLoc at h
  split at h
  case isTrue tcm =>
    have := s.tcmSize_le core
    exact .inl ⟨va - tcmWindow, by omega, by omega, (Option.some.inj h).symm⟩
  case isFalse =>
    split at h
    case isTrue spad =>
      unfold spadSize at spad
      exact .inr ⟨va - spadWindow, by omega, by omega, (Option.some.inj h).symm⟩
    case isFalse => cases h

theorem tcmLoc_ne_spadLoc {core cluster t t' : Nat} (hc : core < 512) (ht : t < 2 ^ 20) : tcmLoc core t ≠ spadLoc cluster t' := by
  unfold tcmLoc spadLoc
  omega

/-- No byte of a window is a byte of another window, or of another core's TCM. -/
theorem State.windowLoc_inj {s : State} {core core' va va' loc : Nat} (hc : core < 512) (hc' : core' < 512) (h : s.windowLoc core va = some loc)
    (h' : s.windowLoc core' va' = some loc) : va = va' ∧ (va < spadWindow → core = core') := by
  obtain ⟨t, ht, rfl, rfl⟩ | ⟨t, ht, rfl, rfl⟩ := State.windowLoc_cases h
  · obtain ⟨t', ht', rfl, hl⟩ | ⟨t', -, -, hl⟩ := State.windowLoc_cases h'
    · obtain ⟨rfl, rfl⟩ : core = core' ∧ t = t' := by unfold tcmLoc at hl; omega
      exact ⟨rfl, fun _ => rfl⟩
    · exact absurd hl (tcmLoc_ne_spadLoc hc ht)
  · obtain ⟨t', ht', -, hl⟩ | ⟨t', ht', rfl, hl⟩ := State.windowLoc_cases h'
    · exact absurd hl.symm (tcmLoc_ne_spadLoc hc' ht')
    · obtain rfl : t = t' := by unfold spadLoc at hl; omega
      exact ⟨rfl, fun below => absurd below (Nat.not_lt.mpr (Nat.le_add_right _ _))⟩

/-- Settles O10: an address that a check refuses stops its load or store with that check's trap, and each window address has a byte of its own. -/
theorem addressChecksComeInOrderAndWindowsReachTheirMemory : Obligations.AddressChecksComeInOrderAndWindowsReachTheirMemory := by
  refine ⟨fun s rd a b i j la h => ?_, fun s core va => ⟨s.windowLoc_tcm, s.windowLoc_spad, fun core' va' loc => State.windowLoc_inj⟩⟩
  intro far ea word put
  have word_trap {cause : Nat} (hp : placeOf far.toNat 8 .load s = .error (.trap cause (BitVec.ofNat 64 far.toNat) 0)) : word far cause := by
    have := loadAcq_trapped (i := .ld rd a i la false) (rd := rd) (la := la) (acq := false) (sg := false) h hp
    rwa [BitVec.ofNat_toNat, BitVec.setWidth_eq] at this
  have put_trap {cause : Nat} (hp : placeOf ea.toNat 8 .store s = .error (.trap cause (BitVec.ofNat 64 ea.toNat) 1)) : put ea cause := fun hr => by
    have := store_trapped (i := .sd a b j) (d := b) (ea := fun a => ea14 a j) h hr hp
    rwa [BitVec.ofNat_toNat, BitVec.setWidth_eq] at this
  exact ⟨fun bad => word_trap (placeOf_misaligned bad), fun ok hf => word_trap (placeOf_beyond ok hf),
    fun ok ht hw hl => word_trap (placeOf_uncovered ok (by decide) ht hw hl), fun bad => put_trap (placeOf_misaligned bad),
    fun ok hf => put_trap (placeOf_beyond ok hf), fun ok ht hw hl => put_trap (placeOf_uncovered ok (by decide) ht hw hl)⟩

end Sys2Proof.Machine
end

section
/-!
PROOFS. Repetition (05 R125 to R128): the fields of CR_STATUS that hold it, how REP begins it, how its passes follow one another, what a body may not hold, and
that renaming permutes its window.
-/

namespace Sys2Proof.Machine

/-! ### Fields of a register -/

/-- A number with the n bits from lo replaced, bit by bit. -/
theorem testBit_replaced (w lo n v i : Nat) :
    (w - w / 2 ^ lo % 2 ^ n * 2 ^ lo + v % 2 ^ n * 2 ^ lo).testBit i = if lo ≤ i ∧ i < lo + n then v.testBit (i - lo) else w.testBit i := by
  have low : w % 2 ^ lo < 2 ^ lo := Nat.mod_lt _ (Nat.two_pow_pos _)
  have old : w = 2 ^ lo * (2 ^ n * (w / 2 ^ lo / 2 ^ n) + w / 2 ^ lo % 2 ^ n) + w % 2 ^ lo := by rw [Nat.div_add_mod, Nat.div_add_mod]
  have apart (m : Nat) : 2 ^ lo * (2 ^ n * (w / 2 ^ lo / 2 ^ n) + m) = 2 ^ lo * (2 ^ n * (w / 2 ^ lo / 2 ^ n)) + m * 2 ^ lo := by
    rw [Nat.mul_add, Nat.mul_comm _ m]
  have new : w - w / 2 ^ lo % 2 ^ n * 2 ^ lo + v % 2 ^ n * 2 ^ lo = 2 ^ lo * (2 ^ n * (w / 2 ^ lo / 2 ^ n) + v % 2 ^ n) + w % 2 ^ lo := by
    have := apart (w / 2 ^ lo % 2 ^ n)
    have := apart (v % 2 ^ n)
    omega
  have bits (m : Nat) (hm : m < 2 ^ n) : (2 ^ lo * (2 ^ n * (w / 2 ^ lo / 2 ^ n) + m) + w % 2 ^ lo).testBit i
      = if i < lo then (w % 2 ^ lo).testBit i else if i - lo < n then m.testBit (i - lo) else (w / 2 ^ lo / 2 ^ n).testBit (i - lo - n) := by
    rw [Nat.testBit_two_pow_mul_add _ low, Nat.testBit_two_pow_mul_add _ hm]
  have same := bits _ (Nat.mod_lt (w / 2 ^ lo) (Nat.two_pow_pos n))
  rw [← old] at same
  rw [new, bits _ (Nat.mod_lt _ (Nat.two_pow_pos _))]
  by_cases inside : lo ≤ i ∧ i < lo + n
  · rw [if_pos inside, if_neg (by omega), if_pos (by omega), Nat.testBit_mod_two_pow, decide_eq_true (by omega), Bool.true_and]
  · rw [if_neg inside, same]
    refine ite_congr rfl (fun _ => rfl) fun above => ?_
    rw [if_neg (by omega), if_neg (by omega)]

theorem getLsbD_putBits {k : Nat} (w : BitVec k) (lo n v i : Nat) :
    (putBits w lo n v).getLsbD i = (decide (i < k) && if lo ≤ i ∧ i < lo + n then v.testBit (i - lo) else w.getLsbD i) := by
  rw [putBits, BitVec.getLsbD_ofNat]
  exact congrArg _ (testBit_replaced w.toNat lo n v i)

/-- A field that was written reads back. -/
theorem extractLsb'_putBits_same {k : Nat} (w : BitVec k) {lo n : Nat} (v : Nat) (h : lo + n ≤ k) :
    (putBits w lo n v).extractLsb' lo n = BitVec.ofNat n v := by
  refine BitVec.eq_of_getLsbD_eq fun i hi => ?_
  rw [BitVec.getLsbD_extractLsb', getLsbD_putBits, if_pos (by omega), decide_eq_true (show lo + i < k by omega), Bool.true_and, Nat.add_sub_cancel_left,
    BitVec.getLsbD_ofNat]

/-- Writing another field changes nothing of it. -/
theorem extractLsb'_putBits_other {k : Nat} (w : BitVec k) {lo n a m : Nat} (v : Nat) (h : a + m ≤ lo ∨ lo + n ≤ a) :
    (putBits w lo n v).extractLsb' a m = w.extractLsb' a m := by
  refine BitVec.eq_of_getLsbD_eq fun i hi => ?_
  rw [BitVec.getLsbD_extractLsb', BitVec.getLsbD_extractLsb', getLsbD_putBits, if_neg (by omega)]
  by_cases hk : a + i < k
  · simp [hk]
  · simp [BitVec.getLsbD_of_ge w (a + i) (Nat.not_lt.mp hk)]

theorem bitsOf_eq_toNat {k : Nat} (w : BitVec k) (lo n : Nat) : bitsOf w lo n = (w.extractLsb' lo n).toNat := by
  rw [bitsOf, BitVec.extractLsb'_toNat, Nat.shiftRight_eq_div_pow]

theorem Arch.repAct_eq (a : Arch) : a.repAct = (a.status.extractLsb' 8 1 == 1) := by
  rw [Arch.repAct, bitsOf_eq_toNat, Bool.eq_iff_iff, beq_iff_eq, beq_iff_eq, ← BitVec.toNat_inj]
  rfl

/-! ### A step of the thread in a chunk that goes on -/

/-- An instruction completes that changes the thread by f: what `State.retired` does with `Arch.next`, and REP with the start of its first pass. -/
def State.completed (s : State) (f : Arch → Arch) : State := (s.mapArch fun a => ((f a).tickWindows).blockStep s.isBound false).countIns

/-- Counting an instruction of a cloak changes nothing but the counts. -/
theorem Arch.blockStep_counts (a : Arch) (bound ends : Bool) : ∃ m n, a.blockStep bound ends = { a with cloakBlocks := m, cloakIns := n } := by
  cases bound
  · exact ⟨_, _, rfl⟩
  · exact ⟨_, _, rfl⟩

theorem State.chunkGoesOn.countIns {s : State} (h : s.chunkGoesOn) : s.countIns = s.mapChunk fun c => { c with ins := c.ins + 1 } :=
  if_neg (Nat.not_le.mpr h)

/-- Where the chunk goes on, the thread is changed by f, its windows and the counts of its cloak aside, and nothing outside it. -/
theorem State.chunkGoesOn.completed {s : State} (h : s.chunkGoesOn) (f : Arch → Arch) :
    sameOutside s (s.completed f) ∧ ∃ w m n, (s.completed f).ctx.arch = { f s.ctx.arch with windows := w, cloakBlocks := m, cloakIns := n } := by
  obtain ⟨m, n, counts⟩ := ((f s.ctx.arch).tickWindows).blockStep_counts s.isBound false
  have hc : (s.mapArch fun a => ((f a).tickWindows).blockStep s.isBound false).chunkGoesOn := h
  rw [State.completed, hc.countIns]
  exact ⟨rfl, _, m, n, counts⟩

/-! ### REP (05 R126, R127) -/

section
variable {s u : State} {r : Reg} {len : BitVec 5} {hs ss span : BitVec 3} {body : List BodyIns} {last : BodyIns}

/-- Span code 7 is reserved, and a handler does not begin a repetition inside its thread's (05 R126, 06 R153). -/
theorem execRep_illegal (h : s.plain) (hi : span = 7 ∨ (s.ctx.arch.inh = true ∧ s.ctx.arch.repAct = true)) :
    execRep r len hs ss span s = .next (s.trap (.rep r len hs ss span) causeIllegal s.ir false 0 []) := by
  refine complete_trap ?_ h
  by_cases inside : s.ctx.arch.inh = true ∧ s.ctx.arch.repAct = true
  · simp [inside]
  · simp [inside, hi.resolve_right inside]

variable (h : s.plain) (hspan : span ≠ 7) (hin : ¬ (s.ctx.arch.inh = true ∧ s.ctx.arch.repAct = true))
include h hspan hin

theorem execRep_trapped {cause kind : Nat} {tval : Word}
    (hc : captureBody (len.toNat + 1) (s.ctx.arch.pc + 4).toNat s = .error (.trap cause tval kind)) :
    execRep r len hs ss span s = .next (s.trap (.rep r len hs ss span) cause tval false kind []) :=
  complete_trap (by simp only [run_bind, run_get, run_ite, Bool.and_eq_true, hin, hspan, if_false, h.rdReg, hc]) h

/-- A count of 0 goes on past the body. -/
theorem execRep_skips (hc : captureBody (len.toNat + 1) (s.ctx.arch.pc + 4).toNat s = .ok (body, u)) (hl : body.getLast? = some last) (h0 : s.x r = 0) :
    execRep r len hs ss span s = .next (u.completed fun a => { a with pc := BitVec.ofNat 64 (last.addr + last.len) }) :=
  complete_ok (by simp only [run_bind, run_get, run_ite, run_modify, Bool.and_eq_true, hin, hspan, if_false, h.rdReg, hc, hl, h0, if_true]; rfl)

/-- The thread at the start of a repetition's first pass. -/
def Arch.beginRep (base n : Word) (body : List BodyIns) (len hs ss span : Nat) (a : Arch) : Arch :=
  { a with pc := base, repBase := base, repCnt := n, inRep := true, body := body, status := repStatus a.status len hs ss span }

theorem execRep_begins (hc : captureBody (len.toNat + 1) (s.ctx.arch.pc + 4).toNat s = .ok (body, u)) (h0 : s.x r ≠ 0) :
    execRep r len hs ss span s = .next (u.completed (Arch.beginRep (s.ctx.arch.pc + 4) (s.x r) body len.toNat hs.toNat ss.toNat span.toNat)) :=
  complete_ok (by simp only [run_bind, run_get, run_ite, run_modify, Bool.and_eq_true, hin, hspan, if_false, h.rdReg, hc, h0]; rfl)

end

/-- The fields of CR_STATUS in the first pass (06 R140). -/
theorem repStatus_fields (st : Word) (len : BitVec 5) (hs ss span : BitVec 3) :
    let t := repStatus st len.toNat hs.toNat ss.toNat span.toNat
    t.extractLsb' 8 1 = 1 ∧ t.extractLsb' 9 5 = len ∧ t.extractLsb' 14 3 = hs ∧ t.extractLsb' 17 3 = ss
      ∧ t.extractLsb' 20 3 = span ∧ t.extractLsb' 23 3 = 0 := by
  simp [repStatus, extractLsb'_putBits_same, extractLsb'_putBits_other]

/-! ### What a body may not hold (05 R128) -/

/-- The instructions that R128 lists, and no others, are refused in a body. -/
theorem repForbidden_iff (i : Instr) : repForbidden i = true ↔ mayNotRepeat i := by
  simp only [mayNotRepeat, List.mem_cons, List.not_mem_nil, or_false]
  constructor
  · intro h
    cases i
    case beq | bne | blt | bge | bltu | bgeu | jal | jalr | cBeqz | cBnez | cJ | cJr | rep | trap | brk | eret | wfi | done | cDone | yield | compose | release
      | cstat => simp
    -- every other instruction is answered false
    all_goals exact absurd h Bool.false_ne_true
  · rintro (⟨a, b, o, rfl | rfl | rfl | rfl | rfl | rfl⟩ | ⟨rd, o, rfl⟩ | ⟨rd, a, k, rfl⟩ | ⟨a, o, rfl | rfl⟩ | ⟨o, rfl⟩ | ⟨a, rfl⟩ |
      ⟨r, l, h, t, p, rfl⟩ | ⟨a, rfl | rfl | rfl⟩ | ⟨c, rfl⟩ | (rfl | rfl | rfl) | ⟨rd, n, rfl⟩ | ⟨rd, rfl⟩ | ⟨rd, la, rfl⟩)
    all_goals rfl

/-- An instruction that a body may not hold raises ILLEGAL with its bits when it is reached. -/
theorem State.plain.issueBody_forbidden {s : State} (h : s.plain) {b : BodyIns} (hb : repForbidden b.ins = true) :
    s.issueBody b = .next ((s.withIr b.bits).trap .nop causeIllegal (BitVec.ofNat 64 (b.bits % (if b.len = 2 then 2 ^ 16 else 2 ^ 32))) false 0 []) := by
  have ahead : (s.withIr b.bits).ahead = false := h.not_ahead
  have tval : (if (b.len == 2) = true then ((BitVec.ofNat 32 b.bits).setWidth 16).setWidth 64 else (BitVec.ofNat 32 b.bits).setWidth 64 : Word)
      = BitVec.ofNat 64 (b.bits % (if b.len = 2 then 2 ^ 16 else 2 ^ 32)) := by
    by_cases short : b.len = 2 <;> apply BitVec.eq_of_toNat_eq <;> simp [short]
  rw [State.issueBody, if_pos hb, execReservedEncoding, if_neg (by rw [ahead]; decide), tval]

/-! ### The passes (05 R127, 06 R140) -/

section
variable {a : Arch} {last : BodyIns} (hr : a.inRep = true) (ha : a.repAct = true) (hl : a.body.getLast? = some last) (len : Nat)
include hr ha hl

theorem Arch.next_pass (hp : last.addr = a.pc.toNat) (hc : 1 < a.repCnt.toNat) : a.next len =
    { a with pc := a.repBase, repCnt := a.repCnt - 1, status := putBits a.status 23 3 (bitsOf a.status 23 3 + 1) } := by
  simp [Arch.next, hr, ha, hl, hp, Nat.not_le.mpr hc]

theorem Arch.next_end (hp : last.addr = a.pc.toNat) (hc : a.repCnt.toNat ≤ 1) : a.next len =
    { a with pc := a.pc + BitVec.ofNat 64 len, status := putBits a.status 8 1 0, repCnt := 0, inRep := false, body := [] } := by
  simp [Arch.next, hr, ha, hl, hp, hc]

theorem Arch.next_within (hp : last.addr ≠ a.pc.toNat) : a.next len = { a with pc := a.pc + BitVec.ofNat 64 len } := by
  simp [Arch.next, hr, ha, hl, hp]

end

/-! ### Renaming (05 R126) -/

/-- Every scalar window lies within the registers, and above s0. -/
theorem scalarSpan_within {code : Nat} (h1 : 1 ≤ code) (h7 : code < 7) : 0 < (scalarSpan code).1 ∧ 0 < (scalarSpan code).2 ∧
    (scalarSpan code).1 + (scalarSpan code).2 ≤ 16 := by
  have each : ∀ c < 7, 1 ≤ c → 0 < (scalarSpan c).1 ∧ 0 < (scalarSpan c).2 ∧ (scalarSpan c).1 + (scalarSpan c).2 ≤ 16 := by decide
  exact each code h7 h1

section
variable {w : Nat × Nat} {k j : Nat} (p stride : Nat)

theorem renamed_outside (h : ¬ (w.1 ≤ k ∧ k < w.1 + w.2)) : renamed w p stride k = k := if_neg h

/-- Within its window a register is rotated. -/
theorem renamed_inside (h : w.1 ≤ k ∧ k < w.1 + w.2) : renamed w p stride k = w.1 + (k - w.1 + p * stride) % w.2 := if_pos h

theorem renamed_mem (h : w.1 ≤ k ∧ k < w.1 + w.2) : w.1 ≤ renamed w p stride k ∧ renamed w p stride k < w.1 + w.2 := by
  rw [renamed_inside p stride h]
  exact ⟨Nat.le_add_right _ _, Nat.add_lt_add_left (Nat.mod_lt _ (by omega)) _⟩

/-- Renaming takes no register into its window or out of it. -/
theorem renamed_mem_iff : (w.1 ≤ renamed w p stride k ∧ renamed w p stride k < w.1 + w.2) ↔ (w.1 ≤ k ∧ k < w.1 + w.2) := by
  by_cases hk : w.1 ≤ k ∧ k < w.1 + w.2
  · exact iff_of_true (renamed_mem p stride hk) hk
  · rw [renamed_outside p stride hk]

/-- Two places of a window that a rotation sends to one are the same, this being half of it. -/
theorem le_of_rotated {x y n c : Nat} (hx : x < n) (h : (x + c) % n = (y + c) % n) : x ≤ y := by
  have whole := Nat.sub_mod_eq_zero_of_mod_eq h
  rw [Nat.add_sub_add_right, Nat.mod_eq_of_lt (by omega)] at whole
  omega

/-- A rotation of the window sends no two registers to one. -/
theorem renamed_inj (h : renamed w p stride k = renamed w p stride j) : k = j := by
  have sides : (w.1 ≤ k ∧ k < w.1 + w.2) ↔ (w.1 ≤ j ∧ j < w.1 + w.2) := by rw [← renamed_mem_iff p stride, h, renamed_mem_iff]
  by_cases hk : w.1 ≤ k ∧ k < w.1 + w.2
  · have hj := sides.mp hk
    rw [renamed_inside p stride hk, renamed_inside p stride hj] at h
    have rotated := Nat.add_left_cancel h
    have := Nat.le_antisymm (le_of_rotated (by omega) rotated) (le_of_rotated (by omega) rotated.symm)
    omega
  · rwa [renamed_outside p stride hk, renamed_outside p stride (mt sides.mpr hk)] at h

/-- After as many passes as the window is wide the rotation comes round. -/
theorem renamed_add_width : renamed w (p + w.2) stride k = renamed w p stride k := by
  simp [renamed, Nat.add_mul, ← Nat.add_assoc]

end

/-- Settles O19: REP and the passes by what each does to the thread, and renaming as a rotation of its window. -/
theorem repetitionsBeginFollowAndRename : Obligations.RepetitionsBeginFollowAndRename := by
  refine ⟨fun s r len hs ss span body last u h => ⟨execRep_illegal h, fun hspan hin cause tval kind => execRep_trapped h hspan hin,
    fun hspan hin hc hl hu same => ?begins, repForbidden_iff, fun b => h.issueBody_forbidden⟩,
    fun a last len hr ha hl => ⟨fun hp hc => ?pass, fun hp hc => ?ended, a.next_within hr ha hl len⟩, fun code p stride k j h1 h7 hk _ => ?renames⟩
  case begins =>
    by_cases h0 : s.x r = 0
    · obtain ⟨out, w, m, n, ht⟩ := hu.completed fun a => { a with pc := BitVec.ofNat 64 (last.addr + last.len) }
      refine ⟨_, execRep_skips h hspan hin hc hl h0, out, fun _ => ?_, fun h => absurd h0 h⟩
      rw [ht, same]
      exact ⟨rfl, rfl⟩
    · obtain ⟨out, w, m, n, ht⟩ := hu.completed (Arch.beginRep (s.ctx.arch.pc + 4) (s.x r) body len.toNat hs.toNat ss.toNat span.toNat)
      refine ⟨_, execRep_begins h hspan hin hc h0, out, fun h => absurd h h0, fun _ => ?_⟩
      obtain ⟨active, fields⟩ := repStatus_fields s.ctx.arch.status len hs ss span
      rw [Arch.repAct_eq, ht, same]
      exact ⟨rfl, rfl, rfl, rfl, rfl, beq_iff_eq.mpr active, fields⟩
  case pass =>
    rw [a.next_pass hr ha hl len hp hc]
    have active := a.repAct_eq.symm.trans ha
    refine ⟨rfl, rfl, hr, rfl, ?_, ?_, extractLsb'_putBits_other _ _ (.inl (by decide))⟩
    · rw [Arch.repAct_eq, extractLsb'_putBits_other _ _ (.inl (by decide))]
      exact active
    · rw [extractLsb'_putBits_same _ _ (by decide), bitsOf_eq_toNat, BitVec.ofNat_add, BitVec.ofNat_toNat, BitVec.setWidth_eq]
      rfl
  case ended =>
    rw [a.next_end hr ha hl len hp hc]
    refine ⟨rfl, rfl, ?_, rfl⟩
    rw [Arch.repAct_eq, extractLsb'_putBits_same _ _ (by decide)]
    rfl
  case renames =>
    obtain ⟨above, wide, within⟩ := scalarSpan_within h1 h7
    refine ⟨renamed_outside p stride, renamed_mem p stride, renamed_inj p stride, renamed_outside p stride (by omega), ?_, renamed_add_width p stride⟩
    by_cases hin : (scalarSpan code).1 ≤ k ∧ k < (scalarSpan code).1 + (scalarSpan code).2
    · exact Nat.lt_of_lt_of_le (renamed_mem p stride hin).2 within
    · exact (renamed_outside p stride hin).symm ▸ hk

end Sys2Proof.Machine
end

section
/-!
PROOFS. Requests to lysa (07 R161, R167 to R169): a request that lysa takes now is served in the state that no longer holds it, whether it waited or has just
arrived; and what LAUNCH, ABORT, PREEMPT and QUERY then answer and do.
-/

namespace Sys2Proof.Machine

/-! ### Which host requests are heard, and the list in which they wait (07 R168) -/

theorem State.hear_of_heard {s : State} {r : Request} {ops : Nat → Bool} (h : s.heard r ops = true) (new : r.arrival = 0) :
    s.hear r ops = ({ r with arrival := s.nextArrival }, { s with requests := s.requests ++ [{ r with arrival := s.nextArrival }] }) := if_pos ⟨h, new⟩

theorem State.hear_of_waiting {s : State} {r : Request} {ops : Nat → Bool} (h : s.heard r ops = false ∨ r.arrival ≠ 0) : s.hear r ops = (r, s) :=
  if_neg fun ⟨heard, new⟩ => h.elim (fun deaf => Bool.false_ne_true (deaf.symm.trans heard)) (· new)

/-- A request that has been heard is not numbered again. -/
theorem State.hear_hear (s : State) (r : Request) (ops : Nat → Bool) : (s.hear r ops).2.hear (s.hear r ops).1 ops = s.hear r ops := by
  by_cases h : s.heard r ops = true ∧ r.arrival = 0
  · rw [hear_of_heard h.1 h.2, hear_of_waiting (.inr (Nat.succ_ne_zero _))]
  · have waits : s.heard r ops = false ∨ r.arrival ≠ 0 := (Decidable.not_and_iff_not_or_not.mp h).imp_left eq_false_of_ne_true
    rw [hear_of_waiting waits, hear_of_waiting waits]

theorem State.hostReachable_of_up {s : State} (h : ∃ u, u < 4 ∧ (s.port (96 + u)).state = .up) : s.hostReachable = true := by
  obtain ⟨u, lt, up⟩ := h
  exact List.any_eq_true.mpr ⟨u, List.mem_range.mpr lt, beq_iff_eq.mpr up⟩

/-- Putting a request last where its source has none yet, and taking it off again, leaves the list. -/
theorem erase_append_of_no_request {l : List Request} {r : Request} (empty : l.find? (·.source == r.source) = none) (n : Nat) :
    (l ++ [{ r with arrival := n }]).erase { r with arrival := n } = l.erase r := by
  have absent : ∀ q : Request, q.source = r.source → q ∉ l := fun q hq mem => List.find?_eq_none.mp empty q mem (beq_iff_eq.mpr hq)
  rw [List.erase_of_not_mem (absent r rfl), List.erase_append_right _ (absent { r with arrival := n } rfl), List.erase_cons_head, List.append_nil]

/-! ### A request that is taken (07 R168, R170) -/

section
variable {s : State} {r : Request} {op : Nat} (h : taken s r op) {ops : Nat → Bool} (ho : ops op = true)
include h ho

/-- A host that lysa takes a request of is heard. -/
theorem heard_of_taken {ep : Nat} (hr : r.source = .host ep) : s.heard r ops = true := by
  obtain ⟨rfl, stage, -, -, src⟩ := h
  rw [hr] at src
  obtain ⟨lt, up, -⟩ := src
  rw [State.heard, hr]
  simp only [stage, BEq.rfl, ho, Bool.and_self, lt, decide_true, State.hostReachable_of_up up]

/-- A request that lysa takes waits as the first of its source, or is a host's first, which arrives now. -/
theorem waits_or_arrives_of_taken :
    (s.heard r ops = true ∧ r.arrival = 0 ∧ s.requests.find? (·.source == r.source) = none)
      ∨ ((s.heard r ops = false ∨ r.arrival ≠ 0) ∧ s.requests.find? (·.source == r.source) = some r) := by
  obtain ⟨-, -, -, -, src⟩ := id h
  split at src
  next hr =>
    obtain ⟨-, -, first⟩ := src
    by_cases new : r.arrival = 0
    · exact .inl ⟨heard_of_taken h ho hr, new, first.trans (if_pos new)⟩
    · exact .inr ⟨.inr new, first.trans (if_neg new)⟩
  next hr => exact .inr ⟨.inl (by rw [State.heard, hr]), src⟩

/-- Lysa takes the request once it is the first of its source in the list, under whatever number. -/
theorem takes_of_taken {n : Nat} {rs : List Request} (first : rs.find? (·.source == r.source) = some { r with arrival := n }) :
    State.takes { s with requests := rs } { r with arrival := n } ops = true := by
  obtain ⟨rfl, stage, lock, waits, -⟩ := h
  have lock' : State.lockStands { s with requests := rs } = false := lock
  have waits' : State.preemptWaits { s with requests := rs } { r with arrival := n } = false := waits
  rw [State.takes, lock', waits', stage, ho, first]
  simp only [BEq.rfl, Bool.and_self, Bool.not_false]

/-- Hearing the request leaves it one that lysa takes, and the list without it as it was. -/
theorem hear_of_taken : ∃ n rs, s.hear r ops = ({ r with arrival := n }, { s with requests := rs })
    ∧ State.takes { s with requests := rs } { r with arrival := n } ops = true ∧ rs.erase { r with arrival := n } = s.requests.erase r := by
  obtain ⟨heard, new, empty⟩ | ⟨waits, first⟩ := waits_or_arrives_of_taken h ho
  · refine ⟨_, _, State.hear_of_heard heard new, takes_of_taken h ho ?_, erase_append_of_no_request empty _⟩
    rw [List.find?_append, empty, Option.none_or]
    exact List.find?_cons_of_pos (beq_iff_eq.mpr rfl)
  · exact ⟨r.arrival, s.requests, State.hear_of_waiting waits, takes_of_taken h ho first, rfl⟩

/-- A request that is taken is served in the state that no longer holds it. -/
theorem serve_of_taken (f : Owner → State → State) :
    s.serve r ops f = ((s.credited r).map fun o => f o (s.takeRequest r)).getD ((s.takeRequest r).ack r stBadCred) := by
  obtain ⟨n, rs, heard, takes, rest⟩ := hear_of_taken h ho
  have left : State.takeRequest { s with requests := rs } { r with arrival := n } = s.takeRequest r := by rw [State.takeRequest, State.takeRequest, rest]
  have cred : (s.takeRequest r).credited { r with arrival := n } = s.credited r := rfl
  simp only [State.serve, heard, takes, left, cred, Bool.not_true, Bool.false_eq_true, if_false]
  cases s.credited r with
  | none => rfl
  | some o => rfl

/-- So is one that makes lysa read, where no domain has written there in its open interval (23 R406), or no credential holds. -/
theorem serveReading_of_taken {reads : Owner → List (Nat × Nat)} (hs : ∀ o ∈ s.credited r, settled s o (reads o))
    (f : Owner → State → State) : s.serveReading r ops reads f = s.serve r ops f := by
  have again : State.serve (s.hear r ops).2 (s.hear r ops).1 ops f = s.serve r ops f := by rw [State.serve, State.hear_hear, State.serve]
  obtain ⟨n, rs, heard, takes, -⟩ := hear_of_taken h ho
  have cred : State.credited { s with requests := rs } { r with arrival := n } = s.credited r := rfl
  rw [State.serveReading, ← again, heard]
  simp only [takes, if_true, cred]
  cases hc : s.credited r with
  | none => rfl
  | some o =>
    dsimp only
    split
    next d opened =>
      obtain ⟨x, mem, hx⟩ := List.exists_of_findSome?_eq_some opened
      cases (hs o hc x mem).symm.trans hx
    next => rfl

end

/-! ### Whom a request speaks for (07 R167, R170) -/

theorem credited_eq_some_iff (s : State) (r : Request) (o : Owner) : s.credited r = some o ↔ speaksFor s r o := by
  rw [State.credited, speaksFor, Option.bind_eq_some_iff]
  cases r.source with
  | host ep =>
    simp only [Option.ite_none_right_eq_some, Option.some.injEq]
    exact ⟨fun ⟨_, found, ⟨cred, live⟩, eq⟩ => eq ▸ ⟨found, live, cred⟩, fun ⟨found, live, cred⟩ => ⟨o, found, ⟨cred, live⟩, rfl⟩⟩
  | device core owner knum =>
    simp only [Option.ite_none_right_eq_some, Option.some.injEq]
    exact ⟨fun ⟨_, found, ⟨mine, live⟩, eq⟩ => eq ▸ ⟨found, live, mine⟩, fun ⟨found, live, mine⟩ => ⟨o, found, ⟨mine, live⟩, rfl⟩⟩

theorem credited_of_not_speaksFor {s : State} {r : Request} (h : ¬ ∃ o, speaksFor s r o) : s.credited r = none :=
  Option.eq_none_iff_forall_ne_some.mpr fun o hc => h ⟨o, (credited_eq_some_iff s r o).mp hc⟩

section
variable {s : State} {r : Request} {op : Nat} (h : taken s r op) {ops : Nat → Bool} (ho : ops op = true)
include h ho

theorem serve_of_not_speaksFor (hn : ¬ ∃ o, speaksFor s r o) (f : Owner → State → State) : s.serve r ops f = (s.takeRequest r).ack r stBadCred := by
  rw [serve_of_taken h ho, credited_of_not_speaksFor hn]
  rfl

theorem serve_of_speaksFor {o : Owner} (hs : speaksFor s r o) (f : Owner → State → State) : s.serve r ops f = f o (s.takeRequest r) := by
  rw [serve_of_taken h ho, (credited_eq_some_iff s r o).mpr hs]
  rfl

theorem serveReading_of_not_speaksFor (hn : ¬ ∃ o, speaksFor s r o) (reads : Owner → List (Nat × Nat)) (f : Owner → State → State) :
    s.serveReading r ops reads f = (s.takeRequest r).ack r stBadCred := by
  rw [serveReading_of_taken h ho fun o hc => absurd ⟨o, (credited_eq_some_iff s r o).mp hc⟩ hn, serve_of_not_speaksFor h ho hn]

theorem serveReading_of_speaksFor {o : Owner} (hs : speaksFor s r o) {reads : Owner → List (Nat × Nat)} (hr : settled s o (reads o))
    (f : Owner → State → State) : s.serveReading r ops reads f = f o (s.takeRequest r) := by
  have reads' : ∀ p ∈ s.credited r, settled s p (reads p) := fun p hp =>
    Option.some.inj (((credited_eq_some_iff s r o).mpr hs).symm.trans hp) ▸ hr
  rw [serveReading_of_taken h ho reads', serve_of_speaksFor h ho hs]

end

/-! ### What each request does, by the kernel that its TAG names (07 R168) -/

section
variable {s : State} {r : Request} {o : Owner} {k : Kernel}

section
variable (h : taken s r 1) (hs : speaksFor s r o) (hr : settled s o (s.chainReads o.domain 8 r.rcb))
include h hs hr

theorem launch_of_live_tag (ht : (s.takeRequest r).tagged r.owner r.tag = some k) : exec (.launch r) s = .next ((s.takeRequest r).ack r stBusy) := by
  change execLaunch r s = _
  rw [execLaunch, serveReading_of_speaksFor h rfl hs hr, ht]
  rfl

variable (ht : (s.takeRequest r).tagged r.owner r.tag = none)
include ht

theorem launch_of_no_chain (hc : (s.takeRequest r).readChain o.domain 8 r.rcb [] = none) :
    exec (.launch r) s = .next ((s.takeRequest r).ack r stBadRcb) := by
  change execLaunch r s = _
  rw [execLaunch, serveReading_of_speaksFor h rfl hs hr, ht]
  simp only [Option.isSome_none, Bool.false_eq_true, if_false, hc]

/-- A LAUNCH whose chain is read is refused, can never be placed, or makes its kernel. -/
theorem launch_of_chain {chain : List Node} (hc : (s.takeRequest r).readChain o.domain 8 r.rcb [] = some chain) :
    exec (.launch r) s = .next (if (kernelOf o r chain).refused chain then (s.takeRequest r).ack r stBadRcb
      else if (kernelOf o r chain).neverFits o then (s.takeRequest r).ack r stNoFit
      else (((s.takeRequest r).putOwner { o with knumNext := (o.knumNext + 1) % 2 ^ 32 }).putKernel (kernelOf o r chain)).ackKernel r 0x81 stOk
        (kernelOf o r chain)) := by
  change execLaunch r s = _
  rw [execLaunch, serveReading_of_speaksFor h rfl hs hr, ht]
  simp only [Option.isSome_none, Bool.false_eq_true, if_false, hc]

end

section
variable (h : taken s r 2) (hs : speaksFor s r o)
include h hs

theorem abort_of_no_kernel (ht : (s.takeRequest r).tagged r.owner r.tag = none) : exec (.abort r) s = .next ((s.takeRequest r).ack r stNoKernel) := by
  change execAbort r s = _
  rw [execAbort, serve_of_speaksFor h rfl hs, ht]

theorem abort_of_kernel (ht : (s.takeRequest r).tagged r.owner r.tag = some k) : exec (.abort r) s =
    .next ((((((s.takeRequest r).ackKernel r 0x81 stOk k).logOrder k r.source (.abort k.owner k.knum)).orderAbort k).wakeRetries).endKernels) := by
  change execAbort r s = _
  rw [execAbort, serve_of_speaksFor h rfl hs, ht]

end

section
variable (h : taken s r 3) (hs : speaksFor s r o)
include h hs

theorem preempt_of_no_kernel (stops : r.mflags % 2 = 0) (ht : (s.takeRequest r).tagged r.owner r.tag = none) :
    exec (.preempt r) s = .next ((s.takeRequest r).ack r stNoKernel) := by
  change execPreempt r s = _
  rw [execPreempt, if_neg (by omega), serve_of_speaksFor h rfl hs, ht]

/-- PREEMPT looks at the kernel after lysa has acted on its FAULTED contexts (06 R146). -/
theorem preempt_of_kernel (stops : r.mflags % 2 = 0) (ht : (s.takeRequest r).tagged r.owner r.tag = some k) {v : State} {j : Kernel}
    (hv : (s.takeRequest r).serveFaulted k.owner k.knum = v) (hj : (v.kernel? k.owner k.knum).getD k = j) :
    exec (.preempt r) s = .next (if j.state = .running
      then (((v.ackKernel r 0x81 stOk j).logOrder j r.source (.preempt j.owner j.knum false)).preemptKernel j false).endKernels
      else (v.ackKernel r 0x81 stBadState j).endKernels) := by
  change execPreempt r s = _
  rw [execPreempt, if_neg (by omega), serve_of_speaksFor h rfl hs, ht]
  simp only [hv, hj]

theorem preemptResume_of_no_kernel (resumes : r.mflags % 2 = 1) (ht : (s.takeRequest r).tagged r.owner r.tag = none) :
    exec (.preemptResume r) s = .next ((s.takeRequest r).ack r stNoKernel) := by
  change execPreemptResume r s = _
  rw [execPreemptResume, if_neg (by omega), serve_of_speaksFor h rfl hs, ht]

theorem preemptResume_of_kernel (resumes : r.mflags % 2 = 1) (ht : (s.takeRequest r).tagged r.owner r.tag = some k) {t : State}
    (hl : ((s.takeRequest r).ackKernel r 0x81 stOk k).logOrder k r.source (.preempt k.owner k.knum true) = t) :
    exec (.preemptResume r) s = .next (if k.state = .preempted ∨ k.state = .faulted
      then if k.forPriority then t else (t.resumeKernel k).endKernels
      else (s.takeRequest r).ackKernel r 0x81 stBadState k) := by
  change execPreemptResume r s = _
  rw [execPreemptResume, if_neg (by omega), serve_of_speaksFor h rfl hs, ht]
  simp only [hl]

end

section
variable (h : taken s r 4) (hs : speaksFor s r o)
include h hs

theorem query_of_no_kernel (ht : (s.takeRequest r).tagged r.owner r.tag = none) : exec (.query r) s = .next ((s.takeRequest r).ack r stNoKernel) := by
  change execQuery r s = _
  rw [execQuery, serve_of_speaksFor h rfl hs, ht]

theorem query_of_kernel (ht : (s.takeRequest r).tagged r.owner r.tag = some k) :
    exec (.query r) s = .next ((s.takeRequest r).ackKernel r 0x83 stOk k) := by
  change execQuery r s = _
  rw [execQuery, serve_of_speaksFor h rfl hs, ht]

end

theorem launchOp_eq_false {op : Nat} (kernel : ¬ (1 ≤ op ∧ op ≤ 4)) (memory : ¬ (20 ≤ op ∧ op ≤ 25)) : launchOp op = false := by
  simp only [launchOp, Bool.or_eq_false_iff, Bool.and_eq_false_iff, decide_eq_false_iff_not]
  omega

/-- An OP that the launch endpoint does not know is BADOP. -/
theorem badop_of_speaksFor (h : taken s r r.op) (hs : speaksFor s r o) (unknown : launchOp r.op = false) :
    exec (.badopRequest r false) s = .next ((s.takeRequest r).ack r stBadOp) := by
  change execBadopRequest r false s = _
  rw [execBadopRequest, if_neg Bool.false_ne_true, serve_of_speaksFor h (by rw [unknown]; rfl) hs]

/-- An OP that the administration endpoint does not know is BADOP. -/
theorem badop_of_administrator (h : taken s r r.op) {ep : Nat} (hr : r.source = .host ep) (cred : r.cred = Config.adminCred)
    (other : ¬ (16 ≤ r.op ∧ r.op ≤ 19)) : exec (.badopRequest r true) s = .next (s.ack r stBadOp) := by
  have unknown : (!(16 ≤ r.op && r.op ≤ 19)) = true := by
    simp only [Bool.not_eq_true', Bool.and_eq_false_iff, decide_eq_false_iff_not]
    omega
  have heard : s.heard r (fun op => !(16 ≤ op && op ≤ 19)) = true := heard_of_taken h unknown hr
  change execBadopRequest r true s = _
  rw [execBadopRequest, if_pos rfl, State.administer, hr]
  simp only [heard, cred, Bool.not_true, Bool.false_eq_true, if_false, ne_eq, not_true_eq_false]

end

/-- Settles O47: a request that is taken and speaks for its owner is served in the state without it, one that speaks for none is BADCRED, and each request's
outcome follows the kernel its TAG names. -/
theorem kernelRequestsAreAnswered : Obligations.KernelRequestsAreAnswered := by
  intro s r o k chain
  refine ⟨fun hn => ?_, fun hs h hr => ?_, fun hs h => ⟨abort_of_no_kernel h hs, abort_of_kernel h hs⟩, fun hs h stops => ?_, fun hs h resumes => ?_,
    fun hs h => ⟨query_of_no_kernel h hs, query_of_kernel h hs⟩, fun hs low high h => badop_of_speaksFor h hs (launchOp_eq_false low high),
    fun ep hr cred other h => badop_of_administrator h hr cred other, fun ep chand bytes => rfl, fun queued => by rw [State.orderAbort, queued]; rfl⟩
  · refine ⟨fun h => ?_, fun h => ?_, fun h stops => ?_, fun h resumes => ?_, fun h => ?_⟩
    · exact congrArg Host.Outcome.next (serveReading_of_not_speaksFor h rfl hn _ _)
    · exact congrArg Host.Outcome.next (serve_of_not_speaksFor h rfl hn _)
    · exact congrArg Host.Outcome.next ((if_neg (by omega)).trans (serve_of_not_speaksFor h rfl hn _))
    · exact congrArg Host.Outcome.next ((if_neg (by omega)).trans (serve_of_not_speaksFor h rfl hn _))
    · exact congrArg Host.Outcome.next (serve_of_not_speaksFor h rfl hn _)
  · refine ⟨fun j => launch_of_live_tag h hs hr, fun ht => ⟨launch_of_no_chain h hs hr ht, fun hc => ⟨fun refused => ?_, fun accepted never => ?_,
      fun accepted fits => ⟨rfl, rfl, ?_⟩⟩⟩⟩
    · rw [launch_of_chain h hs hr ht hc, if_pos refused]; rfl
    · rw [launch_of_chain h hs hr ht hc, if_neg (ne_true_of_eq_false accepted), if_pos never]; rfl
    · rw [launch_of_chain h hs hr ht hc, if_neg (ne_true_of_eq_false accepted), if_neg (ne_true_of_eq_false fits)]; rfl
  · refine ⟨preempt_of_no_kernel h hs stops, fun ht => ⟨fun idle => ?_, fun runs => ?_⟩⟩
    · rw [preempt_of_kernel h hs stops ht rfl rfl, if_neg idle]; rfl
    · rw [preempt_of_kernel h hs stops ht rfl rfl, if_pos runs]; rfl
  · refine ⟨preemptResume_of_no_kernel h hs resumes, fun ht => ⟨fun running whole => ?_, fun stopped => ?_⟩⟩
    · rw [preemptResume_of_kernel h hs resumes ht rfl, if_neg (not_or.mpr ⟨running, whole⟩)]; rfl
    · rw [preemptResume_of_kernel h hs resumes ht rfl, if_pos stopped]; rfl

end Sys2Proof.Machine
end

section
/-!
PROOFS. What a SEND answers where the table of contexts lists the executing slot too (08 R176, R190, 06 R156): a WFI that the message ends commits its chunk,
which rebuilds the table, and the send goes on with the registers of the stale entry. State.ctxs is meant to hold the other contexts alone, by rising slots;
the statement asks that of no state.
-/

namespace Sys2Proof.Machine

/-! ### A sender whose slot has a stale entry -/

/-- The sender, in slot 0 of core 0: its descriptor, in s1, is 16 bytes to core 0, and its image lies where s2 says, in the TCM. -/
def staleSending : Context :=
  let a := { Arch.zero with regs := (Arch.zero.regs.set 1 (16 * 2 ^ 16)).set 2 (BitVec.ofNat 64 tcmWindow), pc := 0x1000 }
  { Context.free with life := .running, arch := a, chunk := Chunk.fresh a, owner := 1, knum := 1 }

/-- A handler on the same core that waits in a WFI; its next instruction is the last of its chunk. -/
def waitingHandler : Context :=
  { Context.free with
    life := .waiting, wait := { kind := .wfi, rd := 1, ins := some (.wfi 1) }, chunk := { Chunk.fresh Arch.zero with maxIns := 1 }, owner := 1, knum := 1
    handling := some { sender := 0, stamp := 0, key := .root 0 0, block := 0, freeMode := false, firstChunk := false } }

/-- What the table lists for slot 0 itself: the sender, but for a descriptor of the launch endpoint. -/
def staleEntry : Context := { staleSending with arch := staleSending.arch.setReg 1 512 }

/-- Core 0 takes messages, and the table lists the handler in slot 1 before the stale entry of slot 0. -/
def staleTable : State :=
  ({ State.reset with cur := (0, 0), ctx := staleSending, ctxs := [(1, waitingHandler), (0, staleEntry)] } : State).mapCore 0 fun c =>
    { c with owner := 1, knum := 1, queueMode := .active, k := { c.k with hboundHi := 0x100000 } }

/-- The state in which the send has read its image. -/
def imageRead : State :=
  match readWords 2 tcmWindow staleTable.commitCur with
  | .ok (_, t) => t
  | .error _ => staleTable

theorem readWords_staleTable : readWords 2 tcmWindow staleTable.commitCur = .ok (List.replicate 16 0, imageRead) := by
  have read : (readWords 2 tcmWindow staleTable.commitCur).toOption = some (List.replicate 16 0, imageRead) := by decide +kernel
  cases result : readWords 2 tcmWindow staleTable.commitCur with
  | ok found => rw [result] at read; exact congrArg Except.ok (Option.some.inj read)
  | error _ => rw [result] at read; cases read

/-- The stale entry's descriptor names the launch endpoint, so that the send to core 0 is a request to lysa too. -/
theorem send_staleTable_requests : (nextOf staleTable (exec (.send 3 1 2 0) staleTable)).requests.length = 1 := by decide +kernel

/-- Refutes O38: where the table of contexts lists the executing slot behind a context that the message wakes, SEND ends with the stale entry's registers, by
whose descriptor it is a request to lysa; the statement's next state holds none. -/
theorem not_messagesAreSent : ¬ Obligations.MessagesAreSent := by
  unfold Obligations.MessagesAreSent
  intro h
  have plain : staleTable.plain := ⟨rfl, rfl⟩
  have canCommit : staleTable.canCommit = true := by decide +kernel
  have valid : validMessage (staleTable.x 1) true 16 := by unfold validMessage; decide +kernel
  have noLaunch : (staleTable.x 1).getLsbD 9 = false := by decide +kernel
  obtain ⟨sends, -⟩ := h staleTable imageRead imageRead 3 1 2 0 0 (List.replicate 16 0) [] 16 plain canCommit
  obtain ⟨toCore, -⟩ := sends rfl readWords_staleTable rfl
  obtain ⟨taken, -⟩ := toCore valid noLaunch
  have answer := taken (by decide +kernel) ⟨by decide +kernel, by decide +kernel⟩
  have stated := send_staleTable_requests.symm.trans (congrArg (fun o => (nextOf staleTable o).requests.length) answer)
  exact absurd stated (by decide +kernel)

end Sys2Proof.Machine
end
